-- ==== Sys2Proof/Word.lean ====
section
/-! DEFINITION. The word types of the Orsum and their plainest arithmetic (spec 00 R3, R8; 02 R22). -/

namespace Sys2Proof

/-- One byte (R3). -/
abbrev Byte := BitVec 8

/-- A scalar register, a staging register, a control register image, a virtual address (R130, R178). -/
abbrev Word := BitVec 64

/-- A 4096-bit row, latch or channel entry (R8). -/
abbrev Row := BitVec 4096

/-- A 512-bit mask: bit i governs lane i (R8). -/
abbrev Mask := BitVec 512

/-- A 48-bit logical cycle count (R22). -/
abbrev Lc := BitVec 48

end Sys2Proof
end

