-- ==== Sys2Proof/Config.lean ====
section
/-! DEFINITION. What the manual leaves open and the model leaves open with it: free values, constants with no body.
No proof can evaluate one, so a claim that holds is true whatever they are. Each is named in the assumption log. -/

namespace Sys2Proof.Config

/-- The DRAM row (numbered within the package) that holds a line of HBM4: the row geometry is in no rule (R283; log entry 5). -/
opaque dramRowOf : Nat → Nat

/-- The bank of a DRAM row (R284; log entry 5). -/
opaque dramBankOf : Nat → Nat

/-- Whether the n-th HBM4 access closes its row, which is when the controller counts the activation (R283; log entry 5). -/
opaque precharges : Nat → Bool

/-- The set of ten TSV groups by which a line of its stack travels: how many sets a stack has is in no rule (R281, R282; log entry 5). -/
opaque tsvSetOf : Nat → Nat

/-- The row of 512 bytes of a Buckle's SRAM that holds the word at a physical address (R292; log entry 5). -/
opaque buckleRowOf : Nat → Nat

/-- The capacity module, modulo 8, that holds a line of the capacity tier (R289; log entry 5). -/
opaque moduleOf : Nat → Nat

/-- Firmware's threshold for correctable events, by the KIND of the unit (R282, R292; log entry 5). -/
opaque errorThreshold : Nat → Nat

/-- Bytes of the firmware image of stage 1 or 2, with its public key (a point) and its signature (R303, R306; log entry 6). -/
opaque image : Nat → List Byte
opaque imageKey : Nat → Nat × Nat
opaque imageSign : Nat → Nat × Nat

/-- The hash of the image-signing public key that the boot ROM holds (R306; log entry 6). -/
opaque romKeyHash : BitVec 384

/-- The attestation private key, made at manufacture, and the number that a signature of some bytes draws (R306; log entry 6). -/
opaque attestKey : Nat
opaque signNonce : List Byte → Nat

/-- Word k of RSP after LOG_READ, from the numbers of the record: how it is laid out is in no rule (R305; log entry 7). -/
opaque logWord : List Nat → Nat → Word

/-- Word k of RSP after COUNTERS, from the blocks in the event queue, its overflow, and the die's counters that are not 0 by block: the layout is
in no rule (R186, R305; log entry 7). -/
opaque eventWord : List Nat → Bool → List (Nat × Nat) → Nat → Word

/-- The UALink accelerator identifier of this package: no rule gives it (R302; log entry 47). -/
opaque accelerator : Nat

/-- Pages of 32 KiB that the save area of a group takes, by its contexts, rows, banks and spill units: the layout is internal (R276; log
entry 8). -/
opaque saveAreaPages : Nat → Nat → Nat → Nat → Nat

/-- A fresh value for the n-th open value that a step meets (log entry 4). -/
opaque freeWord : Nat → Word

end Sys2Proof.Config
end

