-- ==== Sys2Proof/Syntax.lean ====
section
/-! DEFINITION. The operations of the Orsum: one constructor of `Instr` per row of spec/opcode_table.json.
The slot operations and header actions carry the fields of their encodings (spec 05 R92 to R113); the device steps
carry what they act on: a context (tile * 4 + context number), an access by its identity number, a queue, a function. -/

namespace Sys2Proof

/-- The slots of a bundle in the order of R28; `none` codes a fault without a slot (R269). -/
inductive Slot where
  | s | va | vb | mx | xp | ld | st | ce | sy | none
  deriving DecidableEq, Repr

/-- Element types (R101). -/
inductive Ty where
  | b | i8 | i16 | i32 | i64 | n8 | n16 | n32 | n64 | f32 | f16 | bf16 | txb8 | txb6 | txb4
  deriving DecidableEq, Repr

/-- Scalar operand (R100): a scalar register or bits [63:0] of a latch. -/
inductive SSrc where
  | s (n : Nat)
  | latch (n : Nat)
  deriving DecidableEq, Repr

/-- Scalar destination (R100): a register, or the latch ring alone (NW = 1). -/
inductive SDst where
  | s (n : Nat)
  | off
  deriving DecidableEq, Repr

/-- Vector source (R98). -/
inductive VSrc where
  | row (n : Nat)
  | latch (n : Nat)
  | head (n : Nat)
  | scalar (n : Nat)
  | zero
  | lane
  | ones
  deriving DecidableEq, Repr

/-- Vector destination (R99): a row, a send port, or the latch ring alone (NW = 1). -/
inductive VDst where
  | row (n : Nat)
  | port (n : Nat)
  | off
  deriving DecidableEq, Repr

/-- Predicate: mask MK and sense MS (R102, R146). -/
structure Pred where
  mask : Nat
  inv  : Bool
  deriving DecidableEq, Repr

/-- RM field (R105). -/
inductive RMode where
  | slot | nearest | zero | up | down
  deriving DecidableEq, Repr

/-- Head of a vector instruction: which slot, TYPE, predicate, RM, destination (R105). -/
structure VHead where
  vb : Bool
  ty : Ty
  p  : Pred
  rm : RMode
  d  : VDst
  deriving DecidableEq, Repr

/-- Head of a vector-slot instruction that writes a mask register (R99). -/
structure MHead where
  vb : Bool
  p  : Pred
  d  : Nat
  deriving DecidableEq, Repr

/-- CMP conditions (R104). -/
inductive Cond where
  | eq | ne | lt | ge | le | gt
  deriving DecidableEq, Repr

/-- BRC conditions (R104). -/
inductive ZCond where
  | eqz | nez | ltz | gez | gtz | lez
  deriving DecidableEq, Repr

/-- VCMP conditions (R106). -/
inductive VCond where
  | eq | ne | lt | le | gt | ge | un
  deriving DecidableEq, Repr

/-- VSCAN functions (R106). -/
inductive ScanFn where
  | add | xor | max | min
  deriving DecidableEq, Repr

/-- MMA cells (R108). -/
inductive Cell where
  | mac | ada | csel
  deriving DecidableEq, Repr

/-- Push formats (R108, R210). -/
inductive PushFmt where
  | bf16 | f16 | txb8 | txb6 | txb4 | i8
  deriving DecidableEq, Repr

/-- The three AFTER fields (R102). -/
structure After where
  a0 : Option Nat
  a1 : Option Nat
  a2 : Option Nat
  deriving DecidableEq, Repr

/-- Common fields of the load slot without DEST (R110). -/
structure LHead where
  oc   : Nat
  lsel : Nat
  deriving DecidableEq, Repr

/-- Common fields of the store slot without SV (R111). -/
structure SHead where
  oc : Nat
  fl : Bool
  deriving DecidableEq, Repr

/-- Row destination of a vector load: a row, or the LD latch alone (R110). -/
inductive RDst where
  | row (n : Nat)
  | off
  deriving DecidableEq, Repr

/-- Atomic operations (R113). -/
inductive AOp where
  | add | fadd | min | max | and | or | xor | xchg | cas
  deriving DecidableEq, Repr

/-- Atomic types (R113). -/
inductive AType where
  | i32 | i64 | n32 | n64 | f32
  deriving DecidableEq, Repr

/-- DRAIN paths (R113, R198). -/
inductive Path where
  | hbm | cap | win | host | peer | tile
  deriving DecidableEq, Repr

/-- FENCE scopes (R113, R196). -/
inductive Scope where
  | ctx | tile | group | die | pkg | sys
  deriving DecidableEq, Repr

/-- SHOOT kinds (R113, R367). -/
inductive ShootKind where
  | page | range | tenant
  deriving DecidableEq, Repr

/-- Registers that have no behaviour of their own: of a queue's block, of the mailbox, and those that firmware alone writes, a die's row
activation threshold and an entry of its gateway's peer table (R69, R305, R283, R302). -/
inductive PlainReg where
  | qbase (q : Nat) | qregion (q : Nat) | req (word : Nat) | door | rowTh (die : Nat) | peerEntry (die n : Nat)
  deriving DecidableEq, Repr

/-- What another package asks for (R301, R302). -/
inductive PeerOp where
  | read (n : Nat)
  | write (data : List Byte)
  | atom (op : AOp) (ty : AType) (operand cmp : Word)
  | red (op : AOp) (ty : AType) (val : Word) (n i : Nat)
  | arrive
  | count (n : Nat)
  deriving DecidableEq, Repr

/-- What its address means: a frame of this package, an address under the tenant's tree here, made at tenant system level or tensor-qualified
(12 R254), or an offset in a handle that a die exports (08 R173). -/
inductive PeerPlace where
  | frame
  | virt (sys tq : Bool)
  | handle (die key : Nat)
  deriving DecidableEq, Repr

/-- What a power-on sequence meets: the step that fails, if any, the tiles (die, column, row) that fail their test, and the entries (die, number,
accelerator) of the peer tables that firmware loads (15 R303). -/
structure PowerOn where
  failStep : Option Nat
  bad      : List (Nat × Nat × Nat)
  peers    : List (Nat × Nat × Nat)
  deriving DecidableEq, Repr

/-- The operations and steps, in the table's order (spec/opcode_table.json). -/
inductive Instr where
  /-- R313. -/
  | add (d : SDst) (a b : SSrc)
  /-- R313. -/
  | addImm (d : SDst) (a : SSrc) (imm : BitVec 32)
  /-- R350. -/
  | sub (d : SDst) (a b : SSrc)
  /-- R350. -/
  | subImm (d : SDst) (a : SSrc) (imm : BitVec 32)
  /-- R350. -/
  | mul (d : SDst) (a b : SSrc)
  /-- R350. -/
  | mulImm (d : SDst) (a : SSrc) (imm : BitVec 32)
  /-- R350. -/
  | mulh (u : Bool) (d : SDst) (a b : SSrc)
  /-- R350. -/
  | mulhImm (u : Bool) (d : SDst) (a : SSrc) (imm : BitVec 32)
  /-- R331. -/
  | div (u : Bool) (d : SDst) (a b : SSrc)
  /-- R331. -/
  | divImm (u : Bool) (d : SDst) (a : SSrc) (imm : BitVec 32)
  /-- R331. -/
  | mod (u : Bool) (d : SDst) (a b : SSrc)
  /-- R331. -/
  | modImm (u : Bool) (d : SDst) (a : SSrc) (imm : BitVec 32)
  /-- R313. -/
  | and (d : SDst) (a b : SSrc)
  /-- R313. -/
  | andImm (d : SDst) (a : SSrc) (imm : BitVec 32)
  /-- R313. -/
  | andn (d : SDst) (a b : SSrc)
  /-- R313. -/
  | andnImm (d : SDst) (a : SSrc) (imm : BitVec 32)
  /-- R350. -/
  | or (d : SDst) (a b : SSrc)
  /-- R350. -/
  | orImm (d : SDst) (a : SSrc) (imm : BitVec 32)
  /-- R409. -/
  | xor (d : SDst) (a b : SSrc)
  /-- R409. -/
  | xorImm (d : SDst) (a : SSrc) (imm : BitVec 32)
  /-- R350. -/
  | shl (d : SDst) (a b : SSrc)
  /-- R350. -/
  | shlImm (d : SDst) (a : SSrc) (imm : BitVec 32)
  /-- R350. -/
  | shr (d : SDst) (a b : SSrc)
  /-- R350. -/
  | shrImm (d : SDst) (a : SSrc) (imm : BitVec 32)
  /-- R350. -/
  | sar (d : SDst) (a b : SSrc)
  /-- R350. -/
  | sarImm (d : SDst) (a : SSrc) (imm : BitVec 32)
  /-- R350. -/
  | rotl (d : SDst) (a b : SSrc)
  /-- R350. -/
  | rotlImm (d : SDst) (a : SSrc) (imm : BitVec 32)
  /-- R350. -/
  | min (u : Bool) (d : SDst) (a b : SSrc)
  /-- R350. -/
  | minImm (u : Bool) (d : SDst) (a : SSrc) (imm : BitVec 32)
  /-- R350. -/
  | max (u : Bool) (d : SDst) (a b : SSrc)
  /-- R350. -/
  | maxImm (u : Bool) (d : SDst) (a : SSrc) (imm : BitVec 32)
  /-- R321. -/
  | cmp (c : Cond) (u : Bool) (d : SDst) (a b : SSrc)
  /-- R321. -/
  | cmpImm (c : Cond) (u : Bool) (d : SDst) (a : SSrc) (imm : BitVec 32)
  /-- R366. -/
  | sel (d : SDst) (a b c : SSrc)
  /-- R356. -/
  | mov (d : SDst) (a : SSrc)
  /-- R320. -/
  | clz (d : SDst) (a : SSrc)
  /-- R320. -/
  | ctz (d : SDst) (a : SSrc)
  /-- R356. -/
  | popc (d : SDst) (a : SSrc)
  /-- R320. -/
  | bswap (d : SDst) (a : SSrc)
  /-- R356. -/
  | sext (w : Nat) (d : SDst) (a : SSrc)
  /-- R356. -/
  | zext (w : Nat) (d : SDst) (a : SSrc)
  /-- R341. -/
  | li (d : SDst) (imm : BitVec 32)
  /-- R341. -/
  | lih (d : SDst) (imm : BitVec 32)
  /-- R319. -/
  | br (off : BitVec 32)
  /-- R319. -/
  | brc (c : ZCond) (a : SSrc) (off : BitVec 32)
  /-- R319. -/
  | bl (off : BitVec 32)
  /-- R364. -/
  | ret
  /-- R343. -/
  | loopImm (n last : Nat)
  /-- R343. -/
  | loopReg (a : SSrc) (last : Nat)
  /-- R344. -/
  | loopx
  /-- R373. -/
  | stg (e : Nat) (a : SSrc)
  /-- R336. -/
  | gts (d : SDst) (e : Nat)
  /-- R370. -/
  | spl (d : SDst) (idx : Nat)
  /-- R370. -/
  | sps (a : SSrc) (idx : Nat)
  /-- R374. -/
  | sysr (d : SDst) (idx : Nat)
  /-- R375. -/
  | sysw (idx : Nat) (a : SSrc)
  /-- R376. -/
  | trap (code : BitVec 16)
  /-- R271. -/
  | rte
  /-- R333. -/
  | exit
  /-- R335. -/
  | flgclr (sets : BitVec 5)
  /-- R96. -/
  | pop (heads : BitVec 8)
  /-- R22. -/
  | hold (n : Nat)
  /-- R97. -/
  | brk
  /-- R97. -/
  | mark
  /-- R380. -/
  | vadd (h : VHead) (a b : VSrc)
  /-- R380. -/
  | vsub (h : VHead) (a b : VSrc)
  /-- R380. -/
  | vmul (h : VHead) (a b : VSrc)
  /-- R380. -/
  | vfma (h : VHead) (a b c : VSrc)
  /-- R380. -/
  | vfms (h : VHead) (a b c : VSrc)
  /-- R380. -/
  | vfnma (h : VHead) (a b c : VSrc)
  /-- R380. -/
  | vmin (h : VHead) (a b : VSrc)
  /-- R380. -/
  | vmax (h : VHead) (a b : VSrc)
  /-- R380. -/
  | vabs (h : VHead) (a : VSrc)
  /-- R380. -/
  | vneg (h : VHead) (a : VSrc)
  /-- R380. -/
  | vabd (h : VHead) (a b : VSrc)
  /-- R385. -/
  | vcmp (h : MHead) (ty : Ty) (c : VCond) (a b : VSrc)
  /-- R399. -/
  | vsel (h : VHead) (a b : VSrc)
  /-- R382. -/
  | vand (h : VHead) (a b : VSrc)
  /-- R382. -/
  | vor (h : VHead) (a b : VSrc)
  /-- R382. -/
  | vxor (h : VHead) (a b : VSrc)
  /-- R382. -/
  | vandn (h : VHead) (a b : VSrc)
  /-- R382. -/
  | vnot (h : VHead) (a : VSrc)
  /-- R382. -/
  | vshl (h : VHead) (a b : VSrc)
  /-- R382. -/
  | vshr (h : VHead) (a b : VSrc)
  /-- R382. -/
  | vsar (h : VHead) (a b : VSrc)
  /-- R384. -/
  | vclmul (hi : Bool) (h : VHead) (a b : VSrc)
  /-- R384. -/
  | vpopc (h : VHead) (a : VSrc)
  /-- R384. -/
  | vclz (h : VHead) (a : VSrc)
  /-- R387. -/
  | vcvt (src : Ty) (h : VHead) (a : VSrc)
  /-- R402. -/
  | vqtxb (src : Ty) (tn : Nat) (h : VHead) (a b : VSrc)
  /-- R388. -/
  | vdqtxb (src : Ty) (tn : Nat) (h : VHead) (a k : VSrc)
  /-- R389. -/
  | vrcp (h : VHead) (a : VSrc)
  /-- R389. -/
  | vrsq (h : VHead) (a : VSrc)
  /-- R389. -/
  | vsqrt (h : VHead) (a : VSrc)
  /-- R389. -/
  | vexp2 (h : VHead) (a : VSrc)
  /-- R389. -/
  | vlog2 (h : VHead) (a : VSrc)
  /-- R389. -/
  | vtanh (h : VHead) (a : VSrc)
  /-- R398. -/
  | vsum (h : VHead) (a : VSrc)
  /-- R398. -/
  | vscan (fn : ScanFn) (h : VHead) (a : VSrc)
  /-- R398. -/
  | vmaxr (h : VHead) (a : VSrc)
  /-- R401. -/
  | vperm (h : VHead) (a b : VSrc)
  /-- R383. -/
  | vbcast (k : Nat) (h : VHead) (a : VSrc)
  /-- R383. -/
  | vins (k : Nat) (h : VHead) (a b : VSrc)
  /-- R383. -/
  | vext (k : Nat) (h : VHead) (a : VSrc)
  /-- R393. -/
  | viota (h : VHead)
  /-- R403. -/
  | vrng (h : VHead) (l hi k : VSrc)
  /-- R399. -/
  | vmov (h : VHead) (a : VSrc)
  /-- R405. -/
  | vslide (dist : Int) (h : VHead) (a b : VSrc)
  /-- R400. -/
  | vpack (sat : Bool) (src : Ty) (h : VHead) (a b : VSrc)
  /-- R400. -/
  | vunpk (hi : Bool) (src : Ty) (h : VHead) (a : VSrc)
  /-- R386. -/
  | vcmpr (h : VHead) (a : VSrc)
  /-- R349. -/
  | mand (h : MHead) (a b : Nat)
  /-- R349. -/
  | mor (h : MHead) (a b : Nat)
  /-- R349. -/
  | mxor (h : MHead) (a b : Nat)
  /-- R349. -/
  | mnot (h : MHead) (a : Nat)
  /-- R351. -/
  | mpopc (h : VHead) (a : Nat)
  /-- R351. -/
  | mfirst (h : VHead) (a : Nat)
  /-- R357. -/
  | mset (h : MHead) (n : Nat)
  /-- R355. -/
  | mma (cell : Cell) (wb : Bool) (src dst : Nat) (acc : Bool) (fmt : PushFmt)
  /-- R219. -/
  | mmaVirtual (cell : Cell) (wb : Bool) (x dst : Nat) (acc : Bool) (fmt : PushFmt)
  /-- R233. -/
  | mdlt (lent tnw give : Nat) (after : After)
  /-- R236. -/
  | mdltExecute (acc : Nat)
  /-- R215. -/
  | mwld (wb : Bool) (tn give : Nat) (after : After)
  /-- R347. -/
  | macz (dst n : Nat)
  /-- R218. -/
  | munf (h : Nat)
  /-- R352. -/
  | mlease
  /-- R352. -/
  | mrel
  /-- R62. -/
  | leaseTimeout (tile : Nat)
  /-- R225. -/
  | xpush (a : VSrc)
  /-- R223. -/
  | xpop (d : VDst)
  /-- R224. -/
  | xcfg
  /-- R340. -/
  | ld (l : LHead) (ty : Ty) (d : SDst) (h bs off : Nat)
  /-- R395. -/
  | vld (l : LHead) (d : RDst) (h bs off : Nat) (p : Pred)
  /-- R397. -/
  | vldt (l : LHead) (d : RDst) (tn is mr : Nat) (p : Pred)
  /-- R392. -/
  | vgath (l : LHead) (d : RDst) (tn : Nat) (idx : VSrc) (mr : Nat) (p : Pred)
  /-- R372. -/
  | st (t : SHead) (ty : Ty) (v : VSrc) (h bs off : Nat)
  /-- R395. -/
  | vst (t : SHead) (v : VSrc) (h bs off : Nat) (p : Pred)
  /-- R397. -/
  | vstt (t : SHead) (v : VSrc) (tn is : Nat) (p : Pred)
  /-- R392. -/
  | vscat (t : SHead) (v : VSrc) (tn : Nat) (idx : VSrc) (p : Pred)
  /-- R326. -/
  | cp (give : Nat) (after : After) (oc : Nat)
  /-- R327. -/
  | cpBindHandle (give : Nat) (after : After) (oc : Nat)
  /-- R327. -/
  | cpBindTensor (give : Nat) (after : After) (oc : Nat)
  /-- R329. -/
  | cpw (give : Nat) (after : After) (oc : Nat)
  /-- R330. -/
  | cpwb (give : Nat) (after : After) (oc : Nat)
  /-- R328. -/
  | cpfill (give : Nat) (after : After) (oc : Nat)
  /-- R325. -/
  | copyExecute (acc : Nat)
  /-- R161. -/
  | bindingComplete (acc : Nat)
  /-- R203. -/
  | atom (op : AOp) (oc lsel rd : Nat) (ty : AType)
  /-- R362. -/
  | red (op : AOp) (oc : Nat) (ty : AType)
  /-- R315. -/
  | arrive (rel : Bool) (classes : BitVec 16)
  /-- R407. -/
  | waitph (acq : Bool) (classes : BitVec 16)
  /-- R407. -/
  | waitcnt (acq : Bool) (classes : BitVec 16)
  /-- R198. -/
  | drain (path : Path)
  /-- R196. -/
  | fence (scope : Scope) (classes : BitVec 16)
  /-- R360. -/
  | pagereq
  /-- R337. -/
  | launch
  /-- R369. -/
  | signal (vec : Nat)
  /-- R368. -/
  | shoot (kind : ShootKind)
  /-- R251. -/
  | shmap
  /-- R243. -/
  | lnctlInval (lent : Nat)
  /-- R243. -/
  | lnctlInvalall
  /-- R243. -/
  | lnctlSetref (lent : Nat)
  /-- R27. -/
  | resultLands (ctx : Nat)
  /-- R33. -/
  | replyArrive (acc : Nat)
  /-- R38. -/
  | messageDepart (msg : Nat)
  /-- R39. -/
  | messageArrive (msg : Nat)
  /-- R36. -/
  | effectRelease (acc : Nat)
  /-- R36. -/
  | effectReleaseWall (acc : Nat)
  /-- R49. -/
  | contextSwitch (tile : Nat)
  /-- R203. -/
  | atomicApply (acc : Nat)
  /-- R204. -/
  | reductionContribution (acc : Nat)
  /-- R205. -/
  | phaseArrival (acc : Nat)
  /-- R200. -/
  | counterArrival (acc : Nat)
  /-- R205. -/
  | phaseWaitComplete (ctx : Nat)
  /-- R206. -/
  | counterWaitComplete (ctx : Nat)
  /-- R198. -/
  | drainComplete (ctx : Nat)
  /-- R173. -/
  | windowAccessAtTarget (acc : Nat)
  /-- R199. -/
  | windowStoreAck (ctx handle cls : Nat)
  /-- R89. -/
  | launchAppend (acc : Nat)
  /-- R369. -/
  | signalDeliver (acc : Nat)
  /-- R361. -/
  | pagereqRecord (acc : Nat)
  /-- R251. -/
  | shmapInstall (acc : Nat)
  /-- R258. -/
  | homeFenceRequest (acc : Nat)
  /-- R258. -/
  | queuedAtomicResend (acc : Nat)
  /-- R71. -/
  | qtailWrite (fn q : Nat) (tail : BitVec 64)
  /-- R70. -/
  | queueEnable (fn q : Nat)
  /-- R70. -/
  | queueDisable (fn q : Nat)
  /-- R70. -/
  | queueThaw (fn q : Nat)
  /-- R70. -/
  | queueFlush (fn q : Nat)
  /-- R69. -/
  | queueCmdRefused (fn q : Nat) (cmd : BitVec 3)
  /-- R69. -/
  | registerWrite (fn : Nat) (reg : PlainReg) (v : Word)
  /-- R73. -/
  | launchEntryFetch (q : Nat)
  /-- R73. -/
  | fenceEntryConsume (q : Nat)
  /-- R77. -/
  | priorityAging
  /-- R78. -/
  | schedulingPeriod
  /-- R80. -/
  | groupPlace (die : Nat)
  /-- R64. -/
  | forcedPreempt (grp : Nat)
  /-- R275. -/
  | groupSave (grp : Nat)
  /-- R86. -/
  | nodeComplete (node : Nat)
  /-- R88. -/
  | nodeHang (grp : Nat)
  /-- R87. -/
  | uncorrectableConsumed (node : Nat)
  /-- R264. -/
  | windowPreciseFault (ctx : Nat)
  /-- R273. -/
  | interruptTaken (ctx : Nat)
  /-- R298. -/
  | hostSignalWrite (fn : Nat) (v : Word)
  /-- R296. -/
  | cpendClear (fn word : Nat) (v : Word)
  /-- R296. -/
  | spendClear (fn word : Nat) (v : Word)
  /-- R297. -/
  | imaskWrite (fn : Nat) (v : Word)
  /-- R294. -/
  | hostMemoryRead (fn off len : Nat)
  /-- R294. -/
  | hostMemoryWrite (fn off : Nat) (data : List Byte)
  /-- R305. -/
  | tenantNew (fn : Nat)
  /-- R305. -/
  | tenantDel (fn : Nat)
  /-- R305. -/
  | grantMem (fn : Nat)
  /-- R305. -/
  | setRoot (fn : Nat)
  /-- R305. -/
  | mantleGrant (fn : Nat)
  /-- R305. -/
  | mantleDrop (fn : Nat)
  /-- R305. -/
  | counters (fn : Nat)
  /-- R308. -/
  | traceBind (fn : Nat)
  /-- R307. -/
  | quote (fn : Nat)
  /-- R305. -/
  | quarantine (fn : Nat)
  /-- R305. -/
  | logRead (fn : Nat)
  /-- R305. -/
  | mailboxUnknown (fn : Nat)
  /-- R290. -/
  | tileDiagnostic (unit : BitVec 32) (pass : Bool)
  /-- R286. -/
  | strikeReport (kind die place : Nat)
  /-- R287. -/
  | undoLogRetire
  /-- R283. -/
  | targetedRefreshDone (row : Nat)
  /-- R293. -/
  | linkReplay (port : Nat)
  /-- R300. -/
  | ucieRetry (die other : Nat) (lane : Option Nat)
  /-- R301. -/
  | ualinkStationRetrain (die station : Nat)
  /-- R301. -/
  | ualinkUnsupported (die peer : Nat)
  /-- R302. -/
  | peerAccessArrive (die peer : Nat) (op : PeerOp) (tenant : Nat) (place : PeerPlace) (addr : Nat)
  /-- R303. -/
  | powerOn (found : PowerOn)
  /-- R310. -/
  | traceSyncPeriod (ctx : Nat)
  /-- R308. -/
  | traceSamplePeriod (ctx : Nat)
  /-- R78. -/
  | btimeExhausted (block : Nat)
  /-- R303. -/
  | powerRemoval
  deriving DecidableEq, Repr

end Sys2Proof
end

