-- ==== Sys2Proof/WellFormed.lean ====
section
/-! DEFINITION. Which terms of `Instr` an encoding can carry: field ranges of R9 and R92 to R113, and the fields that an
instruction's own form reserves. The device steps have no encoding; each is well formed. -/

namespace Sys2Proof

/-- Width in bits of an element type; 0 for B, whose width CTL.ACCT gives (R101, R147, R152, R155). -/
def Ty.bits : Ty → Nat
  | .b => 0
  | .i8 | .n8 | .txb8 => 8
  | .i16 | .n16 | .f16 | .bf16 => 16
  | .i32 | .n32 | .f32 => 32
  | .i64 | .n64 => 64
  | .txb6 => 6
  | .txb4 => 4

/-- Signed integer types of the vector slots, set I of R379. -/
def Ty.isI : Ty → Bool
  | .i8 | .i16 | .i32 => true
  | _ => false

/-- Unsigned integer types of the vector slots, set N of R379. -/
def Ty.isN : Ty → Bool
  | .n8 | .n16 | .n32 => true
  | _ => false

/-- Floating types, set F of R379. -/
def Ty.isF : Ty → Bool
  | .f32 | .f16 | .bf16 => true
  | _ => false

/-- TXB types (R155). -/
def Ty.isTxb : Ty → Bool
  | .txb8 | .txb6 | .txb4 => true
  | _ => false

/-- Signed two's complement types (R12). -/
def Ty.signed : Ty → Bool
  | .i8 | .i16 | .i32 | .i64 => true
  | _ => false

def SSrc.wf : SSrc → Bool
  | .s n => n < 64
  | .latch n => n < 16

def SDst.wf : SDst → Bool
  | .s n => n < 64
  | .off => true

def VSrc.wf : VSrc → Bool
  | .row n => n < 2048
  | .latch n => n < 16
  | .head n => n < 8
  | .scalar n => n < 64
  | .zero | .lane | .ones => true

def VDst.wf : VDst → Bool
  | .row n => n < 2048
  | .port n => n < 8
  | .off => true

def RDst.wf : RDst → Bool
  | .row n => n < 2048
  | .off => true

def Pred.wf (p : Pred) : Bool := p.mask < 16

/-- An instruction that does not round takes RM as reserved (R105); integer forms of rounding mnemonics do not round. -/
def VHead.wf (rounds : Bool) (h : VHead) : Bool := h.p.wf && h.d.wf && (rounds || h.rm = .slot)

def MHead.wf (h : MHead) : Bool := h.p.wf && h.d < 16

def LHead.wf (l : LHead) : Bool := l.oc < 16 && l.lsel < 8

def SHead.wf (t : SHead) : Bool := t.oc < 16

def tokWf : Option Nat → Bool
  | none => true
  | some n => n < 32

def After.wf (a : After) : Bool := tokWf a.a0 && tokWf a.a1 && tokWf a.a2

/-- ARRIVE, WAITPH and WAITCNT reserve CMASK when REL or ACQ is 0 (R207). -/
def relWf (rel : Bool) (classes : BitVec 16) : Bool := rel || classes = 0

/-- SEXT and ZEXT take source widths 8, 16 and 32 (R104). -/
def extWf (w : Nat) : Bool := w = 8 || w = 16 || w = 32

/-- Whether the fields of the instruction lie in their ranges and leave its reserved fields zero. -/
def Instr.wf : Instr → Bool
  | .add d a b | .sub d a b | .mul d a b | .and d a b | .andn d a b | .or d a b | .xor d a b
  | .shl d a b | .shr d a b | .sar d a b | .rotl d a b => d.wf && a.wf && b.wf
  | .mulh _ d a b | .div _ d a b | .mod _ d a b | .min _ d a b | .max _ d a b => d.wf && a.wf && b.wf
  | .addImm d a _ | .subImm d a _ | .mulImm d a _ | .andImm d a _ | .andnImm d a _ | .orImm d a _ | .xorImm d a _
  | .shlImm d a _ | .shrImm d a _ | .sarImm d a _ | .rotlImm d a _ => d.wf && a.wf
  | .mulhImm _ d a _ | .divImm _ d a _ | .modImm _ d a _ | .minImm _ d a _ | .maxImm _ d a _ => d.wf && a.wf
  | .cmp _ _ d a b => d.wf && a.wf && b.wf
  | .cmpImm _ _ d a _ => d.wf && a.wf
  | .sel d a b c => d.wf && a.wf && b.wf && c.wf
  | .mov d a | .clz d a | .ctz d a | .popc d a | .bswap d a => d.wf && a.wf
  | .sext w d a | .zext w d a => extWf w && d.wf && a.wf
  | .li d _ | .lih d _ => d.wf
  | .br _ | .bl _ | .ret | .loopx | .trap _ | .rte | .exit | .flgclr _ => true
  | .brc _ a _ => a.wf
  | .loopImm n last => n < 2 ^ 20 && last < 2 ^ 16
  | .loopReg a last => a.wf && last < 2 ^ 16
  | .stg e a => e < 64 && a.wf
  | .gts d e => d.wf && e < 64
  | .spl d i | .sysr d i => d.wf && i < 4096
  | .sps a i | .sysw i a => a.wf && i < 4096
  | .pop h => h != 0
  | .hold n => 0 < n && n < 16
  | .brk | .mark => true
  | .vadd h a b | .vsub h a b | .vmul h a b | .vabd h a b => h.wf h.ty.isF && a.wf && b.wf
  | .vfma h a b c | .vfms h a b c | .vfnma h a b c => h.wf h.ty.isF && a.wf && b.wf && c.wf
  | .vmin h a b | .vmax h a b | .vsel h a b | .vand h a b | .vor h a b | .vxor h a b | .vandn h a b
  | .vshl h a b | .vshr h a b | .vsar h a b | .vperm h a b => h.wf false && a.wf && b.wf
  | .vabs h a | .vneg h a | .vnot h a | .vpopc h a | .vclz h a | .vmaxr h a | .vmov h a | .vcmpr h a => h.wf false && a.wf
  | .vcmp h _ _ a b => h.wf && a.wf && b.wf
  | .vclmul _ h a b => h.wf false && a.wf && b.wf
  | .vcvt src h a => h.wf (h.ty.isF || src.isF) && a.wf
  | .vqtxb _ tn h a b | .vdqtxb _ tn h a b => h.wf true && tn < 256 && a.wf && b.wf
  | .vrcp h a | .vrsq h a | .vsqrt h a | .vexp2 h a | .vlog2 h a | .vtanh h a | .vsum h a => h.wf h.ty.isF && a.wf
  | .vscan fn h a => h.wf (h.ty.isF && fn = .add) && a.wf
  | .vbcast k h a | .vext k h a => k < 4096 && h.wf false && a.wf
  | .vins k h a b => k < 4096 && h.wf false && a.wf && b.wf
  | .viota h => h.wf false
  | .vrng h l hi k => h.wf false && l.wf && hi.wf && k.wf
  | .vslide dist h a b => -2048 ≤ dist && dist < 2048 && h.wf false && a.wf && b.wf
  | .vpack _ _ h a b => h.wf false && a.wf && b.wf
  | .vunpk _ _ h a => h.wf false && a.wf
  | .mand h a b | .mor h a b | .mxor h a b => h.wf && a < 16 && b < 16
  | .mnot h a => h.wf && a < 16
  | .mpopc h a | .mfirst h a => h.wf false && a < 16 && (match h.d with | .port _ => false | _ => true)
  | .mset h n => h.wf && n < 4096
  | .mma _ _ a d _ _ => a < 2048 && d < 2048
  | .mmaVirtual _ _ x d _ _ => x < 4096 && d < 2048
  | .mdlt l tn g a => l < 512 && tn < 256 && g < 32 && a.wf
  | .mwld _ tn g a => tn < 256 && g < 32 && a.wf
  | .macz d n => d < 2048 && 0 < n && n ≤ 256
  | .munf h => h < 256
  | .mlease | .mrel | .xcfg => true
  | .xpush a => a.wf
  | .xpop d => d.wf && d != .off
  | .ld l _ d h bs off => l.wf && d.wf && h < 256 && bs < 64 && off < 2 ^ 14
  | .vld l d h bs off p => l.wf && d.wf && h < 256 && bs < 64 && off < 2 ^ 13 && p.wf
  | .vldt l d tn is mr p => l.wf && d.wf && tn < 256 && is < 64 && mr < 16 && p.wf
  | .vgath l d tn idx mr p => l.wf && d.wf && tn < 256 && idx.wf && mr < 16 && p.wf
  | .st t _ v h bs off => t.wf && v.wf && h < 256 && bs < 64 && off < 2 ^ 14
  | .vst t v h bs off p => t.wf && v.wf && h < 256 && bs < 64 && off < 2 ^ 13 && p.wf
  | .vstt t v tn is p => t.wf && v.wf && tn < 256 && is < 64 && p.wf
  | .vscat t v tn idx p => t.wf && v.wf && tn < 256 && idx.wf && p.wf
  | .cp g a oc | .cpBindHandle g a oc | .cpBindTensor g a oc | .cpw g a oc | .cpwb g a oc | .cpfill g a oc =>
    g < 32 && a.wf && oc < 16
  | .atom _ oc lsel rd _ => oc < 16 && lsel < 8 && rd < 64
  | .red op oc _ => oc < 16 && (op = .add || op = .fadd || op = .min || op = .max)
  | .arrive rel c | .waitph rel c | .waitcnt rel c => relWf rel c
  | .drain _ | .fence _ _ | .pagereq | .launch | .shoot _ | .shmap | .lnctlInvalall => true
  | .signal v => v < 256
  | .lnctlInval l | .lnctlSetref l => l < 512
  | .leaseTimeout _ | .mdltExecute _ | .copyExecute _ | .bindingComplete _ | .resultLands _ | .replyArrive _
  | .messageDepart _ | .messageArrive _ | .effectRelease _ | .effectReleaseWall _ | .contextSwitch _ | .atomicApply _
  | .reductionContribution _ | .phaseArrival _ | .counterArrival _ | .phaseWaitComplete _ | .counterWaitComplete _
  | .drainComplete _ | .windowAccessAtTarget _ | .windowStoreAck _ _ _ | .launchAppend _ | .signalDeliver _
  | .pagereqRecord _ | .shmapInstall _ | .homeFenceRequest _ | .queuedAtomicResend _ | .qtailWrite _ _ _
  | .queueEnable _ _ | .queueDisable _ _ | .queueThaw _ _ | .queueFlush _ _ | .queueCmdRefused _ _ _
  | .registerWrite _ _ _ | .launchEntryFetch _ | .fenceEntryConsume _ | .priorityAging | .schedulingPeriod
  | .groupPlace _ | .forcedPreempt _ | .groupSave _ | .nodeComplete _ | .nodeHang _ | .uncorrectableConsumed _
  | .windowPreciseFault _ | .interruptTaken _ | .hostSignalWrite _ _ | .cpendClear _ _ _ | .spendClear _ _ _
  | .imaskWrite _ _ | .hostMemoryRead _ _ _ | .hostMemoryWrite _ _ _ | .tenantNew _ | .tenantDel _ | .grantMem _
  | .setRoot _ | .mantleGrant _ | .mantleDrop _ | .counters _ | .traceBind _ | .quote _ | .quarantine _ | .logRead _
  | .mailboxUnknown _ | .tileDiagnostic _ _ | .strikeReport _ _ _ | .undoLogRetire | .targetedRefreshDone _
  | .linkReplay _ | .ucieRetry _ _ _ | .ualinkStationRetrain _ _ | .ualinkUnsupported _ _
  | .peerAccessArrive _ _ _ _ _ _ | .powerOn _ | .traceSyncPeriod _ | .traceSamplePeriod _ | .btimeExhausted _
  | .powerRemoval => true

end Sys2Proof
end

