-- ==== Sys2Proof/Decode.lean ====
section
/-! DEFINITION. The bundle: its slots, the decoder of each slot and of a whole bundle, the decoding checks of R114 that
depend on CTL.ACCT, and the encoder. A slot word is a natural number whose bit 0 is the slot's bit 0 (R92). -/

namespace Sys2Proof

/-- Why a bundle or slot does not decode (R95, R114). -/
inductive DecodeErr where
  | illegalBundle | reservedField | illegalInstruction
  deriving DecidableEq, Repr

/-- Bits [hi:lo] of a word (R3). -/
def bf (w hi lo : Nat) : Nat := w / 2 ^ lo % 2 ^ (hi + 1 - lo)

/-- The sign-extended value of the low n bits. -/
def sextNat (n v : Nat) : Int := if v % 2 ^ n < 2 ^ (n - 1) then (v % 2 ^ n : Nat) else ((v % 2 ^ n : Nat) : Int) - (2 ^ n : Nat)

/-! ## Operand fields (R98 to R102) -/

def Ty.ofCode : Nat → Option Ty
  | 0 => some .b | 1 => some .i8 | 2 => some .i16 | 3 => some .i32 | 4 => some .i64
  | 5 => some .n8 | 6 => some .n16 | 7 => some .n32 | 8 => some .n64
  | 9 => some .f32 | 10 => some .f16 | 11 => some .bf16 | 12 => some .txb8 | 13 => some .txb6 | 14 => some .txb4
  | _ => none

def Ty.code : Ty → Nat
  | .b => 0 | .i8 => 1 | .i16 => 2 | .i32 => 3 | .i64 => 4 | .n8 => 5 | .n16 => 6 | .n32 => 7 | .n64 => 8
  | .f32 => 9 | .f16 => 10 | .bf16 => 11 | .txb8 => 12 | .txb6 => 13 | .txb4 => 14

/-- R100: 0ssssss a scalar, 100bbbb a latch. -/
def decSSrc (f : Nat) : Option SSrc :=
  if f < 64 then some (.s f) else if f < 80 then some (.latch (f - 64)) else none

def encSSrc : SSrc → Nat
  | .s n => n
  | .latch n => 64 + n

/-- R100: RD names a scalar; with NW = 1 it is reserved. -/
def decSDst (nw rd : Nat) : Option SDst :=
  if nw = 0 then (if rd < 64 then some (.s rd) else none) else if rd = 0 then some .off else none

def encNw : SDst → Nat
  | .s _ => 0
  | .off => 1

def encRd : SDst → Nat
  | .s n => n
  | .off => 0

/-- R98, a 12-bit vector source field. -/
def decVSrc (f : Nat) : Option VSrc :=
  if f < 2048 then some (.row f)
  else if f < 2048 + 16 then some (.latch (f - 2048))
  else if 0x900 ≤ f ∧ f < 0x908 then some (.head (f - 0x900))
  else if 0xA00 ≤ f ∧ f < 0xA40 then some (.scalar (f - 0xA00))
  else if f = 0xC00 then some .zero
  else if f = 0xC01 then some .lane
  else if f = 0xC02 then some .ones
  else none

def encVSrc : VSrc → Nat
  | .row n => n
  | .latch n => 0x800 + n
  | .head n => 0x900 + n
  | .scalar n => 0xA00 + n
  | .zero => 0xC00
  | .lane => 0xC01
  | .ones => 0xC02

/-- R99, a destination field and its NW bit. -/
def decVDst (nw f : Nat) : Option VDst :=
  if nw = 0 then
    (if f < 2048 then some (.row f) else if 0x900 ≤ f ∧ f < 0x908 then some (.port (f - 0x900)) else none)
  else if f = 0 then some .off else none

def encVDst : VDst → Nat
  | .row n => n
  | .port n => 0x900 + n
  | .off => 0

def encVNw : VDst → Nat
  | .off => 1
  | _ => 0

/-- R110: DEST of a vector load accepts the row form only. -/
def decRDst (nw f : Nat) : Option RDst :=
  if nw = 0 then (if f < 2048 then some (.row f) else none) else if f = 0 then some .off else none

def encRDst : RDst → Nat
  | .row n => n
  | .off => 0

def encRNw : RDst → Nat
  | .row _ => 0
  | .off => 1

/-- R99: a mask field. -/
def decMask (f : Nat) : Option Nat := if f < 16 then some f else none

/-- R102: one AFTER field; with V = 0 the index bits are reserved. -/
def decTok (f : Nat) : Option (Option Nat) :=
  if 32 ≤ f then some (some (f - 32)) else if f = 0 then some none else none

def encTok : Option Nat → Nat
  | some n => 32 + n
  | none => 0

def decAfter (f0 f1 f2 : Nat) : Option After := do
  return ⟨← decTok f0, ← decTok f1, ← decTok f2⟩

def decBool (f : Nat) : Bool := f = 1

def encBool (b : Bool) : Nat := if b then 1 else 0

def decRm : Nat → Option RMode
  | 0 => some .slot | 1 => some .nearest | 2 => some .zero | 3 => some .up | 4 => some .down | _ => none

def encRm : RMode → Nat
  | .slot => 0 | .nearest => 1 | .zero => 2 | .up => 3 | .down => 4

def decCond : Nat → Option Cond
  | 0 => some .eq | 1 => some .ne | 2 => some .lt | 3 => some .ge | 4 => some .le | 5 => some .gt | _ => none

def encCond : Cond → Nat
  | .eq => 0 | .ne => 1 | .lt => 2 | .ge => 3 | .le => 4 | .gt => 5

def decZCond : Nat → Option ZCond
  | 0 => some .eqz | 1 => some .nez | 2 => some .ltz | 3 => some .gez | 4 => some .gtz | 5 => some .lez | _ => none

def encZCond : ZCond → Nat
  | .eqz => 0 | .nez => 1 | .ltz => 2 | .gez => 3 | .gtz => 4 | .lez => 5

def decVCond : Nat → Option VCond
  | 0 => some .eq | 1 => some .ne | 2 => some .lt | 3 => some .le | 4 => some .gt | 5 => some .ge | 6 => some .un | _ => none

def encVCond : VCond → Nat
  | .eq => 0 | .ne => 1 | .lt => 2 | .le => 3 | .gt => 4 | .ge => 5 | .un => 6

def decScan : Nat → Option ScanFn
  | 0 => some .add | 1 => some .xor | 2 => some .max | 3 => some .min | _ => none

def encScan : ScanFn → Nat
  | .add => 0 | .xor => 1 | .max => 2 | .min => 3

def decCell : Nat → Option Cell
  | 0 => some .mac | 1 => some .ada | 2 => some .csel | _ => none

def encCell : Cell → Nat
  | .mac => 0 | .ada => 1 | .csel => 2

def decFmt : Nat → Option PushFmt
  | 0 => some .bf16 | 1 => some .f16 | 2 => some .txb8 | 3 => some .txb6 | 4 => some .txb4 | 5 => some .i8 | _ => none

def encFmt : PushFmt → Nat
  | .bf16 => 0 | .f16 => 1 | .txb8 => 2 | .txb6 => 3 | .txb4 => 4 | .i8 => 5

def decAOp : Nat → Option AOp
  | 0 => some .add | 1 => some .fadd | 2 => some .min | 3 => some .max | 4 => some .and | 5 => some .or | 6 => some .xor
  | 7 => some .xchg | 8 => some .cas | _ => none

def encAOp : AOp → Nat
  | .add => 0 | .fadd => 1 | .min => 2 | .max => 3 | .and => 4 | .or => 5 | .xor => 6 | .xchg => 7 | .cas => 8

def decAType : Nat → Option AType
  | 0 => some .i32 | 1 => some .i64 | 2 => some .n32 | 3 => some .n64 | 4 => some .f32 | _ => none

def encAType : AType → Nat
  | .i32 => 0 | .i64 => 1 | .n32 => 2 | .n64 => 3 | .f32 => 4

def decPath : Nat → Option Path
  | 0 => some .hbm | 1 => some .cap | 2 => some .win | 3 => some .host | 4 => some .peer | 5 => some .tile | _ => none

def encPath : Path → Nat
  | .hbm => 0 | .cap => 1 | .win => 2 | .host => 3 | .peer => 4 | .tile => 5

def decScope : Nat → Option Scope
  | 0 => some .ctx | 1 => some .tile | 2 => some .group | 3 => some .die | 4 => some .pkg | 5 => some .sys | _ => none

def encScope : Scope → Nat
  | .ctx => 0 | .tile => 1 | .group => 2 | .die => 3 | .pkg => 4 | .sys => 5

def decShoot : Nat → Option ShootKind
  | 0 => some .page | 1 => some .range | 2 => some .tenant | _ => none

def encShoot : ShootKind → Nat
  | .page => 0 | .range => 1 | .tenant => 2

/-! ## Scalar slot (R103, R104) -/

/-- FN reserved. -/
def fnNone {α : Type} (fn : Nat) (k : α) : Option α := if fn = 0 then some k else none

/-- FN[0] the signedness, FN[3:1] reserved. -/
def fnSigned {α : Type} (fn : Nat) (k : Bool → α) : Option α := if fn < 2 then some (k (decBool fn)) else none

/-- FN[3:1] the condition, FN[0] the signedness. -/
def fnCond {α : Type} (fn : Nat) (k : Cond → Bool → α) : Option α := (decCond (fn / 2)).map fun c => k c (decBool (fn % 2))

/-- Two-operand register forms, opcodes 0x01 to 0x11. -/
def sr2 (op fn : Nat) : Option (SDst → SSrc → SSrc → Instr) :=
  match op with
  | 0x01 => fnNone fn .add | 0x02 => fnNone fn .sub | 0x03 => fnNone fn .mul | 0x04 => fnSigned fn .mulh
  | 0x05 => fnSigned fn .div | 0x06 => fnSigned fn .mod | 0x07 => fnNone fn .and | 0x08 => fnNone fn .andn
  | 0x09 => fnNone fn .or | 0x0A => fnNone fn .xor | 0x0B => fnNone fn .shl | 0x0C => fnNone fn .shr
  | 0x0D => fnNone fn .sar | 0x0E => fnNone fn .rotl | 0x0F => fnSigned fn .min | 0x10 => fnSigned fn .max
  | 0x11 => fnCond fn .cmp
  | _ => none

/-- Immediate forms, opcodes 0x21 to 0x31. -/
def si2 (op fn : Nat) : Option (SDst → SSrc → BitVec 32 → Instr) :=
  match op with
  | 0x21 => fnNone fn .addImm | 0x22 => fnNone fn .subImm | 0x23 => fnNone fn .mulImm | 0x24 => fnSigned fn .mulhImm
  | 0x25 => fnSigned fn .divImm | 0x26 => fnSigned fn .modImm | 0x27 => fnNone fn .andImm | 0x28 => fnNone fn .andnImm
  | 0x29 => fnNone fn .orImm | 0x2A => fnNone fn .xorImm | 0x2B => fnNone fn .shlImm | 0x2C => fnNone fn .shrImm
  | 0x2D => fnNone fn .sarImm | 0x2E => fnNone fn .rotlImm | 0x2F => fnSigned fn .minImm | 0x30 => fnSigned fn .maxImm
  | 0x31 => fnCond fn .cmpImm
  | _ => none

/-- FN[1:0] the source width 8, 16 or 32. -/
def fnExt {α : Type} (fn : Nat) (k : Nat → α) : Option α :=
  match fn with
  | 0 => some (k 8) | 1 => some (k 16) | 2 => some (k 32) | _ => none

/-- One-operand forms, opcodes 0x18 to 0x1E. -/
def sr1 (op fn : Nat) : Option (SDst → SSrc → Instr) :=
  match op with
  | 0x18 => fnNone fn .mov | 0x19 => fnNone fn .clz | 0x1A => fnNone fn .ctz | 0x1B => fnNone fn .popc
  | 0x1C => fnNone fn .bswap | 0x1D => fnExt fn .sext | 0x1E => fnExt fn .zext
  | _ => none

/-- Assigned scalar opcodes (R104). -/
def sAssigned (op : Nat) : Bool :=
  (0x01 ≤ op && op ≤ 0x12) || (0x18 ≤ op && op ≤ 0x1E) || (0x21 ≤ op && op ≤ 0x31) || op = 0x40 || op = 0x41
    || (0x48 ≤ op && op ≤ 0x4B) || op = 0x4C || op = 0x4D || (0x50 ≤ op && op ≤ 0x55) || (0x58 ≤ op && op ≤ 0x5B)

/-- An assigned scalar word, or none where a reserved field or pattern is set. -/
def parseSBody (w : Nat) : Option Instr :=
  let op := bf w 63 56
  let fn := bf w 55 52
  let d := decSDst (bf w 51 51) (bf w 50 44)
  let sa := bf w 43 37
  let imm : BitVec 32 := BitVec.ofNat 32 w
  if op ≤ 0x11 then do
    let k ← sr2 op fn
    guard (bf w 29 0 = 0)
    return k (← d) (← decSSrc sa) (← decSSrc (bf w 36 30))
  else if op = 0x12 then do
    guard (fn = 0 ∧ bf w 22 0 = 0)
    return .sel (← d) (← decSSrc sa) (← decSSrc (bf w 36 30)) (← decSSrc (bf w 29 23))
  else if op ≤ 0x1E then do
    let k ← sr1 op fn
    guard (bf w 36 0 = 0)
    return k (← d) (← decSSrc sa)
  else if op ≤ 0x31 then do
    let k ← si2 op fn
    guard (bf w 36 32 = 0)
    return k (← d) (← decSSrc sa) imm
  else if op ≤ 0x41 then do
    guard (fn = 0 ∧ bf w 43 32 = 0)
    let r ← d
    return if op = 0x40 then .li r imm else .lih r imm
  else if op ≤ 0x4B then
    let f := bf w 51 45
    match op with
    | 0x49 => do
      guard (bf w 44 32 = 0)
      return .brc (← decZCond fn) (← decSSrc f) imm
    | 0x4B => do
      guard (bf w 55 0 = 0)
      return .ret
    | _ => do
      guard (bf w 55 32 = 0)
      return if op = 0x48 then .br imm else .bl imm
  else if op = 0x4C then do
    guard (bf w 27 16 = 0)
    if bf w 55 55 = 1 then
      guard (bf w 54 48 = 0)
      return .loopImm (bf w 47 28) (bf w 15 0)
    else
      guard (bf w 47 28 = 0)
      return .loopReg (← decSSrc (bf w 54 48)) (bf w 15 0)
  else if op = 0x4D then do
    guard (bf w 55 0 = 0)
    return .loopx
  else if op ≤ 0x55 then do
    let idx := bf w 11 0
    guard (fn = 0 ∧ bf w 36 12 = 0)
    match op with
    | 0x50 => do
      guard (bf w 51 44 = 0 ∧ idx < 64)
      return .stg idx (← decSSrc sa)
    | 0x51 => do
      guard (sa = 0 ∧ idx < 64)
      return .gts (← d) idx
    | 0x52 => do
      guard (sa = 0)
      return .spl (← d) idx
    | 0x53 => do
      guard (bf w 51 44 = 0)
      return .sps (← decSSrc sa) idx
    | 0x54 => do
      guard (sa = 0)
      return .sysr (← d) idx
    | _ => do
      guard (bf w 51 44 = 0)
      return .sysw idx (← decSSrc sa)
  else do
    guard (bf w 55 16 = 0)
    match op with
    | 0x58 => return .trap (BitVec.ofNat 16 w)
    | 0x59 => do
      guard (bf w 15 0 = 0)
      return .rte
    | 0x5A => do
      guard (bf w 15 0 = 0)
      return .exit
    | _ => do
      guard (bf w 15 5 = 0)
      return .flgclr (BitVec.ofNat 5 w)

/-- The fate of a slot word before the checks that depend on CTL.ACCT (R114): empty, an instruction, or an error. -/
def slotFate (w op : Nat) (assigned : Bool) (body : Option Instr) : Except DecodeErr (Option Instr) :=
  if w = 0 then .ok none
  else if op = 0 then .error .reservedField
  else if assigned then (match body with | some i => .ok (some i) | none => .error .reservedField)
  else .error .illegalInstruction

/-- The scalar slot; opcodes 0xF0 to 0xFF are the no-operation space (R115). -/
def parseS (w : Nat) : Except DecodeErr (Option Instr) :=
  if 0xF0 ≤ bf w 63 56 then .ok none else slotFate w (bf w 63 56) (sAssigned (bf w 63 56)) (parseSBody w)

/-! ## Vector slots (R105, R106) -/

/-- The fields of a 72-bit vector slot word. -/
structure VFields where
  vb : Bool
  ty : Nat
  pm : Nat
  ms : Nat
  rm : Nat
  nw : Nat
  vd : Nat
  v1 : Nat
  v2 : Nat
  v3 : Nat
  fn : Nat

def vfields (vb : Bool) (w : Nat) : VFields :=
  ⟨vb, bf w 63 60, bf w 59 56, bf w 55 55, bf w 54 52, bf w 51 51, bf w 50 39, bf w 38 27, bf w 26 15, bf w 14 3, bf w 2 0⟩

/-- The head of a typed vector instruction; rounds says whether RM has a use for this TYPE (R105). -/
def VFields.head (f : VFields) (rounds : Ty → Bool) : Option VHead := do
  let ty ← Ty.ofCode f.ty
  let rm ← decRm f.rm
  guard (rounds ty ∨ rm = .slot)
  return ⟨f.vb, ty, ⟨f.pm, decBool f.ms⟩, rm, ← decVDst f.nw f.vd⟩

/-- The head of an instruction whose destination is a mask field and whose RM and NW are reserved. -/
def VFields.mhead (f : VFields) : Option MHead := do
  guard (f.rm = 0 ∧ f.nw = 0)
  return ⟨f.vb, ⟨f.pm, decBool f.ms⟩, ← decMask f.vd⟩

def never (_ : Ty) : Bool := false

def VFields.op2 (f : VFields) (r : Ty → Bool) (k : VHead → VSrc → VSrc → Instr) : Option Instr := do
  guard (f.v3 = 0 ∧ f.fn = 0)
  return k (← f.head r) (← decVSrc f.v1) (← decVSrc f.v2)

def VFields.op3 (f : VFields) (r : Ty → Bool) (k : VHead → VSrc → VSrc → VSrc → Instr) : Option Instr := do
  guard (f.fn = 0)
  return k (← f.head r) (← decVSrc f.v1) (← decVSrc f.v2) (← decVSrc f.v3)

def VFields.op1 (f : VFields) (r : Ty → Bool) (k : VHead → VSrc → Instr) : Option Instr := do
  guard (f.v2 = 0 ∧ f.v3 = 0 ∧ f.fn = 0)
  return k (← f.head r) (← decVSrc f.v1)

def VFields.mask2 (f : VFields) (k : MHead → Nat → Nat → Instr) : Option Instr := do
  guard (f.ty = 0 ∧ f.v3 = 0 ∧ f.fn = 0)
  return k (← f.mhead) (← decMask f.v1) (← decMask f.v2)

def VFields.maskRow (f : VFields) (k : VHead → Nat → Instr) : Option Instr := do
  guard (f.v2 = 0 ∧ f.v3 = 0 ∧ f.fn = 0)
  let h ← f.head never
  match h.d with
  | .port _ => none
  | _ => return k h (← decMask f.v1)

/-- STYPE and TN of format VQ. -/
def VFields.stype (f : VFields) : Option Ty := Ty.ofCode (f.v3 / 256)

def VFields.tn (f : VFields) : Nat := f.v3 % 256

def vAssigned (op : Nat) : Bool :=
  (0x01 ≤ op && op ≤ 0x0B) || op = 0x10 || op = 0x11 || (0x18 ≤ op && op ≤ 0x22) || (0x28 ≤ op && op ≤ 0x2A)
    || (0x30 ≤ op && op ≤ 0x35) || (0x38 ≤ op && op ≤ 0x3A) || (0x40 ≤ op && op ≤ 0x4A) || (0x50 ≤ op && op ≤ 0x56)

def parseVBody (vb : Bool) (w : Nat) : Option Instr :=
  let f := vfields vb w
  match bf w 71 64 with
  | 0x01 => f.op2 Ty.isF .vadd | 0x02 => f.op2 Ty.isF .vsub | 0x03 => f.op2 Ty.isF .vmul
  | 0x04 => f.op3 Ty.isF .vfma | 0x05 => f.op3 Ty.isF .vfms | 0x06 => f.op3 Ty.isF .vfnma
  | 0x07 => f.op2 never .vmin | 0x08 => f.op2 never .vmax | 0x09 => f.op1 never .vabs | 0x0A => f.op1 never .vneg
  | 0x0B => f.op2 Ty.isF .vabd
  | 0x10 => do
    guard (f.v3 = 0)
    return .vcmp (← f.mhead) (← Ty.ofCode f.ty) (← decVCond f.fn) (← decVSrc f.v1) (← decVSrc f.v2)
  | 0x11 => f.op2 never .vsel
  | 0x18 => f.op2 never .vand | 0x19 => f.op2 never .vor | 0x1A => f.op2 never .vxor | 0x1B => f.op2 never .vandn
  | 0x1C => f.op1 never .vnot
  | 0x1D => f.op2 never .vshl | 0x1E => f.op2 never .vshr | 0x1F => f.op2 never .vsar
  | 0x20 => do
    guard (f.v3 = 0 ∧ f.fn < 2)
    return .vclmul (decBool f.fn) (← f.head never) (← decVSrc f.v1) (← decVSrc f.v2)
  | 0x21 => f.op1 never .vpopc | 0x22 => f.op1 never .vclz
  | 0x28 => do
    guard (f.v2 = 0 ∧ f.tn = 0 ∧ f.fn = 0)
    let src ← f.stype
    return .vcvt src (← f.head fun t => t.isF || src.isF) (← decVSrc f.v1)
  | 0x29 => do
    guard (f.fn = 0)
    return .vqtxb (← f.stype) f.tn (← f.head fun _ => true) (← decVSrc f.v1) (← decVSrc f.v2)
  | 0x2A => do
    guard (f.fn = 0)
    return .vdqtxb (← f.stype) f.tn (← f.head fun _ => true) (← decVSrc f.v1) (← decVSrc f.v2)
  | 0x30 => f.op1 Ty.isF .vrcp | 0x31 => f.op1 Ty.isF .vrsq | 0x32 => f.op1 Ty.isF .vsqrt
  | 0x33 => f.op1 Ty.isF .vexp2 | 0x34 => f.op1 Ty.isF .vlog2 | 0x35 => f.op1 Ty.isF .vtanh
  | 0x38 => f.op1 Ty.isF .vsum
  | 0x39 => do
    guard (f.v2 = 0 ∧ f.v3 = 0)
    let fn ← decScan f.fn
    return .vscan fn (← f.head fun t => t.isF && fn = .add) (← decVSrc f.v1)
  | 0x3A => f.op1 never .vmaxr
  | 0x40 => f.op2 never .vperm
  | 0x41 => do
    guard (f.v2 = 0 ∧ f.fn = 0)
    return .vbcast f.v3 (← f.head never) (← decVSrc f.v1)
  | 0x42 => do
    guard (f.fn = 0)
    return .vins f.v3 (← f.head never) (← decVSrc f.v1) (← decVSrc f.v2)
  | 0x43 => do
    guard (f.v2 = 0 ∧ f.fn = 0)
    return .vext f.v3 (← f.head never) (← decVSrc f.v1)
  | 0x44 => do
    guard (f.v1 = 0 ∧ f.v2 = 0 ∧ f.v3 = 0 ∧ f.fn = 0)
    return .viota (← f.head never)
  | 0x45 => f.op3 never .vrng
  | 0x46 => f.op1 never .vmov
  | 0x47 => do
    guard (f.fn = 0)
    return .vslide (sextNat 12 f.v3) (← f.head never) (← decVSrc f.v1) (← decVSrc f.v2)
  | 0x48 => do
    guard (f.tn = 0 ∧ f.fn < 2)
    return .vpack (decBool f.fn) (← f.stype) (← f.head never) (← decVSrc f.v1) (← decVSrc f.v2)
  | 0x49 => do
    guard (f.v2 = 0 ∧ f.tn = 0 ∧ f.fn < 2)
    return .vunpk (decBool f.fn) (← f.stype) (← f.head never) (← decVSrc f.v1)
  | 0x4A => f.op1 never .vcmpr
  | 0x50 => f.mask2 .mand | 0x51 => f.mask2 .mor | 0x52 => f.mask2 .mxor
  | 0x53 => do
    guard (f.ty = 0 ∧ f.v2 = 0 ∧ f.v3 = 0 ∧ f.fn = 0)
    return .mnot (← f.mhead) (← decMask f.v1)
  | 0x54 => f.maskRow .mpopc | 0x55 => f.maskRow .mfirst
  | 0x56 => do
    guard (f.ty = 0 ∧ f.v1 = 0 ∧ f.v2 = 0 ∧ f.fn = 0)
    return .mset (← f.mhead) f.v3
  | _ => none

def parseV (vb : Bool) (w : Nat) : Except DecodeErr (Option Instr) :=
  slotFate w (bf w 71 64) (vAssigned (bf w 71 64)) (parseVBody vb w)

/-! ## Matrix, transpose, load, store, copy and synchronisation slots (R108 to R113) -/

def parseMxBody (w : Nat) : Option Instr :=
  match bf w 47 40 with
  | 0x01 => do
    guard (bf w 7 0 = 0 ∧ bf w 23 12 < 2048)
    let cell ← decCell (bf w 39 38)
    let fmt ← decFmt (bf w 10 8)
    if bf w 36 36 = 1 then return .mmaVirtual cell (decBool (bf w 37 37)) (bf w 35 24) (bf w 23 12) (decBool (bf w 11 11)) fmt
    else
      guard (bf w 35 24 < 2048)
      return .mma cell (decBool (bf w 37 37)) (bf w 35 24) (bf w 23 12) (decBool (bf w 11 11)) fmt
  | 0x02 => do return .mdlt (bf w 39 31) (bf w 30 23) (bf w 22 18) (← decAfter (bf w 17 12) (bf w 11 6) (bf w 5 0))
  | 0x03 => do
    guard (bf w 7 0 = 0)
    return .mwld (decBool (bf w 39 39)) (bf w 38 31) (bf w 30 26) (← decAfter (bf w 25 20) (bf w 19 14) (bf w 13 8))
  | 0x04 => do
    guard (bf w 19 0 = 0 ∧ bf w 39 28 < 2048)
    return .macz (bf w 39 28) (bf w 27 20 + 1)
  | 0x05 => do
    guard (bf w 31 0 = 0)
    return .munf (bf w 39 32)
  | 0x06 => do
    guard (bf w 39 0 = 0)
    return .mlease
  | 0x07 => do
    guard (bf w 39 0 = 0)
    return .mrel
  | _ => none

def parseMx (w : Nat) : Except DecodeErr (Option Instr) := slotFate w (bf w 47 40) (bf w 47 40 ≤ 7) (parseMxBody w)

def parseXpBody (w : Nat) : Option Instr :=
  match bf w 31 28 with
  | 1 => do
    guard (bf w 15 0 = 0)
    return .xpush (← decVSrc (bf w 27 16))
  | 2 => do
    guard (bf w 15 0 = 0)
    return .xpop (← decVDst 0 (bf w 27 16))
  | 3 => do
    guard (bf w 27 0 = 0)
    return .xcfg
  | _ => none

def parseXp (w : Nat) : Except DecodeErr (Option Instr) := slotFate w (bf w 31 28) (bf w 31 28 ≤ 3) (parseXpBody w)

def parseLdBody (w : Nat) : Option Instr :=
  let l : LHead := ⟨bf w 51 48, bf w 47 45⟩
  let nw := bf w 44 44
  let f := bf w 43 32
  match bf w 55 52 with
  | 1 => do
    let d ← decSDst nw f
    return .ld l (← Ty.ofCode (bf w 17 14)) d (bf w 31 24) (bf w 23 18) (bf w 13 0)
  | 2 => do return .vld l (← decRDst nw f) (bf w 31 24) (bf w 23 18) (bf w 17 5) ⟨bf w 4 1, decBool (bf w 0 0)⟩
  | 3 => do
    guard (bf w 8 0 = 0)
    return .vldt l (← decRDst nw f) (bf w 31 24) (bf w 23 18) (bf w 17 14) ⟨bf w 13 10, decBool (bf w 9 9)⟩
  | 4 => do
    guard (bf w 2 0 = 0)
    return .vgath l (← decRDst nw f) (bf w 31 24) (← decVSrc (bf w 23 12)) (bf w 11 8) ⟨bf w 7 4, decBool (bf w 3 3)⟩
  | _ => none

def parseLd (w : Nat) : Except DecodeErr (Option Instr) := slotFate w (bf w 55 52) (bf w 55 52 ≤ 4) (parseLdBody w)

def parseStBody (w : Nat) : Option Instr := do
  let t : SHead := ⟨bf w 51 48, decBool (bf w 47 47)⟩
  guard (bf w 46 44 = 0)
  let v ← decVSrc (bf w 43 32)
  match bf w 55 52 with
  | 1 => return .st t (← Ty.ofCode (bf w 17 14)) v (bf w 31 24) (bf w 23 18) (bf w 13 0)
  | 2 => return .vst t v (bf w 31 24) (bf w 23 18) (bf w 17 5) ⟨bf w 4 1, decBool (bf w 0 0)⟩
  | 3 => do
    guard (bf w 12 0 = 0)
    return .vstt t v (bf w 31 24) (bf w 23 18) ⟨bf w 17 14, decBool (bf w 13 13)⟩
  | 4 => do
    guard (bf w 6 0 = 0)
    return .vscat t v (bf w 31 24) (← decVSrc (bf w 23 12)) ⟨bf w 11 8, decBool (bf w 7 7)⟩
  | _ => none

def parseSt (w : Nat) : Except DecodeErr (Option Instr) := slotFate w (bf w 55 52) (bf w 55 52 ≤ 4) (parseStBody w)

/-- CP is decoded as its plain form; e0.FORM, read at the bundle's lc, selects the bind forms (R322, R327). -/
def parseCeBody (w : Nat) : Option Instr := do
  guard (bf w 0 0 = 0)
  let a ← decAfter (bf w 22 17) (bf w 16 11) (bf w 10 5)
  match bf w 31 28 with
  | 1 => return .cp (bf w 27 23) a (bf w 4 1)
  | 2 => return .cpw (bf w 27 23) a (bf w 4 1)
  | 3 => return .cpwb (bf w 27 23) a (bf w 4 1)
  | 4 => return .cpfill (bf w 27 23) a (bf w 4 1)
  | _ => none

def parseCe (w : Nat) : Except DecodeErr (Option Instr) := slotFate w (bf w 31 28) (bf w 31 28 ≤ 4) (parseCeBody w)

/-- REL or ACQ with its class mask; without the bit the mask is reserved (R207). -/
def decRel (b m : Nat) (k : Bool → BitVec 16 → Instr) : Option Instr := do
  guard (b = 1 ∨ m = 0)
  return k (decBool b) (BitVec.ofNat 16 m)

def parseSyBody (w : Nat) : Option Instr :=
  match bf w 31 27 with
  | 0x01 => do
    guard (bf w 6 0 = 0)
    return .atom (← decAOp (bf w 26 23)) (bf w 22 19) (bf w 18 16) (bf w 15 10) (← decAType (bf w 9 7))
  | 0x02 => do
    guard (bf w 15 0 = 0 ∧ bf w 26 23 < 4)
    return .red (← decAOp (bf w 26 23)) (bf w 22 19) (← decAType (bf w 18 16))
  | 0x03 => do
    guard (bf w 9 0 = 0)
    decRel (bf w 26 26) (bf w 25 10) .arrive
  | 0x04 => do
    guard (bf w 9 0 = 0)
    decRel (bf w 26 26) (bf w 25 10) .waitph
  | 0x05 => do
    guard (bf w 9 0 = 0)
    decRel (bf w 26 26) (bf w 25 10) .waitcnt
  | 0x06 => do
    guard (bf w 23 0 = 0)
    return .drain (← decPath (bf w 26 24))
  | 0x07 => do
    guard (bf w 7 0 = 0)
    return .fence (← decScope (bf w 10 8)) (BitVec.ofNat 16 (bf w 26 11))
  | 0x08 => do
    guard (bf w 26 0 = 0)
    return .pagereq
  | 0x09 => do
    guard (bf w 26 0 = 0)
    return .launch
  | 0x0A => do
    guard (bf w 18 0 = 0)
    return .signal (bf w 26 19)
  | 0x0B => do
    guard (bf w 23 0 = 0)
    return .shoot (← decShoot (bf w 26 24))
  | 0x0C => do
    guard (bf w 26 0 = 0)
    return .shmap
  | 0x0D => do
    guard (bf w 14 0 = 0)
    match bf w 26 24 with
    | 0 => return .lnctlInval (bf w 23 15)
    | 1 => do
      guard (bf w 23 15 = 0)
      return .lnctlInvalall
    | 2 => return .lnctlSetref (bf w 23 15)
    | _ => none
  | _ => none

def parseSy (w : Nat) : Except DecodeErr (Option Instr) := slotFate w (bf w 31 27) (bf w 31 27 ≤ 0x0D) (parseSyBody w)

/-! ## Checks that depend on CTL.ACCT and on well-formed values (R101, R106, R114) -/

/-- Element width under an accumulator type: B takes that type's width (R101). -/
def Ty.width (acct t : Ty) : Nat := if t = .b then acct.bits else t.bits

/-- Lane count of CTL.ACCT (R132). -/
def lanes (acct : Ty) : Nat := 4096 / acct.bits

/-- KD of a push format (R210). -/
def PushFmt.kd : PushFmt → Nat
  | .bf16 | .f16 => 1
  | .txb8 | .txb6 | .i8 => 2
  | .txb4 => 4

def PushFmt.ty : PushFmt → Ty
  | .bf16 => .bf16 | .f16 => .f16 | .txb8 => .txb8 | .txb6 => .txb6 | .txb4 => .txb4 | .i8 => .i8

/-- KD of a TXB type (R210). -/
def Ty.kd : Ty → Nat
  | .txb4 => 4
  | .txb8 | .txb6 | .i8 => 2
  | _ => 1

/-- The accumulator types that R210 allows for a format. -/
def PushFmt.acctOk (acct : Ty) : PushFmt → Bool
  | .bf16 | .f16 => acct = .f32
  | .txb8 | .txb6 | .txb4 => acct = .f32 || acct = .i32
  | .i8 => acct = .i32

/-- Numbers that name a control register (R141). -/
def ctlNumber (i : Nat) : Bool := i ≤ 9 || (0x10 ≤ i && i ≤ 0x17) || i = 0x20 || (0x30 ≤ i && i ≤ 0x35)

/-- AOP and AT pairs of ATOM (R203). -/
def atomOk : AOp → AType → Bool
  | .fadd, t => t = .f32
  | .add, t | .and, t | .or, t | .xor, t => t != .f32
  | .min, _ | .max, _ | .xchg, _ | .cas, _ => true

/-- AOP and AT pairs of RED (R204). -/
def redOk : AOp → AType → Bool
  | .add, t => t != .f32
  | .fadd, t => t = .f32
  | .min, _ | .max, _ => true
  | _, _ => false

def illi (b : Bool) : Option DecodeErr := if b then none else some .illegalInstruction

/-- A single-typed vector instruction: its TYPE is in the set and has the width of CTL.ACCT (R101, R379). -/
def typed (acct : Ty) (set : Ty → Bool) (t : Ty) : Bool := set t && Ty.width acct t = acct.bits

def setINF (t : Ty) : Bool := t.isI || t.isN || t.isF
def setBINF (t : Ty) : Bool := t = .b || setINF t
def setIF (t : Ty) : Bool := t.isI || t.isF
def setB (t : Ty) : Bool := t = .b
def setIN (t : Ty) : Bool := t.isI || t.isN
def setBN (t : Ty) : Bool := t = .b || t.isN
def setBIN (t : Ty) : Bool := t = .b || setIN t

/-- The predicate use "none" of R378. -/
def noPred (p : Pred) : Bool := p.mask = 0 && !p.inv

def isScalar : VSrc → Bool
  | .scalar _ => true
  | _ => false

/-- VQTXB reads VS2 only when the lanes of vA do not fill the row (R402). -/
def vqtxbReads2 (acct dst : Ty) : Bool := lanes acct < 128 * dst.kd

/-- The remaining decoding checks of an instruction, in R114's order: reserved first, then illegal. VDQTXB is of a TXB type for R98's check of
LANE, though its TYPE is floating and only its STYPE is TXB (DESIGN CHOICE, log entry 26). -/
def accept (acct : Ty) : Instr → Option DecodeErr
  | .vadd h _ _ | .vsub h _ _ | .vmul h _ _ | .vabd h _ _ | .vmin h _ _ | .vmax h _ _ | .vneg h _ | .vsum h _ | .vmaxr h _
  | .vfma h _ _ _ | .vfms h _ _ _ | .vfnma h _ _ _ => illi (typed acct setINF h.ty)
  | .vabs h _ => illi (typed acct setIF h.ty)
  | .vcmp _ ty c _ _ => illi (typed acct setINF ty && (c != .un || ty.isF))
  | .vsel h _ _ | .vperm h _ _ | .vmov h _ | .vcmpr h _ => illi (typed acct setBINF h.ty)
  | .vand h _ _ | .vor h _ _ | .vxor h _ _ | .vandn h _ _ | .vnot h _ => illi (typed acct setB h.ty)
  | .vshl h _ _ | .vshr h _ _ | .vsar h _ _ => illi (typed acct setIN h.ty)
  | .vclmul _ h _ _ => illi (typed acct setBN h.ty)
  | .vpopc h _ | .vclz h _ => illi (typed acct setBIN h.ty)
  | .vcvt src h _ => illi (setINF src && setINF h.ty && src != h.ty && acct.bits = Nat.max src.bits h.ty.bits)
  | .vqtxb src _ h a b =>
    if !vqtxbReads2 acct h.ty && h.ty.isTxb && b != .row 0 then some .reservedField
    else illi (h.ty.isTxb && typed acct Ty.isF src && (h.rm = .slot || h.rm = .nearest) && a != .lane && b != .lane)
  | .vdqtxb src _ h a k =>
    illi (src.isTxb && typed acct Ty.isF h.ty && (h.rm = .slot || h.rm = .nearest) && a != .lane && k != .lane)
  | .vrcp h _ | .vrsq h _ | .vsqrt h _ | .vexp2 h _ | .vlog2 h _ | .vtanh h _ => illi (typed acct Ty.isF h.ty)
  | .vscan fn h _ => illi (typed acct setBINF h.ty && (fn != .xor || !h.ty.isF))
  | .vbcast k h _ | .vins k h _ _ => illi (typed acct setBINF h.ty && k < lanes acct)
  | .vext k h _ => illi (typed acct setBINF h.ty && k < lanes acct && noPred h.p)
  | .viota h => illi (typed acct setBN h.ty)
  | .vrng h l hi k => illi (typed acct setBIN h.ty && isScalar l && isScalar hi && isScalar k)
  | .vslide d h _ _ => illi (typed acct setBINF h.ty && d.natAbs < lanes acct)
  | .vpack _ src h _ _ => illi (setIN src && setIN h.ty && src.bits = acct.bits && 2 * h.ty.bits = src.bits && noPred h.p)
  | .vunpk _ src h _ => illi (setIN src && setIN h.ty && h.ty.bits = acct.bits && 2 * src.bits = h.ty.bits && noPred h.p)
  | .mpopc h _ | .mfirst h _ => illi (typed acct setBN h.ty)
  | .mset _ n => illi (n ≤ lanes acct)
  | .mma _ _ _ _ _ f => illi (f.acctOk acct)
  | .mmaVirtual _ _ _ _ _ f => illi (f.acctOk acct && !f.ty.isTxb)
  | .loopImm _ last => illi (last != 0)
  | .loopReg _ last => illi (last != 0)
  | .sysr _ i => illi (ctlNumber i)
  | .sysw i _ => illi (ctlNumber i)
  | .ld _ ty _ _ _ _ => illi (1 ≤ ty.code && ty.code ≤ 8)
  | .st _ ty v _ _ _ => illi (1 ≤ ty.code && ty.code ≤ 8 && (match v with | .scalar _ | .latch _ => true | _ => false))
  | .atom op _ _ _ ty => illi (atomOk op ty)
  | .red op _ ty => illi (redOk op ty)
  | .arrive rel c | .waitph rel c | .waitcnt rel c => illi (!rel || c != 0)
  | .fence _ c => illi (c != 0)
  | _ => none

/-! ## The bundle (R92 to R97) -/

/-- The header's actions. -/
structure Header where
  pop  : BitVec 8
  hold : Nat
  brk  : Bool
  mark : Bool
  deriving DecidableEq, Repr

/-- A decoded bundle: its header and its slot instructions in slot order. -/
structure Bundle where
  hdr   : Header
  slots : List (Slot × Instr)
  deriving DecidableEq, Repr

/-- The slot words of a bundle with the parser of each, in the order of R114. -/
def slotWords (b : Nat) : List (Slot × Except DecodeErr (Option Instr)) :=
  [(.s, parseS (bf b 463 400)), (.va, parseV false (bf b 399 328)), (.vb, parseV true (bf b 327 256)),
   (.mx, parseMx (bf b 255 208)), (.xp, parseXp (bf b 207 176)), (.ld, parseLd (bf b 175 120)),
   (.st, parseSt (bf b 119 64)), (.ce, parseCe (bf b 63 32)), (.sy, parseSy (bf b 31 0))]

/-- Decode slots in order, each with its own decoding checks; the first failure decides (R114). -/
def decodeSlots (check : Instr → Option DecodeErr) :
    List (Slot × Except DecodeErr (Option Instr)) → Except (Slot × DecodeErr) (List (Slot × Instr))
  | [] => .ok []
  | (sl, r) :: rest =>
    match r with
    | .error e => .error (sl, e)
    | .ok none => decodeSlots check rest
    | .ok (some i) =>
      match check i with
      | some e => .error (sl, e)
      | none =>
        match decodeSlots check rest with
        | .ok l => .ok ((sl, i) :: l)
        | .error e => .error e

/-- Decode a 512-bit bundle under given slot checks (R95, R114). -/
def decodeWith (check : Instr → Option DecodeErr) (b : Nat) : Except (Slot × DecodeErr) Bundle :=
  if bf b 511 508 != 1 then .error (.none, .illegalBundle)
  else if bf b 493 464 != 0 then .error (.none, .reservedField)
  else
    match decodeSlots check (slotWords b) with
    | .ok l => .ok ⟨⟨BitVec.ofNat 8 (bf b 507 500), bf b 499 496, decBool (bf b 495 495), decBool (bf b 494 494)⟩, l⟩
    | .error e => .error e

/-- Decode a bundle under CTL.ACCT as it stands at the bundle's lc. -/
def decode (acct : Ty) (b : Nat) : Except (Slot × DecodeErr) Bundle := decodeWith (accept acct) b

/-- The natural number that 64 bytes hold, little-endian (R3). -/
def leNat : List Byte → Nat
  | [] => 0
  | b :: rest => b.toNat + 256 * leNat rest

/-- Decode the bundle that stands in 64 bytes. -/
def decodeBytes (acct : Ty) (bytes : List Byte) : Except (Slot × DecodeErr) Bundle := decode acct (leNat bytes)

/-- The header's actions as instructions. -/
def Header.instrs (h : Header) : List Instr :=
  (if h.brk then [Instr.brk] else []) ++ (if h.mark then [Instr.mark] else [])
    ++ (if h.pop != 0 then [Instr.pop h.pop] else []) ++ (if h.hold != 0 then [Instr.hold h.hold] else [])

/-- The instruction that the first nbits of a bundle hold, the rest zero: the first slot instruction, else the first
header action. Checks that depend on CTL.ACCT are the step's and are not made here. -/
def decodeTableWord (nbits w : Nat) : Option Instr :=
  match decodeWith (fun _ => none) (w % 2 ^ nbits) with
  | .error _ => none
  | .ok b =>
    match b.slots with
    | (_, i) :: _ => some i
    | [] => b.hdr.instrs.head?

/-! ## Encoder -/

/-- The slot that carries an instruction (R119); the device steps have none. -/
def Instr.slot : Instr → Slot
  | .add .. | .addImm .. | .sub .. | .subImm .. | .mul .. | .mulImm .. | .mulh .. | .mulhImm .. | .div .. | .divImm ..
  | .mod .. | .modImm .. | .and .. | .andImm .. | .andn .. | .andnImm .. | .or .. | .orImm .. | .xor .. | .xorImm ..
  | .shl .. | .shlImm .. | .shr .. | .shrImm .. | .sar .. | .sarImm .. | .rotl .. | .rotlImm .. | .min .. | .minImm ..
  | .max .. | .maxImm .. | .cmp .. | .cmpImm .. | .sel .. | .mov .. | .clz .. | .ctz .. | .popc .. | .bswap .. | .sext ..
  | .zext .. | .li .. | .lih .. | .br .. | .brc .. | .bl .. | .ret | .loopImm .. | .loopReg .. | .loopx | .stg .. | .gts ..
  | .spl .. | .sps .. | .sysr .. | .sysw .. | .trap .. | .rte | .exit | .flgclr .. => .s
  | .vadd h _ _ | .vsub h _ _ | .vmul h _ _ | .vmin h _ _ | .vmax h _ _ | .vabd h _ _ | .vsel h _ _ | .vand h _ _
  | .vor h _ _ | .vxor h _ _ | .vandn h _ _ | .vshl h _ _ | .vshr h _ _ | .vsar h _ _ | .vperm h _ _
  | .vclmul _ h _ _ | .vqtxb _ _ h _ _ | .vdqtxb _ _ h _ _ | .vins _ h _ _ | .vslide _ h _ _ | .vpack _ _ h _ _
  | .vfma h _ _ _ | .vfms h _ _ _ | .vfnma h _ _ _ | .vrng h _ _ _
  | .vabs h _ | .vneg h _ | .vnot h _ | .vpopc h _ | .vclz h _ | .vcvt _ h _ | .vrcp h _ | .vrsq h _ | .vsqrt h _
  | .vexp2 h _ | .vlog2 h _ | .vtanh h _ | .vsum h _ | .vscan _ h _ | .vmaxr h _ | .vbcast _ h _ | .vext _ h _
  | .viota h | .vmov h _ | .vunpk _ _ h _ | .vcmpr h _ | .mpopc h _ | .mfirst h _ => if h.vb then .vb else .va
  | .vcmp h _ _ _ _ | .mand h _ _ | .mor h _ _ | .mxor h _ _ | .mnot h _ | .mset h _ => if h.vb then .vb else .va
  | .mma .. | .mmaVirtual .. | .mdlt .. | .mwld .. | .macz .. | .munf .. | .mlease | .mrel => .mx
  | .xpush .. | .xpop .. | .xcfg => .xp
  | .ld .. | .vld .. | .vldt .. | .vgath .. => .ld
  | .st .. | .vst .. | .vstt .. | .vscat .. => .st
  | .cp .. | .cpBindHandle .. | .cpBindTensor .. | .cpw .. | .cpwb .. | .cpfill .. => .ce
  | .atom .. | .red .. | .arrive .. | .waitph .. | .waitcnt .. | .drain .. | .fence .. | .pagereq | .launch | .signal ..
  | .shoot .. | .shmap | .lnctlInval .. | .lnctlInvalall | .lnctlSetref .. => .sy
  | _ => .none

/-- Format SR (R103). -/
def encSR (op fn : Nat) (d : SDst) (a b c : Nat) : Nat :=
  op * 2 ^ 56 + fn * 2 ^ 52 + encNw d * 2 ^ 51 + encRd d * 2 ^ 44 + a * 2 ^ 37 + b * 2 ^ 30 + c * 2 ^ 23

/-- Formats SI, SL and the one-operand forms: SA and a 32-bit immediate. -/
def encSI (op fn : Nat) (d : SDst) (a : Nat) (imm : BitVec 32) : Nat :=
  op * 2 ^ 56 + fn * 2 ^ 52 + encNw d * 2 ^ 51 + encRd d * 2 ^ 44 + a * 2 ^ 37 + imm.toNat

/-- Format VR (R105). -/
def encVR (op : Nat) (h : VHead) (v1 v2 v3 fn : Nat) : Nat :=
  op * 2 ^ 64 + h.ty.code * 2 ^ 60 + h.p.mask * 2 ^ 56 + encBool h.p.inv * 2 ^ 55 + encRm h.rm * 2 ^ 52 + encVNw h.d * 2 ^ 51
    + encVDst h.d * 2 ^ 39 + v1 * 2 ^ 27 + v2 * 2 ^ 15 + v3 * 2 ^ 3 + fn

/-- Format VR of an instruction that writes a mask. -/
def encVM (op ty : Nat) (h : MHead) (v1 v2 v3 fn : Nat) : Nat :=
  op * 2 ^ 64 + ty * 2 ^ 60 + h.p.mask * 2 ^ 56 + encBool h.p.inv * 2 ^ 55 + h.d * 2 ^ 39 + v1 * 2 ^ 27 + v2 * 2 ^ 15 + v3 * 2 ^ 3 + fn

def encVQ (op : Nat) (h : VHead) (v1 v2 : Nat) (src : Ty) (tn fn : Nat) : Nat := encVR op h v1 v2 (src.code * 256 + tn) fn

def enc2 (op : Nat) (h : VHead) (a b : VSrc) : Nat := encVR op h (encVSrc a) (encVSrc b) 0 0
def enc1 (op : Nat) (h : VHead) (a : VSrc) : Nat := encVR op h (encVSrc a) 0 0 0
def enc3 (op : Nat) (h : VHead) (a b c : VSrc) : Nat := encVR op h (encVSrc a) (encVSrc b) (encVSrc c) 0

def encExt : Nat → Nat
  | 8 => 0
  | 16 => 1
  | _ => 2

/-- AFTER0 to AFTER2 as one 18-bit field. -/
def encAfter (a : After) : Nat := encTok a.a0 * 2 ^ 12 + encTok a.a1 * 2 ^ 6 + encTok a.a2

def encPred (p : Pred) : Nat := p.mask * 2 + encBool p.inv

def encLd (op : Nat) (l : LHead) (nw dest : Nat) : Nat :=
  op * 2 ^ 52 + l.oc * 2 ^ 48 + l.lsel * 2 ^ 45 + nw * 2 ^ 44 + dest * 2 ^ 32

def encSt (op : Nat) (t : SHead) (v : VSrc) : Nat := op * 2 ^ 52 + t.oc * 2 ^ 48 + encBool t.fl * 2 ^ 47 + encVSrc v * 2 ^ 32

def encMma (cell : Cell) (wb av : Bool) (as d : Nat) (acc : Bool) (f : PushFmt) : Nat :=
  2 ^ 40 + encCell cell * 2 ^ 38 + encBool wb * 2 ^ 37 + encBool av * 2 ^ 36 + as * 2 ^ 24 + d * 2 ^ 12 + encBool acc * 2 ^ 11
    + encFmt f * 2 ^ 8

def encCe (op give : Nat) (a : After) (oc : Nat) : Nat := op * 2 ^ 28 + give * 2 ^ 23 + encAfter a * 2 ^ 5 + oc * 2

/-- The word of an instruction in its own slot, from the tables of R103 to R113. Header actions give the header's bits. -/
def encodeSlot : Instr → Nat
  | .add d a b => encSR 0x01 0 d (encSSrc a) (encSSrc b) 0
  | .sub d a b => encSR 0x02 0 d (encSSrc a) (encSSrc b) 0
  | .mul d a b => encSR 0x03 0 d (encSSrc a) (encSSrc b) 0
  | .mulh u d a b => encSR 0x04 (encBool u) d (encSSrc a) (encSSrc b) 0
  | .div u d a b => encSR 0x05 (encBool u) d (encSSrc a) (encSSrc b) 0
  | .mod u d a b => encSR 0x06 (encBool u) d (encSSrc a) (encSSrc b) 0
  | .and d a b => encSR 0x07 0 d (encSSrc a) (encSSrc b) 0
  | .andn d a b => encSR 0x08 0 d (encSSrc a) (encSSrc b) 0
  | .or d a b => encSR 0x09 0 d (encSSrc a) (encSSrc b) 0
  | .xor d a b => encSR 0x0A 0 d (encSSrc a) (encSSrc b) 0
  | .shl d a b => encSR 0x0B 0 d (encSSrc a) (encSSrc b) 0
  | .shr d a b => encSR 0x0C 0 d (encSSrc a) (encSSrc b) 0
  | .sar d a b => encSR 0x0D 0 d (encSSrc a) (encSSrc b) 0
  | .rotl d a b => encSR 0x0E 0 d (encSSrc a) (encSSrc b) 0
  | .min u d a b => encSR 0x0F (encBool u) d (encSSrc a) (encSSrc b) 0
  | .max u d a b => encSR 0x10 (encBool u) d (encSSrc a) (encSSrc b) 0
  | .cmp c u d a b => encSR 0x11 (encCond c * 2 + encBool u) d (encSSrc a) (encSSrc b) 0
  | .addImm d a i => encSI 0x21 0 d (encSSrc a) i
  | .subImm d a i => encSI 0x22 0 d (encSSrc a) i
  | .mulImm d a i => encSI 0x23 0 d (encSSrc a) i
  | .mulhImm u d a i => encSI 0x24 (encBool u) d (encSSrc a) i
  | .divImm u d a i => encSI 0x25 (encBool u) d (encSSrc a) i
  | .modImm u d a i => encSI 0x26 (encBool u) d (encSSrc a) i
  | .andImm d a i => encSI 0x27 0 d (encSSrc a) i
  | .andnImm d a i => encSI 0x28 0 d (encSSrc a) i
  | .orImm d a i => encSI 0x29 0 d (encSSrc a) i
  | .xorImm d a i => encSI 0x2A 0 d (encSSrc a) i
  | .shlImm d a i => encSI 0x2B 0 d (encSSrc a) i
  | .shrImm d a i => encSI 0x2C 0 d (encSSrc a) i
  | .sarImm d a i => encSI 0x2D 0 d (encSSrc a) i
  | .rotlImm d a i => encSI 0x2E 0 d (encSSrc a) i
  | .minImm u d a i => encSI 0x2F (encBool u) d (encSSrc a) i
  | .maxImm u d a i => encSI 0x30 (encBool u) d (encSSrc a) i
  | .cmpImm c u d a i => encSI 0x31 (encCond c * 2 + encBool u) d (encSSrc a) i
  | .sel d a b c => encSR 0x12 0 d (encSSrc a) (encSSrc b) (encSSrc c)
  | .mov d a => encSI 0x18 0 d (encSSrc a) 0
  | .clz d a => encSI 0x19 0 d (encSSrc a) 0
  | .ctz d a => encSI 0x1A 0 d (encSSrc a) 0
  | .popc d a => encSI 0x1B 0 d (encSSrc a) 0
  | .bswap d a => encSI 0x1C 0 d (encSSrc a) 0
  | .sext w d a => encSI 0x1D (encExt w) d (encSSrc a) 0
  | .zext w d a => encSI 0x1E (encExt w) d (encSSrc a) 0
  | .li d i => encSI 0x40 0 d 0 i
  | .lih d i => encSI 0x41 0 d 0 i
  | .br off => 0x48 * 2 ^ 56 + off.toNat
  | .brc c a off => 0x49 * 2 ^ 56 + encZCond c * 2 ^ 52 + encSSrc a * 2 ^ 45 + off.toNat
  | .bl off => 0x4A * 2 ^ 56 + off.toNat
  | .ret => 0x4B * 2 ^ 56
  | .loopImm n l => 0x4C * 2 ^ 56 + 2 ^ 55 + n * 2 ^ 28 + l
  | .loopReg a l => 0x4C * 2 ^ 56 + encSSrc a * 2 ^ 48 + l
  | .loopx => 0x4D * 2 ^ 56
  | .stg e a => 0x50 * 2 ^ 56 + encSSrc a * 2 ^ 37 + e
  | .gts d e => 0x51 * 2 ^ 56 + encNw d * 2 ^ 51 + encRd d * 2 ^ 44 + e
  | .spl d i => 0x52 * 2 ^ 56 + encNw d * 2 ^ 51 + encRd d * 2 ^ 44 + i
  | .sps a i => 0x53 * 2 ^ 56 + encSSrc a * 2 ^ 37 + i
  | .sysr d i => 0x54 * 2 ^ 56 + encNw d * 2 ^ 51 + encRd d * 2 ^ 44 + i
  | .sysw i a => 0x55 * 2 ^ 56 + encSSrc a * 2 ^ 37 + i
  | .trap c => 0x58 * 2 ^ 56 + c.toNat
  | .rte => 0x59 * 2 ^ 56
  | .exit => 0x5A * 2 ^ 56
  | .flgclr m => 0x5B * 2 ^ 56 + m.toNat
  | .pop h => h.toNat * 2 ^ 36
  | .hold n => n * 2 ^ 32
  | .brk => 2 ^ 31
  | .mark => 2 ^ 30
  | .vadd h a b => enc2 0x01 h a b
  | .vsub h a b => enc2 0x02 h a b
  | .vmul h a b => enc2 0x03 h a b
  | .vfma h a b c => enc3 0x04 h a b c
  | .vfms h a b c => enc3 0x05 h a b c
  | .vfnma h a b c => enc3 0x06 h a b c
  | .vmin h a b => enc2 0x07 h a b
  | .vmax h a b => enc2 0x08 h a b
  | .vabs h a => enc1 0x09 h a
  | .vneg h a => enc1 0x0A h a
  | .vabd h a b => enc2 0x0B h a b
  | .vcmp h ty c a b => encVM 0x10 ty.code h (encVSrc a) (encVSrc b) 0 (encVCond c)
  | .vsel h a b => enc2 0x11 h a b
  | .vand h a b => enc2 0x18 h a b
  | .vor h a b => enc2 0x19 h a b
  | .vxor h a b => enc2 0x1A h a b
  | .vandn h a b => enc2 0x1B h a b
  | .vnot h a => enc1 0x1C h a
  | .vshl h a b => enc2 0x1D h a b
  | .vshr h a b => enc2 0x1E h a b
  | .vsar h a b => enc2 0x1F h a b
  | .vclmul hi h a b => encVR 0x20 h (encVSrc a) (encVSrc b) 0 (encBool hi)
  | .vpopc h a => enc1 0x21 h a
  | .vclz h a => enc1 0x22 h a
  | .vcvt src h a => encVQ 0x28 h (encVSrc a) 0 src 0 0
  | .vqtxb src tn h a b => encVQ 0x29 h (encVSrc a) (encVSrc b) src tn 0
  | .vdqtxb src tn h a k => encVQ 0x2A h (encVSrc a) (encVSrc k) src tn 0
  | .vrcp h a => enc1 0x30 h a
  | .vrsq h a => enc1 0x31 h a
  | .vsqrt h a => enc1 0x32 h a
  | .vexp2 h a => enc1 0x33 h a
  | .vlog2 h a => enc1 0x34 h a
  | .vtanh h a => enc1 0x35 h a
  | .vsum h a => enc1 0x38 h a
  | .vscan fn h a => encVR 0x39 h (encVSrc a) 0 0 (encScan fn)
  | .vmaxr h a => enc1 0x3A h a
  | .vperm h a b => enc2 0x40 h a b
  | .vbcast k h a => encVR 0x41 h (encVSrc a) 0 k 0
  | .vins k h a b => encVR 0x42 h (encVSrc a) (encVSrc b) k 0
  | .vext k h a => encVR 0x43 h (encVSrc a) 0 k 0
  | .viota h => encVR 0x44 h 0 0 0 0
  | .vrng h l hi k => enc3 0x45 h l hi k
  | .vmov h a => enc1 0x46 h a
  | .vslide d h a b => encVR 0x47 h (encVSrc a) (encVSrc b) (d % 4096).toNat 0
  | .vpack sat src h a b => encVQ 0x48 h (encVSrc a) (encVSrc b) src 0 (encBool sat)
  | .vunpk hi src h a => encVQ 0x49 h (encVSrc a) 0 src 0 (encBool hi)
  | .vcmpr h a => enc1 0x4A h a
  | .mand h a b => encVM 0x50 0 h a b 0 0
  | .mor h a b => encVM 0x51 0 h a b 0 0
  | .mxor h a b => encVM 0x52 0 h a b 0 0
  | .mnot h a => encVM 0x53 0 h a 0 0 0
  | .mpopc h a => encVR 0x54 h a 0 0 0
  | .mfirst h a => encVR 0x55 h a 0 0 0
  | .mset h n => encVM 0x56 0 h 0 0 n 0
  | .mma cell wb a d acc f => encMma cell wb false a d acc f
  | .mmaVirtual cell wb x d acc f => encMma cell wb true x d acc f
  | .mdlt l tn g a => 2 * 2 ^ 40 + l * 2 ^ 31 + tn * 2 ^ 23 + g * 2 ^ 18 + encAfter a
  | .mwld wb tn g a => 3 * 2 ^ 40 + encBool wb * 2 ^ 39 + tn * 2 ^ 31 + g * 2 ^ 26 + encAfter a * 2 ^ 8
  | .macz d n => 4 * 2 ^ 40 + d * 2 ^ 28 + (n - 1) * 2 ^ 20
  | .munf h => 5 * 2 ^ 40 + h * 2 ^ 32
  | .mlease => 6 * 2 ^ 40
  | .mrel => 7 * 2 ^ 40
  | .xpush a => 2 ^ 28 + encVSrc a * 2 ^ 16
  | .xpop d => 2 * 2 ^ 28 + encVDst d * 2 ^ 16
  | .xcfg => 3 * 2 ^ 28
  | .ld l ty d h bs off => encLd 1 l (encNw d) (encRd d) + h * 2 ^ 24 + bs * 2 ^ 18 + ty.code * 2 ^ 14 + off
  | .vld l d h bs off p => encLd 2 l (encRNw d) (encRDst d) + h * 2 ^ 24 + bs * 2 ^ 18 + off * 2 ^ 5 + encPred p
  | .vldt l d tn is mr p => encLd 3 l (encRNw d) (encRDst d) + tn * 2 ^ 24 + is * 2 ^ 18 + mr * 2 ^ 14 + encPred p * 2 ^ 9
  | .vgath l d tn idx mr p => encLd 4 l (encRNw d) (encRDst d) + tn * 2 ^ 24 + encVSrc idx * 2 ^ 12 + mr * 2 ^ 8 + encPred p * 2 ^ 3
  | .st t ty v h bs off => encSt 1 t v + h * 2 ^ 24 + bs * 2 ^ 18 + ty.code * 2 ^ 14 + off
  | .vst t v h bs off p => encSt 2 t v + h * 2 ^ 24 + bs * 2 ^ 18 + off * 2 ^ 5 + encPred p
  | .vstt t v tn is p => encSt 3 t v + tn * 2 ^ 24 + is * 2 ^ 18 + encPred p * 2 ^ 13
  | .vscat t v tn idx p => encSt 4 t v + tn * 2 ^ 24 + encVSrc idx * 2 ^ 12 + encPred p * 2 ^ 7
  | .cp g a oc | .cpBindHandle g a oc | .cpBindTensor g a oc => encCe 1 g a oc
  | .cpw g a oc => encCe 2 g a oc
  | .cpwb g a oc => encCe 3 g a oc
  | .cpfill g a oc => encCe 4 g a oc
  | .atom op oc lsel rd ty => 2 ^ 27 + encAOp op * 2 ^ 23 + oc * 2 ^ 19 + lsel * 2 ^ 16 + rd * 2 ^ 10 + encAType ty * 2 ^ 7
  | .red op oc ty => 2 * 2 ^ 27 + encAOp op * 2 ^ 23 + oc * 2 ^ 19 + encAType ty * 2 ^ 16
  | .arrive r c => 3 * 2 ^ 27 + encBool r * 2 ^ 26 + c.toNat * 2 ^ 10
  | .waitph r c => 4 * 2 ^ 27 + encBool r * 2 ^ 26 + c.toNat * 2 ^ 10
  | .waitcnt r c => 5 * 2 ^ 27 + encBool r * 2 ^ 26 + c.toNat * 2 ^ 10
  | .drain p => 6 * 2 ^ 27 + encPath p * 2 ^ 24
  | .fence sc c => 7 * 2 ^ 27 + c.toNat * 2 ^ 11 + encScope sc * 2 ^ 8
  | .pagereq => 8 * 2 ^ 27
  | .launch => 9 * 2 ^ 27
  | .signal v => 10 * 2 ^ 27 + v * 2 ^ 19
  | .shoot k => 11 * 2 ^ 27 + encShoot k * 2 ^ 24
  | .shmap => 12 * 2 ^ 27
  | .lnctlInval l => 13 * 2 ^ 27 + l * 2 ^ 15
  | .lnctlInvalall => 13 * 2 ^ 27 + 2 ^ 24
  | .lnctlSetref l => 13 * 2 ^ 27 + 2 * 2 ^ 24 + l * 2 ^ 15
  | _ => 0

/-- The low bundle bit of a slot (R92); the header for header actions. -/
def Slot.lo : Slot → Nat
  | .s => 400 | .va => 328 | .vb => 256 | .mx => 208 | .xp => 176 | .ld => 120 | .st => 64 | .ce => 32 | .sy => 0
  | .none => 464

/-- The bundle that holds one instruction alone, header FMT = 0b0001. -/
def encode (i : Instr) : Nat := 2 ^ 508 + encodeSlot i * 2 ^ i.slot.lo

/-- The bundle with one instruction or header action reads back as that instruction: parse of the slot word. -/
def parseSlot (sl : Slot) (w : Nat) : Except DecodeErr (Option Instr) :=
  match sl with
  | .s => parseS w | .va => parseV false w | .vb => parseV true w | .mx => parseMx w | .xp => parseXp w
  | .ld => parseLd w | .st => parseSt w | .ce => parseCe w | .sy => parseSy w | .none => .ok none

end Sys2Proof
end

