-- ==== Sys2Proof/Machine/State.lean ====
section
/-! DEFINITION. The whole state of the package as plain data: contexts, tiles, dies, memory, queues, nodes, groups, the
Buckles' sessions, the host's side, and what is outstanding between them. INVENTORY.md lists every piece with its rule. -/

namespace Sys2Proof.Machine

/-- Sparse table keyed by number, keys rising; `Machine/Ops.lean` says what an unlisted key reads as. -/
abbrev Tab (α : Type) := List (Nat × α)

/-- Why the machine stops. -/
inductive Fault where
  /-- A slot instruction or header action executed with no context holding issue. Raised by the shared operation
  `onCurrent` only; `step` never executes one so. Safe: the hardware has no such event. -/
  | noContext
  deriving DecidableEq, Repr

/-- Why the model gives no meaning. -/
inductive Refusal where
  /-- An instruction without a meaning, named by its mnemonic. Raised by `exec`'s own arms only. Safe. -/
  | notModelled (mnemonic : String)
  deriving DecidableEq, Repr

/-! ## A context (06) -/

/-- Context states (03 R47). -/
inductive CStatus where
  | free | ready | running | blocked | trap | stopped | exited
  deriving DecidableEq, Repr

/-- One loop stack entry (03 R46). -/
structure LoopEnt where
  first : Word
  last  : Word
  trip  : Word
  index : Word
  deriving DecidableEq, Repr

/-- States of a handle or tensor identifier (08 R166; 07 R161). -/
inductive OState where
  | unallocated | pending | bound | bad
  deriving DecidableEq, Repr

/-- Handle levels (08 R167). -/
inductive Level where
  | tile | win | xwin
  deriving DecidableEq, Repr

/-- A handle descriptor's fields (08 R167). -/
structure HDesc where
  level   : Level
  bmode   : Nat
  alw     : Nat
  exp     : Bool
  cls     : Nat
  key     : Nat
  size    : Nat
  back    : Word
  kf      : Bool
  peern   : Nat
  tdie    : Nat
  tdx     : Nat
  tdy     : Nat
  thandle : Nat
  deriving DecidableEq, Repr

def HDesc.empty : HDesc := ⟨.tile, 0, 0, false, 0, 0, 0, 0, false, 0, 0, 0, 0, 0⟩

/-- A handle: its state and descriptor, the first 4 KiB unit it occupies, and its bytes with their written and dirty bits,
the filled granules, the fills outstanding (access numbers with their granule), and granules that CPFILL has read and no
DRAIN.TILE has yet given (08 R166 to R172). -/
structure Handle where
  st      : OState
  desc    : HDesc
  unit    : Nat
  bytes   : Tab Byte
  written : Tab Bool
  dirty   : Tab Bool
  filled  : Tab Bool
  fills   : List (Nat × Nat)
  ahead   : List (Nat × List Byte)
  deriving DecidableEq, Repr

def Handle.empty : Handle := ⟨.unallocated, .empty, 0, [], [], [], [], [], []⟩

/-- A tensor descriptor's fields (07 R160). -/
structure TDesc where
  fmt     : Ty
  rank    : Nat
  mb      : Bool
  ment    : Nat
  gap     : Nat
  linear  : Bool
  handle  : Option Nat
  base    : Nat
  sbase   : Nat
  veraddr : Nat
  x       : List Nat
  str     : List Int
  deriving DecidableEq, Repr

def TDesc.empty : TDesc := ⟨.f32, 1, false, 0, 0, false, none, 0, 0, 0, [], []⟩

/-- A tensor identifier (07 R161). -/
structure TensorId where
  st   : OState
  desc : TDesc
  deriving DecidableEq, Repr

def TensorId.empty : TensorId := ⟨.unallocated, .empty⟩

/-- A dependence token: its state, generation, and the command that gives the current generation (06 R140). -/
structure Token where
  pending : Bool
  gen     : Nat
  giver   : Nat
  deriving DecidableEq, Repr

def Token.empty : Token := ⟨false, 0, 0⟩

/-- A channel message (02 R38). -/
structure Msg where
  entry : Row
  valid : Mask
  stamp : Lc
  seq   : BitVec 16
  deriving DecidableEq, Repr

/-- A receive queue head: skid buffer, next expected sequence number, departure of the message before (02 R38 to R40). -/
structure Head where
  skid    : List Msg
  next    : BitVec 16
  lastDep : Option Lc
  deriving DecidableEq, Repr

def Head.empty : Head := ⟨[], 0, none⟩

/-- A send port: credits and the next sequence number (02 R38, R40). -/
structure Port where
  credits : Nat
  seq     : BitVec 16
  deriving DecidableEq, Repr

def Port.empty : Port := ⟨16, 0⟩

/-- What a push has computed apart from its accumulator (10 R220; 07 R163; 13 R276): the row itself, the rounded group
sums of every column, the exact column maxima (0 a NaN, 1 an infinity, 2 a finite value; sign, magnitude, exponent), or
integer column sums. -/
inductive Push where
  | row (r : Row)
  | groups (g : List (List Nat))
  | csel (m : List (Nat × Bool × Nat × Int))
  | cselInt (m : List Int)
  | isum (m : List Int)
  deriving DecidableEq, Repr

/-- Where a result lands (02 R27; 13 R270). -/
inductive Act where
  /-- KIND 0. -/
  | scalar (d : Nat)
  /-- KIND 1: a row of w-bit lanes. -/
  | row (d w : Nat)
  /-- KIND 2. -/
  | mask (d : Nat)
  /-- KIND 3. -/
  | port (q : Nat)
  /-- KIND 4. -/
  | latchOnly
  /-- KIND 5: handle bytes under a byte mask. -/
  | hbytes (h off : Nat)
  /-- KIND 6: 8 bytes of the spill store, or of the trap scratch in trap time. -/
  | spill (idx : Nat)
  /-- KIND 7: a push. -/
  | mx (d : Nat) (p : Push)
  /-- KIND 8: N rows from d become zero. -/
  | macz (d n : Nat)
  /-- KINDs 9 and 10: a tensor store into a TILE handle of the context; `gather` marks VSCAT. `runs` lists the bytes (place
  in the row, offset in the handle, length) that the identifier gave at issue; none after RTE, when they are found anew. -/
  | tstore (tn : Nat) (gather : Bool) (idx : Row) (h : Nat) (runs : Option (List (Nat × Nat × Nat)))
  /-- A staging register (one lc, never in flight at a trap point). -/
  | stage (e : Nat)
  /-- A control register (06 R141). -/
  | ctl (i : Nat)
  /-- Flag sets cleared (06 R143). -/
  | flgclr (sets : BitVec 5)
  /-- The unfolding state (10 R218). -/
  | unfold
  deriving DecidableEq, Repr

/-- A result in flight. `prog` says which counter its landing is counted on: CTL.LCC or TLC (13 R267). -/
structure Inflight where
  uid   : Nat
  prog  : Bool
  issue : Lc
  land  : Lc
  slot  : Slot
  pc    : Word
  act   : Act
  latch : Option Nat
  mask  : Mask
  value : Row
  flags : BitVec 5
  num   : Nat
  deriving DecidableEq, Repr

/-- Push formats and none (10 R214). -/
structure WBuf where
  image  : BitVec 262144
  scales : BitVec 32768
  fmt    : Option PushFmt
  deriving DecidableEq, Repr

def WBuf.empty : WBuf := ⟨0, 0, none⟩

/-- What a variable-latency result brings when it has arrived (02 R33). -/
structure Arrived where
  value : Row
  mres  : Mask
  wbuf  : Option WBuf
  poison : Bool
  deriving DecidableEq, Repr

/-- A trap cause with its detail and the faulting address (13 R261, R269). -/
structure Cause where
  code   : Nat
  detail : Nat
  slot   : Slot
  fva    : Word
  deriving DecidableEq, Repr

/-- A variable-latency result outstanding: destination, latch, residency mask register, weight buffer, and the arrival
once it is here. A load that started or waits for fills lists the granules, and `fills` what it waits for: access, granule and, once
they are here, the bytes, none of them where the fill met poison; `known`: its translation is (02 R32 to R34; 08 R170; 10 R217; 13 R265). -/
structure Pend where
  uid   : Nat
  prog  : Bool
  issue : Lc
  due   : Lc
  slot  : Slot
  pc    : Word
  act   : Option Act
  latch : Option Nat
  mask  : Mask
  mres  : Option Nat
  wb    : Option Nat
  gran  : Option (Nat × List Nat)
  fills : List (Nat × Nat × Option (List Byte))
  reply : Option Arrived
  num   : Nat
  cause : Option Cause
  known : Bool
  deriving DecidableEq, Repr

/-- A cause on its way to a trap point: source and originating bundle (13 R262). -/
structure Trap where
  cause : Cause
  src   : Nat
  orig  : Word
  sw    : BitVec 16
  num   : Nat
  deriving DecidableEq, Repr

/-- An open window of a load: the bundle count at its issue, the fault if translation met one, and what receives zero
when the fault is taken or deferred (13 R264). -/
structure Window where
  num   : Nat
  prog  : Bool
  pc    : Word
  cause : Cause
  act   : Option Act
  latch : Option Nat
  mask  : Mask
  mres  : Option Nat
  deriving DecidableEq, Repr

/-- The unfolding state (10 R218). -/
structure Unfold where
  h : Nat
  c : Nat
  iw : Nat
  ih : Nat
  px : Nat
  py : Nat
  dx : Nat
  dy : Nat
  sx : Nat
  sy : Nat
  kw : Nat
  kh : Nat
  offb : Nat
  deriving DecidableEq, Repr

/-- Transposer states (10 R223). -/
inductive XState where
  | empty | filling | draining
  deriving DecidableEq, Repr

/-- A context's part of the transposer: state, configuration, recorded rows, columns popped, and of the last push its lc, whether that is
CTL.LCC, and its count of program and trap lc together (10 R223 to R225). -/
structure Xpose where
  st    : XState
  w     : Nat
  n     : Nat
  j0    : Nat
  ncol  : Nat
  otype : Option Ty
  rows  : List Row
  col   : Nat
  tlast : Lc
  tprog : Bool
  tcomb : Nat
  deriving DecidableEq, Repr

def Xpose.empty : Xpose := ⟨.empty, 32, 1, 0, 1, none, [], 0, 0, true, 0⟩

/-- A channel entry of a launch packet (03 R58). -/
structure Chan where
  sdx : Nat
  sdy : Nat
  sport : Nat
  rdx : Nat
  rdy : Nat
  rhead : Nat
  slots : BitVec 64
  deriving DecidableEq, Repr

/-- A launch packet's fields (03 R58). -/
structure Packet where
  entry : Word
  w : Nat
  h : Nat
  pair : Bool
  plevel : Nat
  grid : Nat
  rows : Nat
  banks : Nat
  handles : Nat
  tns : Nat
  tokens : Nat
  sends : Nat
  recvs : Nat
  spill : Nat
  lining : Nat
  lat : BitVec 128
  args : List Word
  chans : List Chan
  deriving DecidableEq, Repr

/-- A fence in force: its place in program order, the classes it holds back and the accesses before it (09 R196). -/
structure Fence where
  order   : Nat
  classes : BitVec 16
  before  : List Nat
  deriving DecidableEq, Repr

/-- A fault that a DRAIN will report: its path, the program-order number of the access, the cause (09 R198). `path` none:
the next DRAIN of any path that reaches memory. -/
structure DrainFault where
  path  : Option Path
  order : Nat
  cause : Cause
  deriving DecidableEq, Repr

/-- A 64-byte unit of a context's storage (14 R279): of a handle's bytes, a row, a weight buffer's image or scale store, the
spill store, the trap scratch, or an entry of a skid buffer. -/
inductive CUnit where
  | handle (h u : Nat)
  | row (d u : Nat)
  | weights (b u : Nat)
  | scales (b u : Nat)
  | spill (u : Nat)
  | scratch (u : Nat)
  | skid (head seq u : Nat)
  deriving DecidableEq, Repr

/-- A sequencer context bound to a group (03 R46; 06 R130). `idleTill`: the first clock in which it may issue its next bundle, an lc
taking a clock or more (14 R286); `blockedAt`: when it entered BLOCKED, until it next issues (03 R62); `firstSync`: the SYNC of its first
bundle is owed, and `needSync` one after dropped blocks (15 R308, R310); `defNums`: the bundle counts of the faults in the frame's deferred
list (13 R265); `bad` and `flaws`: its poisoned units and the bits in error of the others (14 R279, R280). -/
structure Ctx where
  grp     : Nat
  node    : Nat
  tenant  : Nat
  dx      : Nat
  dy      : Nat
  pk      : Packet
  status  : CStatus
  pc      : Word
  loops   : List LoopEnt
  lcc     : Lc
  tm      : Bool
  tlc     : Lc
  comb    : Nat
  sregs   : Tab Word
  bank    : Tab Word
  rows    : Tab Row
  masks   : Tab Mask
  latches : Tab Row
  rings   : BitVec 8
  eregs   : Tab Word
  spill   : Tab Word
  scratch : Tab Word
  acct    : Ty
  rnd     : Word
  flg     : Word
  fer     : Word
  tvec    : Word
  tframe  : Word
  limit   : Tab Nat
  out     : Tab Nat
  handles : Tab Handle
  tensors : Tab TensorId
  tokens  : Tab Token
  heads   : Tab Head
  ports   : Tab Port
  inflight : List Inflight
  pend    : List Pend
  wb0     : WBuf
  wb1     : WBuf
  unf     : Option Unfold
  xpose   : Xpose
  issued  : Nat
  windows : List Window
  landed  : List Trap
  restored : List Trap
  trapEntries : List Inflight
  drainFaults : List DrainFault
  winFault : Option DrainFault
  peerFault : Option DrainFault
  hostsig : Bool
  sample  : Bool
  brkAt   : Option Word
  skipBrk : Bool
  next    : Option Word
  exiting : Bool
  rte     : Option Word
  waitDone : Bool
  leaseWait : Option Bool
  blockedAt : Option Nat
  fences  : List Fence
  progNo  : Nat
  trapLog : List (Nat × Nat × Nat)
  tracePc : Word
  bnd     : Nat
  sinceSync : Nat
  needSync : Bool
  firstSync : Bool
  stall   : Option (Nat × Nat)
  idleTill : Nat
  defNums : List Nat
  bad     : List CUnit
  flaws   : List (CUnit × List Nat)
  deriving DecidableEq, Repr

/-! ## Accesses and engine commands outstanding (02 R35, R36; 09) -/

/-- Home of bytes in memory (09 R189): this package's physical memory or a peer package's. -/
inductive Loc where
  | phys (pa : Nat)
  | peer (n pa : Nat)
  deriving DecidableEq, Repr

/-- A run of bytes to read into a row at byte `pos`, from a lane on: its exact virtual address and Mantle owner, where translation
found it, and whether by a page of 128 MiB (08 R184). -/
structure RPiece where
  lane  : Nat
  pos   : Nat
  va    : Int
  owner : Option (Nat × Nat)
  len   : Nat
  loc   : Loc
  big   : Bool
  deriving DecidableEq, Repr

/-- Bytes to write at an exact virtual address; a Mantle owner names another package and its die (12 R253). -/
structure WPiece where
  va    : Int
  owner : Option (Nat × Nat)
  data  : List Byte
  deriving DecidableEq, Repr

/-- A Mantle entry (12 R249, R250). -/
structure MEnt where
  version : BitVec 32
  rank    : Nat
  x       : List Nat
  b       : List Nat
  split   : List Nat
  p       : List Nat
  lstr    : List Nat
  obase   : List Word
  peern   : List Nat
  odie    : List Nat
  tenant  : Option Nat
  deriving DecidableEq, Repr

def MEnt.reset : MEnt := ⟨0, 0, [], [], [], [], [], [], [], [], none⟩

/-- A target of window accesses: this group's context at an offset, or an export key on a die of a package (08 R173). -/
inductive Target where
  | group (dx dy h : Nat)
  | key (peer : Option Nat) (die key : Nat)
  deriving DecidableEq, Repr

/-- One end of a copy (16 R322 to R326), as it stood at issue: its start for virtual memory, a handle or a tensor. -/
inductive CSide where
  | virt (va : Int)
  | hnd (h off : Nat)
  /-- A window handle: its index, target and allowance. -/
  | win (h : Nat) (t : Target) (off alw : Nat)
  | tens (t : TDesc) (m : Option MEnt)
  /-- An identifier PENDING at issue, with the number of the command that binds it and the Mantle as it stood (07 R161; 12 R255). -/
  | tpend (tn bind : Nat) (m : Tab MEnt)
  /-- An identifier whose binding has failed since. -/
  | tbad
  deriving DecidableEq, Repr

/-- Why dirty bytes are written back (08 R172). -/
inductive WbKind where
  | command | retire | exit
  deriving DecidableEq, Repr

/-- What an outstanding access or engine command does when it performs. -/
inductive AccOp where
  /-- The reply of a load: its virtual reads, the lanes that found a NONRES page, the bytes that its handle gave at issue,
  and the bytes (place, awaited access, offset) that fills or a window bring; `ty`: LD's type. -/
  | load (pend : Nat) (reads : List RPiece) (nonres : Mask) (base : Row) (holes : List (Nat × Nat × Nat)) (ty : Option Ty)
  /-- Runs (place in the row, offset in the window, length) read at the target. -/
  | winLoad (pend h : Nat) (t : Target) (reads : List (Nat × Nat × Nat))
  | fill (pend h g : Nat) (reads : List RPiece)
  /-- A store of the issuing context; `tq` and `ver`: tensor-qualified with its version word (11 R232). -/
  | store (pieces : List WPiece) (tq : Bool) (ver : Nat)
  /-- One addition to the version word of a store whose data go to a handle; `before`: the result that lands after it (11 R232). -/
  | bump (ver : Nat) (before : Option Nat)
  /-- Stores of a trap frame, with the cause and detail of its trap. -/
  | frame (pieces : List WPiece) (code detail : Nat)
  | winStore (h : Nat) (t : Target) (bytes : List (Nat × List Byte)) (alw : Nat) (fl : Bool)
  /-- The dirty bytes of a handle: for a command, at retirement or at exit. -/
  | writeBack (h : Nat) (kind : WbKind)
  | atom (op : AOp) (ty : AType) (va operand cmp : Word) (pend : Option Nat)
  | red (op : AOp) (ty : AType) (va val : Word) (n i : Nat)
  | arrive (va : Word)
  /-- A counter arrival of n bytes, for a copy whose destination reaches a path. -/
  | count (va : Word) (n : Nat) (path : Option Path)
  | bindHandle (h : Nat) (va : Word)
  | bindTensor (tn : Nat) (va : Word)
  /-- A copy: `late` when an object was PENDING at issue, `cpw` for CPW; the next unit, and the version steps made. -/
  | copy (src dst : CSide) (e : Tab Word) (late cpw : Bool) (unit steps : Nat)
  | cpfill (h off len : Nat) (late : Bool)
  | mwld (wb : Nat) (t : TDesc) (m : Option MEnt) (e : Tab Word) (pend : Nat)
  /-- The identifiers as they stood at issue. -/
  | mdlt (lent : Nat) (w x y : CSide) (e : Tab Word)
  /-- First page, count and cookie for the record, its address, and the vector. -/
  | pagereq (va count cookie rec : Word) (vec : Nat)
  | launch (q : Nat) (entry : List Word)
  | signal (v : Nat)
  | shoot (k : ShootKind) (a b : Word)
  | shmap (ment : Nat) (va : Word)
  | lnctl (fn lent : Nat) (e40 : Word)
  deriving DecidableEq, Repr

/-- Who makes an access: its tile, tenant, node for staged pages, and whether it is at tenant system level. -/
structure Who where
  tile   : Nat
  tenant : Nat
  node   : Option Nat
  sys    : Bool
  deriving DecidableEq, Repr

/-- An outstanding access or command. `deps`: what must be finished first. `queued`: an atomic that its die's Buckle queues
for a migrating page, and whether the second shoot-down has let it go (12 R258). `performed`: a posted window store that waits for
its acknowledgement (09 R199). `sub` numbers what a copy's units send, 0 for the access itself, and `parent` is the copy. `after`: stores into
the context's own TILE handles that were in flight at its issue, which land before it performs (R194). `posted`: a reduction's contribution
that waits at its Buckle for its index (R204), or an MDLT whose posted stores are on their way (11 R240). A posted store of an MDLT is `queued`
too until its allowance lets it go. `entry`: the Lining entry, by die and index, that such an MDLT reaches (11 R241). -/
structure Acc where
  id       : Nat
  ctx      : Nat
  grp      : Nat
  cls      : Option Nat
  order    : Nat
  sub      : Nat
  who      : Who
  pc       : Word
  comb     : Nat
  clock    : Nat
  released : Bool
  queued   : Option Bool
  performed : Bool
  posted   : Bool
  deps     : List Nat
  strict   : List Nat
  after    : List Nat
  parent   : Option Nat
  give     : Option (Nat × Nat)
  entry    : Option (Nat × Nat)
  op       : AccOp
  deriving DecidableEq, Repr

/-- A posted stream's count of stores performed (09 R199): a group's context by its offset 8 * dy + dx, a handle and a class. -/
structure Stream where
  grp   : Nat
  off   : Nat
  h     : Nat
  cls   : Nat
  count : Nat
  deriving DecidableEq, Repr

/-- A channel message between send port and skid buffer (02 R38). -/
structure Flight where
  id       : Nat
  src      : Nat
  grp      : Nat
  dx       : Nat
  dy       : Nat
  head     : Nat
  departed : Bool
  clock    : Nat
  msg      : Msg
  deriving DecidableEq, Repr

/-- A reduction session at a Buckle, with the tenant and address that opened it (09 R204; 12 R259). A held contribution names the access that
made it; a peer package's has none here. -/
structure Session where
  peer : Option Nat
  pa   : Nat
  tenant : Nat
  va   : Word
  n    : Nat
  next : Nat
  held : Tab (Word × AOp × AType × Option Nat)
  deriving DecidableEq, Repr

/-! ## Tiles and dies -/

/-- A TLB entry: tenant, page number, page size, the node for a staged page, and the leaf (08 R183). -/
structure TlbEnt where
  tenant : Nat
  page   : Nat
  big    : Bool
  node   : Option Nat
  leaf   : Word
  deriving DecidableEq, Repr

/-- What a tile holds beside its contexts (03 R49, R61, R62; 08 R183; 15 R308, R309). `bundles` counts those issued for a sampled node. -/
structure Tile where
  holder     : Option Nat
  last       : Nat
  lease      : Option Nat
  leaseLast  : Nat
  leaseCount : Nat
  leaseAt    : Lc
  tlb        : List TlbEnt
  tbuf       : Tab (List Byte)
  tseq       : Nat
  tdrop      : Nat
  bundles    : Tab Nat
  deriving DecidableEq, Repr

def Tile.reset : Tile := ⟨none, 3, none, 3, 0, 0, [], [], 0, 0, []⟩

/-- States of a Lining entry (11 R228). -/
inductive LState where
  | empty | valid | stale
  deriving DecidableEq, Repr

/-- A Lining entry (11 R228); `hold` lists (group, slot), `used` orders the uses. -/
structure LEnt where
  st      : LState
  tenant  : Nat
  layer   : Nat
  float   : Bool
  ge      : Int
  wfmt    : Ty
  m       : Nat
  k       : Nat
  ncol    : Nat
  veraddr : Nat
  ver     : Word
  prevx   : Word
  prevy   : Word
  n       : Nat
  thr     : Nat
  cnt     : BitVec 16
  hold    : List (Nat × Nat)
  used    : Nat
  moved   : Bool
  deriving DecidableEq, Repr

def LEnt.empty : LEnt := ⟨.empty, 0, 0, false, 0, .i8, 0, 0, 0, 0, 0, 0, 0, 0, 0, 0, [], 0, false⟩

/-- Where a group stands: its die, origin in logical columns and rows, and context number (04 R80). -/
structure Place where
  die : Nat
  x   : Nat
  y   : Nat
  k   : Nat
  deriving DecidableEq, Repr

/-- Room that a die's dispatcher keeps for a group while others are pre-empted for it: the group's node and grid index, its
position, its twin's, and the groups asked to stop (04 R81). -/
structure Claim where
  node    : Nat
  grid    : Nat
  place   : Place
  twin    : Option Place
  victims : List Nat
  deriving DecidableEq, Repr

/-- An export: tenant and key, and the handle's context by group and offset (08 R174). -/
structure Export where
  tenant : Nat
  key    : Nat
  grp    : Nat
  dx     : Nat
  dy     : Nat
  h      : Nat
  deriving DecidableEq, Repr


/-- A die (01 R16 to R18; 08 R174, R184, R186; 11 R228; 14 R280, R283, R291; 15 R300, R301). `stations` counts the failed lanes of a
gateway station, `lanes` the failed lanes of the link to another die that a spare replaces, `peerTab` the accelerator identifiers that
its gateway gives to peer numbers 0 to 254 (15 R302). -/
structure Die where
  failed   : Bool
  retired  : Option Nat
  retiring : Option Nat
  gen      : Nat
  rowTh    : Nat
  accTh    : Nat
  events   : List Nat
  overflow : Bool
  lining   : Tab LEnt
  liningUse : Nat
  exports  : List Export
  claim    : Option Claim
  stations : Tab Nat
  lanes    : Tab (List Nat)
  peerTab  : Tab Nat
  deriving DecidableEq, Repr

def Die.reset : Die := ⟨false, none, none, 0, 4096, 0xFFFF, [], false, [], 0, [], none, [], [], []⟩

/-! ## Queues, nodes and groups (03, 04) -/

/-- Queue states (04 R69). -/
inductive QState where
  | disabled | active | frozen
  deriving DecidableEq, Repr

/-- A queue's register block (04 R69). -/
structure Queue where
  base   : Nat
  log2n  : Nat
  owner  : Nat
  region : Nat
  tail   : BitVec 32
  st     : QState
  err    : Bool
  head   : BitVec 32
  frz    : Word
  deriving DecidableEq, Repr

def Queue.reset : Queue := ⟨0, 6, 0, 0, 0, .disabled, false, 0, 0⟩

/-- Budgets that one block of a chain sets (03 R56). -/
structure Block where
  addr  : Nat
  btile : Option Nat
  blin  : Option Nat
  bqd   : Option Nat
  bhbm  : Option Nat
  btime : Option Nat
  deriving DecidableEq, Repr

/-- A staged output range (04 R83). -/
structure Staged where
  vbase  : Nat
  npages : Nat
  sframe : Nat
  deriving DecidableEq, Repr

/-- What the dispatcher holds of a pending node beside its record (03 R54; 04 R73, R77, R78; 15 R298). `lining` lists the
Lining entries that the node has updated since placement: die, index, layer key (11 R246); `commit`, once the staged pages are remapped,
the accesses that used a dropped translation and have not performed (R86; 08 R184). -/
structure Node where
  queue   : Nat
  tenant  : Nat
  irq     : Bool
  pk      : Packet
  prio    : Nat
  pcap    : Nat
  fdom    : Nat
  pdl     : Nat
  trapv   : Word
  staged  : List Staged
  chain   : List Block
  predn   : Nat
  succn   : Nat
  succ    : Nat
  eff     : Nat
  background : Bool
  nextGrid : Nat
  hostsig : Bool
  lining  : List (Nat × Nat × Nat)
  commit  : Option (List Nat)
  deriving DecidableEq, Repr

/-- A placed or saved group (03 R50, R65; 04 R81, R82; 11 R230; 13 R275, R276). `saved` holds the save area's contexts by
8 * dy + dx; `slots` the bound Lining slots; `stop` a pre-emption request: time of the request, and whether it is forced. -/
structure Group where
  node   : Nat
  grid   : Nat
  twin   : Option Nat
  leader : Bool
  place  : Option Place
  die    : Nat
  saved  : Tab Ctx
  stop   : Option (Nat × Bool)
  placed : Nat
  issued : Nat
  order  : Nat
  slots  : Tab Nat
  deriving DecidableEq, Repr

/-! ## Mantle, tenants, host (12, 15) -/

/-- A tenant (15 R304, R305; 08 R178): its function, granted ranges (base, bytes) in order of grant, root table. -/
structure Tenant where
  fn     : Nat
  ranges : List (Nat × Nat)
  root   : Option Nat
  deriving DecidableEq, Repr

/-- To whom a function is bound (15 R293). -/
inductive Binding where
  | none | owner | tenant (t : Nat)
  deriving DecidableEq, Repr

/-- A host function (15 R294, R296, R305). -/
structure Fn where
  bind  : Binding
  cpend : BitVec 16384
  spend : BitVec 256
  imask : BitVec 4
  req   : Tab Word
  rsp   : Tab Word
  door  : Bool
  deriving DecidableEq, Repr

def Fn.reset : Fn := ⟨.none, 0, 0, 0xF, [], [], false⟩

/-- A handle that a context of a peer package exports there (08 R173 to R175): its die, tenant and key, and what an access to it meets. -/
structure PeerExport where
  die    : Nat
  tenant : Nat
  key    : Nat
  size   : Nat
  bytes  : Tab Byte
  deriving DecidableEq, Repr

/-- A peer package as far as this one reaches it: memory with its poisoned lines, the tenants' trees and ranges there, the exports, and the
peer tables of its dies' gateways (12 R254, R257; 15 R302). -/
structure Peer where
  mem     : List Host.Cell
  poison  : List Nat
  tenants : Tab Tenant
  exports : List PeerExport
  gates   : Tab (Tab Nat)
  deriving DecidableEq, Repr

/-! ## Errors in storage (14 R279 to R284, R292) -/

/-- A TSV group of a set of ten, in a stack of the package numbered twice the die plus the stack within it. -/
structure Tsv where
  stack : Nat
  set   : Nat
  group : Nat
  deriving DecidableEq, Repr

/-- What an error strikes: symbols of a memory line with their error values, bits of a 64-byte unit of a context or of an old copy of
one, bits of a Buckle's word or of a table's entry, a TLB's or a cache's entry, a waiting reply, a row's counter, or a TSV group for good. -/
inductive Upset where
  | line (line : Nat) (e : Tab Byte)
  | unit (ctx : Nat) (u : CUnit) (bits : List Nat)
  | undo (ctx clock : Nat) (u : CUnit) (bits : List Nat)
  | word (pa : Nat) (bits : List Nat)
  | lining (die i : Nat) (bits : List Nat)
  | mantle (die i : Nat) (bits : List Nat)
  | exports (die i : Nat) (bits : List Nat)
  | tlb (tile i : Nat)
  | icache (tile : Nat)
  | skidReply (ctx uid : Nat)
  | counter (row : Nat) (bits : List Nat)
  | tsv (t : Tsv)
  deriving DecidableEq, Repr

/-- What stands beside the stored bits: error values by line and symbol, bits in error by Buckle word; TSV groups that have failed, those
that a spare has replaced, and their counts of corrected symbols; correctable events by unit, by DRAM row and by row of a Buckle; rows that a
spare has replaced. -/
structure Ecc where
  lines  : Tab (Tab Byte)
  words  : Tab (List Nat)
  tsvBad : List Tsv
  tsvSpare : List Tsv
  tsvCount : List (Tsv × Nat)
  events : Tab Nat
  rowEvents : Tab Nat
  buckleEvents : Tab Nat
  rowSpare : List Nat
  buckleSpare : List Nat
  deriving DecidableEq, Repr

def Ecc.reset : Ecc := ⟨[], [], [], [], [], [], [], [], [], []⟩

/-- A trace binding (15 R308). -/
structure TraceRing where
  region : Nat
  base   : Nat
  log2   : Nat
  period : Nat
  deriving DecidableEq, Repr

/-- An old copy of a context, kept 64 ns: the undo log (14 R286, R287). `bytes`: what the bundle's writes take of the log's 160 KiB. -/
structure Snap where
  clock : Nat
  key   : Nat
  ctx   : Ctx
  bytes : Nat
  deriving DecidableEq, Repr

/-- A RAS event in firmware's log: what happened and where, units by their identifier (14 R289); the record's layout is open (15 R305). -/
inductive Ras where
  | owner (pa : Nat) | correctable (unit : Nat) | uncorrectable (unit : Nat) | successor (rec : Nat) | hostAccess (fn off : Nat)
  | peerRefused (n pa : Nat) | strike (unit : Nat) | poisonClear (rec : Nat) | dieFailed (die : Nat) | spared (unit : Nat)
  deriving DecidableEq, Repr

/-- Where the leader of a pair stood when its translations were made (03 R66). -/
inductive ViewAt where
  | bundle | trap | ret
  deriving DecidableEq, Repr

/-- What the leader's translations and fetch met at a bundle, at a trap before it, or at a return from one: the follower, which comes later,
meets the same (03 R66; 08 R183). The place in program order is the number of traps taken and of bundles issued before. -/
structure View where
  grp    : Nat
  dx     : Nat
  dy     : Nat
  at_    : ViewAt
  traps  : Nat
  num    : Nat
  mem    : List Host.Cell
  poison : List Nat
  words  : List Loc
  ecc    : Ecc
  dies   : Tab Die
  tiles  : Tab Tile
  mantle : Tab MEnt
  tenants : Tab Tenant
  peers  : Tab Peer
  deriving DecidableEq, Repr

/-- The whole state. -/
structure State where
  ready    : Bool
  failStep : Option Nat
  clock    : Nat
  mem      : List Host.Cell
  poison   : List Nat
  wordPoison : List Loc
  accCount : Tab Nat
  rowCount : Tab Nat
  refresh  : List Nat
  accesses : Nat
  dies     : Tab Die
  tiles    : Tab Tile
  ctxs     : Tab Ctx
  groups   : Tab Group
  nodes    : Tab Node
  queues   : Tab Queue
  btime    : Tab Nat
  period   : Nat
  aging    : Nat
  mantle   : Tab MEnt
  tenants  : Tab Tenant
  fns      : Tab Fn
  irqs     : List (Nat × Nat)
  answers  : List (Nat × Nat × List Byte)
  peers    : Tab Peer
  meas0    : BitVec 384
  meas1    : BitVec 384
  ras      : List Ras
  rings    : List TraceRing
  accs     : List Acc
  streams  : List Stream
  flights  : List Flight
  sessions : List Session
  undo     : List Snap
  views    : List View
  quarantine : List (BitVec 32)
  ecc      : Ecc
  upsets   : List (Nat × Upset)
  agenda   : List Instr
  round    : List Nat
  cur      : Option Nat
  nextId   : Nat
  free     : Nat
  deriving DecidableEq, Repr

/-- Power applied, the power-on sequence of R303 not yet run: no step has stored anything (log entries 2 and 3). -/
def State.reset : State where
  ready := false
  failStep := none
  clock := 0
  mem := []
  poison := []
  wordPoison := []
  accCount := []
  rowCount := []
  refresh := []
  accesses := 0
  dies := []
  tiles := []
  ctxs := []
  groups := []
  nodes := []
  queues := []
  btime := []
  period := 0
  aging := 0
  mantle := []
  tenants := []
  fns := []
  irqs := []
  answers := []
  peers := []
  meas0 := 0
  meas1 := 0
  ras := []
  rings := []
  accs := []
  streams := []
  flights := []
  sessions := []
  undo := []
  views := []
  quarantine := []
  ecc := .reset
  upsets := []
  agenda := []
  round := []
  cur := none
  nextId := 0
  free := 0

end Sys2Proof.Machine
end

