-- ==== Sys2Proof/Machine/Table.lean ====
section
/-! DEFINITION. Operations over sparse tables, byte strings, lanes and masks that every other file uses. -/

namespace Sys2Proof.Machine

/-! ## Tables -/

/-- The entry of key k, if one is listed. -/
def Tab.find {α : Type} : Tab α → Nat → Option α
  | [], _ => none
  | (a, v) :: rest, k => if a = k then some v else Tab.find rest k

/-- List v under key k, keeping the keys' order. -/
def Tab.insert {α : Type} : Tab α → Nat → α → Tab α
  | [], k, v => [(k, v)]
  | (a, w) :: rest, k, v =>
    if k < a then (k, v) :: (a, w) :: rest else if k = a then (k, v) :: rest else (a, w) :: Tab.insert rest k v

/-- Unlist key k. -/
def Tab.erase {α : Type} (t : Tab α) (k : Nat) : Tab α := t.filter fun p => p.1 != k

/-- What key k reads as when an unlisted key reads as d. -/
def Tab.read {α : Type} (d : α) (t : Tab α) (k : Nat) : α := (Tab.find t k).getD d

/-- Give key k the value v, listing it only when it differs from d. -/
def Tab.write {α : Type} [DecidableEq α] (d : α) (t : Tab α) (k : Nat) (v : α) : Tab α :=
  if v = d then Tab.erase t k else Tab.insert t k v

/-- Apply f to the value of key k. -/
def Tab.update {α : Type} [DecidableEq α] (d : α) (t : Tab α) (k : Nat) (f : α → α) : Tab α :=
  Tab.write d t k (f (Tab.read d t k))

/-- The entries that a run of values starting at key a lists. -/
def Tab.cells {α : Type} [DecidableEq α] (d : α) : Nat → List α → Tab α
  | _, [] => []
  | a, v :: rest => if v = d then Tab.cells d (a + 1) rest else (a, v) :: Tab.cells d (a + 1) rest

/-- Give keys a, a+1, ... the values of l. -/
def Tab.writeRange {α : Type} [DecidableEq α] (d : α) (t : Tab α) (a : Nat) (l : List α) : Tab α :=
  (t.filter fun p => p.1 < a) ++ Tab.cells d a l ++ t.filter fun p => a + l.length ≤ p.1

/-- The values of keys a to a+n-1. -/
def Tab.readRange {α : Type} (d : α) (t : Tab α) (a n : Nat) : List α := (List.range n).map fun i => Tab.read d t (a + i)

/-- Keys rise strictly. -/
def Tab.sorted {α : Type} : Tab α → Bool
  | [] => true
  | [_] => true
  | (a, _) :: (b, w) :: rest => decide (a < b) && Tab.sorted ((b, w) :: rest)

/-- The canonical form: keys rise strictly and no entry holds the unlisted value. -/
def Tab.wf {α : Type} [DecidableEq α] (d : α) (t : Tab α) : Bool := Tab.sorted t && t.all fun p => p.2 != d

/-! ## Bits and bytes -/

/-- Bits [hi:lo] of a bit vector as a number. -/
def field {n : Nat} (w : BitVec n) (hi lo : Nat) : Nat := bf w.toNat hi lo

/-- Bit k. -/
def bit {n : Nat} (w : BitVec n) (k : Nat) : Bool := w.getLsbD k

/-- n bytes of a number, little-endian (00 R3). -/
def bytesOf : Nat → Nat → List Byte
  | 0, _ => []
  | n + 1, v => BitVec.ofNat 8 v :: bytesOf n (v / 256)

/-- The number that bytes hold, little-endian (00 R3). -/
def numOf (l : List Byte) : Nat := leNat l

/-- Least k with v < 2^k. -/
def bitLength (v : Nat) : Nat := if v = 0 then 0 else Nat.log2 v + 1

def roundUp (v m : Nat) : Nat := (v + m - 1) / m * m

/-- Signed value of the low n bits. -/
def signedOf (n v : Nat) : Int := sextNat n v

/-- An integer modulo 2^n. -/
def wrap (n : Nat) (v : Int) : Nat := (v % (2 ^ n : Nat)).toNat

/-! ## Lanes (00 R8) -/

/-- The lanes of a row at w bits each, lane 0 first. -/
def lanesOf (w : Nat) (r : Row) : List Nat := (List.range (4096 / w)).map fun i => r.toNat / 2 ^ (w * i) % 2 ^ w

/-- Number whose w-bit digits are the list's, lane 0 lowest. -/
def packNat (w : Nat) : List Nat → Nat
  | [] => 0
  | x :: rest => x % 2 ^ w + 2 ^ w * packNat w rest

/-- A row from w-bit lanes. -/
def ofLanes (w : Nat) (l : List Nat) : Row := BitVec.ofNat 4096 (packNat w l)

/-- A mask from bits, lane 0 first. -/
def ofBits (l : List Bool) : Mask := BitVec.ofNat 512 (packNat 1 (l.map fun b => if b then 1 else 0))

/-- The low n bits of a mask set. -/
def maskLow (n : Nat) : Mask := BitVec.ofNat 512 (2 ^ Nat.min n 512 - 1)

/-- Bytes of a row, byte 0 first. -/
def rowBytes (r : Row) : List Byte := bytesOf 512 r.toNat

/-- Mix two rows lane by lane: w-bit lanes that are on take the first. -/
def mixRow (w : Nat) (on : Mask) (a b : Row) : Row :=
  ofLanes w ((List.range (4096 / w)).zipWith (fun i p => if bit on i then p.1 else p.2) ((lanesOf w a).zip (lanesOf w b)))

/-! ## Time (02 R22, R23; 00 R7) -/

/-- a ≤ b as a signed 48-bit difference (R23). -/
def lcLe (a b : Lc) : Bool := !(b - a).msb

def lcLt (a b : Lc) : Bool := lcLe a b && a != b

/-- b − a where a ≤ b. -/
def lcSub (b a : Lc) : Nat := (b - a).toNat

/-- Package time in ns: the clock runs at 1.5 GHz (00 R7; 04 R74). -/
def nsOf (clock : Nat) : Nat := clock * 2 / 3

end Sys2Proof.Machine
end

