-- ==== Sys2Proof/Machine/Attest.lean ====
section
/-! DEFINITION. The hash and the signatures of attestation (15 R306, R307): SHA-384 of FIPS 180-4, and ECDSA over brainpoolP384r1 of RFC 5639,
two documents that the manual names and does not repeat (PRESUMED, log entry 6). -/

namespace Sys2Proof.Machine

/-! ## SHA-384 -/

/-- The primes below 410: 80 of them. -/
def shaPrimes : List Nat := (List.range 410).filter fun n => 1 < n && (List.range 19).all fun d => n ≤ d + 2 || n % (d + 2) != 0

/-- The first 64 bits of the fractional part of the k-th root of a number below 2^12: the whole part is cut off. -/
def rootBits (k p : Nat) : Nat :=
  (List.range 72).foldl (fun r i => if (r + 2 ^ (71 - i)) ^ k ≤ p * 2 ^ (64 * k) then r + 2 ^ (71 - i) else r) 0 % 2 ^ 64

/-- The round constants, from the cube roots of the primes, and the initial hash value of SHA-384, from the square roots of the ninth to the
sixteenth of them (FIPS 180-4). -/
def shaRounds : List Nat := shaPrimes.map (rootBits 3)
def shaInit : List Nat := ((shaPrimes.drop 8).take 8).map (rootBits 2)

/-- 64-bit addition, rotation and shift on numbers below 2^64. -/
def shaAdd (l : List Nat) : Nat := l.foldl (· + ·) 0 % 2 ^ 64
def shaRot (n x : Nat) : Nat := x / 2 ^ n + x % 2 ^ n * 2 ^ (64 - n)
def shaNot (x : Nat) : Nat := 2 ^ 64 - 1 - x

/-- The message schedule grows one word a step; the newest word stands first. -/
def shaExtend (w : List Nat) : List Nat :=
  let x15 := w.getD 14 0
  let x2 := w.getD 1 0
  let s0 := shaRot 1 x15 ^^^ shaRot 8 x15 ^^^ x15 / 2 ^ 7
  let s1 := shaRot 19 x2 ^^^ shaRot 61 x2 ^^^ x2 / 2 ^ 6
  shaAdd [w.getD 15 0, s0, w.getD 6 0, s1] :: w

/-- The 80 words of a block of 16. -/
def shaSchedule (block : List Nat) : List Nat := ((List.range 64).foldl (fun w _ => shaExtend w) block.reverse).reverse

/-- One round on the eight working words. -/
def shaStep (v : List Nat) (kw : Nat × Nat) : List Nat :=
  match v with
  | [a, b, c, d, e, f, g, h] =>
    let t1 := shaAdd [h, shaRot 14 e ^^^ shaRot 18 e ^^^ shaRot 41 e, (e &&& f) ^^^ (shaNot e &&& g), kw.1, kw.2]
    let t2 := shaAdd [shaRot 28 a ^^^ shaRot 34 a ^^^ shaRot 39 a, (a &&& b) ^^^ (a &&& c) ^^^ (b &&& c)]
    [shaAdd [t1, t2], a, b, c, shaAdd [d, t1], e, f, g]
  | l => l

def shaBlock (h block : List Nat) : List Nat :=
  (h.zip ((shaRounds.zip (shaSchedule block)).foldl shaStep h)).map fun p => shaAdd [p.1, p.2]

/-- Bytes as a number, the first the most significant. -/
def bigEndian (l : List Byte) : Nat := l.foldl (fun n b => n * 256 + b.toNat) 0

/-- A number as n bytes, the most significant first. -/
def bytesBig (n v : Nat) : List Byte := (bytesOf n v).reverse

/-- The message with its padding: a one bit, zeros, and the length in bits in 16 bytes. -/
def shaPad (m : List Byte) : List Byte :=
  m ++ [0x80] ++ List.replicate ((111 + 128 - m.length % 128) % 128) 0 ++ bytesBig 16 (8 * m.length)

/-- The first n blocks of 128 bytes, each as 16 words. -/
def shaBlocks : Nat → List Byte → List (List Nat)
  | 0, _ => []
  | n + 1, l => ((List.range 16).map fun i => bigEndian ((l.drop (8 * i)).take 8)) :: shaBlocks n (l.drop 128)

/-- SHA-384 of a byte string, its first byte the most significant. -/
def sha384 (m : List Byte) : BitVec 384 :=
  let p := shaPad m
  BitVec.ofNat 384 ((((shaBlocks (p.length / 128) p).foldl shaBlock shaInit).take 6).foldl (fun n x => n * 2 ^ 64 + x) 0)

/-- A hash as its 48 bytes. -/
def hashBytes (m : BitVec 384) : List Byte := bytesBig 48 m.toNat

/-! ## ECDSA over brainpoolP384r1 -/

def curveP : Nat := 0x8cb91e82a3386d280f5d6f7e50e641df152f7109ed5456b412b1da197fb71123acd3a729901d1a71874700133107ec53
def curveA : Nat := 0x7bc382c63d8c150c3c72080ace05afa0c2bea28e4fb22787139165efba91f90f8aa5814a503ad4eb04a8c7dd22ce2826
def curveN : Nat := 0x8cb91e82a3386d280f5d6f7e50e641df152f7109ed5456b31f166e6cac0425a7cf3ab6af6b7fc3103b883202e9046565
def curveG : Nat × Nat :=
  (0x1d1c64f068cf45ffa2a63a81b7c13f6b8847a3e77ef14fe3db7fcafe0cbd10e8e826e03436d646aaef87b2e247d4af1e,
   0x8abe1d7520f9c2a45cb1eb8e95cfd55262b70b29feec5864e19c054ff99129280e4646217791811142820341263c5315)

/-- b to a power of at most 2^384 - 1, modulo m. -/
def powMod (b e m : Nat) : Nat :=
  ((List.range 384).foldl (fun (r : Nat × Nat) i => (if e.testBit i then r.1 * r.2 % m else r.1, r.2 * r.2 % m)) (1 % m, b % m)).1

/-- The inverse modulo a prime. -/
def invMod (x m : Nat) : Nat := powMod x (m - 2) m

def subMod (a b m : Nat) : Nat := (a + (m - b % m)) % m

/-- Addition of points; none is the point at infinity. -/
def curveAdd (p q : Option (Nat × Nat)) : Option (Nat × Nat) :=
  match p, q with
  | none, q => q
  | p, none => p
  | some a, some b =>
    if a.1 = b.1 ∧ (a.2 + b.2) % curveP = 0 then none
    else
      let l := if a.1 = b.1 then (3 * a.1 * a.1 + curveA) * invMod (2 * a.2) curveP % curveP
        else subMod b.2 a.2 curveP * invMod (subMod b.1 a.1 curveP) curveP % curveP
      let x := subMod (l * l) (a.1 + b.1) curveP
      some (x, subMod (l * subMod a.1 x curveP) a.2 curveP)

/-- A multiple below 2^384 of a point. -/
def curveMul (k : Nat) (p : Option (Nat × Nat)) : Option (Nat × Nat) :=
  ((List.range 384).foldl (fun (r : Option (Nat × Nat) × Option (Nat × Nat)) i =>
    (if k.testBit i then curveAdd r.1 r.2 else r.1, curveAdd r.2 r.2)) (none, p)).1

/-- The signature r, s of a hash under a private key and a drawn number. -/
def ecdsaSign (key draw : Nat) (h : BitVec 384) : Nat × Nat :=
  let r := ((curveMul draw (some curveG)).map fun p => p.1 % curveN).getD 0
  (r, invMod draw curveN * (h.toNat + r * key) % curveN)

/-- Whether a public key accepts a signature of a hash. -/
def ecdsaVerify (key : Nat × Nat) (h : BitVec 384) (sig : Nat × Nat) : Bool :=
  let w := invMod sig.2 curveN
  let p := curveAdd (curveMul (h.toNat * w % curveN) (some curveG)) (curveMul (sig.1 * w % curveN) (some key))
  0 < sig.1 && sig.1 < curveN && 0 < sig.2 && sig.2 < curveN && p.any fun q => q.1 % curveN = sig.1

/-- A signature as r then s, 48 bytes each, the most significant first (R306). -/
def signatureBytes (sig : Nat × Nat) : List Byte := bytesBig 48 sig.1 ++ bytesBig 48 sig.2

/-- The boot ROM accepts an image's key by its hash, and the image by its signature (R303, R306). -/
def imageOk (stage : Nat) : Bool :=
  let key := Config.imageKey stage
  sha384 (bytesBig 48 key.1 ++ bytesBig 48 key.2) = Config.romKeyHash
    && ecdsaVerify key (sha384 (Config.image stage)) (Config.imageSign stage)

/-- A measurement register extended with an image (R306). -/
def extend (m : BitVec 384) (image : List Byte) : BitVec 384 := sha384 (hashBytes m ++ hashBytes (sha384 image))

end Sys2Proof.Machine
end

