-- ==== Sys2Proof/Machine/Ecc.lean ====
section
/-! DEFINITION. The codes on storage (14 R279, R281): the Reed-Solomon code of a memory line over GF(256), SECDED over 64 bits, and what the
decoders make of an error pattern. -/

namespace Sys2Proof.Machine

/-! ## GF(256) on x^8 + x^4 + x^3 + x^2 + 1 (R281) -/

/-- A product with x, which is α = 0x02. -/
def gfDouble (a : Nat) : Nat := if a < 128 then 2 * a else (2 * a) ^^^ 0x11D

def gfMul (a b : Nat) : Nat :=
  ((List.range 8).foldl (fun (r : Nat × Nat) i => (if b.testBit i then r.1 ^^^ r.2 else r.1, gfDouble r.2)) (0, a)).1

/-- α^j. -/
def gfAlpha : Nat → Nat
  | 0 => 1
  | j + 1 => gfDouble (gfAlpha j)

/-- A polynomial, its highest coefficient first, times (x − a). -/
def timesRoot (p : List Nat) (a : Nat) : List Nat := (p ++ [0]).zipWith (· ^^^ ·) (0 :: p.map (gfMul a))

/-- g(x), the product of (x − α^j) for j below the number of check symbols. -/
def generator (checks : Nat) : List Nat := (List.range checks).foldl (fun p j => timesRoot p (gfAlpha j)) [1]

/-- Division by g(x): the remainder so far takes in one more symbol. -/
def checkStep (g r : List Nat) (d : Nat) : List Nat :=
  (r.drop 1 ++ [0]).zipWith (· ^^^ ·) ((g.drop 1).map (gfMul (d ^^^ r.headD 0)))

/-- The check symbols that make the codeword a multiple of g(x). -/
def checkSymbols (checks : Nat) (data : List Nat) : List Nat :=
  data.foldl (checkStep (generator checks)) (List.replicate checks 0)

/-- The codeword of a line: c0 to c63 its bytes, then the check symbols. -/
def codeword (checks : Nat) (data : List Nat) : List Nat := data ++ checkSymbols checks data

/-- c(α^j), with c0 the coefficient of the highest power. -/
def syndrome (c : List Nat) (j : Nat) : Nat := c.foldl (fun r x => gfMul r (gfAlpha j) ^^^ x) 0

/-- Symbols as they arrive: the codeword with error values added. -/
def received (c : List Nat) (e : Tab Byte) : List Nat :=
  (c.zip (List.range c.length)).map fun p => p.1 ^^^ (e.read 0 p.2).toNat

/-- Symbol i travels on this TSV group of its set, in this beat. -/
def symbolGroup (i : Nat) : Nat := i % 10
def symbolBeat (i : Nat) : Nat := i / 10

/-- A code with this many check symbols corrects so many wrong symbols. -/
def correctsSymbols (checks wrong : Nat) : Bool := wrong ≤ checks / 2

/-- What the decoder delivers of a line: its data, or nothing and the report that it is uncorrectable; never other data (R281). -/
def delivered (checks : Nat) (data : List Nat) (e : Tab Byte) : Option (List Nat) :=
  if correctsSymbols checks e.length then some data else none

/-- Error values of a line meet further ones. -/
def mergeSymbols (a b : Tab Byte) : Tab Byte := b.foldl (fun (t : Tab Byte) p => Tab.update 0 t p.1 (· ^^^ p.2)) a

/-! ## SECDED (R279) -/

/-- Bits of a codeword of 64 data bits. -/
def secdedBits : Nat := 72

/-- Bits in error meet further ones: a bit that flips twice is right again. -/
def mergeBits (a b : List Nat) : List Nat := a.filter (fun x => !b.contains x) ++ b.filter fun x => !a.contains x

/-- One wrong bit of each 64 is corrected; more are not. -/
def secdedCorrects (bits : List Nat) : Bool :=
  bits.all fun x => (bits.filter fun y => y / secdedBits = x / secdedBits).length ≤ 1

/-! ## Row counters (R283) -/

/-- Parity of a number's low n bits. -/
def parityOf (n v : Nat) : Bool := (List.range n).foldl (fun p i => xor p (v.testBit i)) false

/-- The counter that holds a count, with its even-parity bits: [15] over [13:7] and [14] over [6:0]. -/
def counterOf (count : Nat) : Nat :=
  let n := count % 2 ^ 14
  n + (if parityOf 7 n then 2 ^ 14 else 0) + if parityOf 7 (n / 2 ^ 7) then 2 ^ 15 else 0

/-- COUNT of a counter whose parity holds. -/
def countOf (w : Nat) : Option Nat := if counterOf w = w then some (w % 2 ^ 14) else none

/-! ## Unit identifiers (R289) -/

def kindTile : Nat := 1
def kindBuckle : Nat := 2
def kindDispatcher : Nat := 3
def kindGateway : Nat := 4
def kindWalker : Nat := 5
def kindHostPort : Nat := 6
def kindStack : Nat := 7
def kindModule : Nat := 8
def kindUcie : Nat := 9

/-- The identifier of a unit of a die. -/
def unitId (kind die pcol row idx : Nat) : BitVec 32 :=
  BitVec.ofNat 32 (kind * 2 ^ 28 + die * 2 ^ 26 + pcol * 2 ^ 22 + row * 2 ^ 19 + idx * 2 ^ 16)

def unitKind (u : BitVec 32) : Nat := field u 31 28
def unitDie (u : BitVec 32) : Nat := field u 27 26
def unitIdx (u : BitVec 32) : Nat := field u 18 16

/-- A tile's identifier as (die, physical column, row). -/
def unitTile (u : BitVec 32) : Option (Nat × Nat × Nat) :=
  if unitKind u = kindTile && field u 25 22 ≤ 8 && field u 18 0 = 0 then some (unitDie u, field u 25 22, field u 21 19) else none

/-- Whether an identifier names a unit: fields that its KIND does not use are zero, and an index is in its range. -/
def unitOk (u : BitVec 32) : Bool :=
  if unitKind u = kindTile then (unitTile u).isSome
  else 2 ≤ unitKind u && unitKind u ≤ 9 && field u 25 19 = 0 && field u 15 0 = 0
    && (if unitKind u = kindStack then unitIdx u < 2 else if unitKind u = kindModule then true
        else if unitKind u = kindUcie then unitIdx u < 4 && unitIdx u != unitDie u else unitIdx u = 0)

end Sys2Proof.Machine
end

