-- ==== Sys2Proof/Machine/Memory.lean ====
section
/-! DEFINITION. Where things stand: tiles, dies and contexts by number, physical memory with its poison and counters
(08 R177, R186; 14 R279, R280), and the bytes of a location (09 R189). -/

namespace Sys2Proof.Machine

/-! ## Contexts, tiles, dies, groups, nodes -/

/-- The number of a context: tile * 4 + k, with tile = die * 64 + y * 8 + x in logical coordinates. -/
def Place.key (p : Place) (dx dy : Nat) : Nat := (p.die * 64 + (p.y + dy) * 8 + (p.x + dx)) * 4 + p.k

def keyTile (key : Nat) : Nat := key / 4
def keyDie (key : Nat) : Nat := key / 256
def tileDie (tile : Nat) : Nat := tile / 64

def State.ctx? (s : State) (key : Nat) : Option Ctx := s.ctxs.find key
def State.setCtx (s : State) (key : Nat) (c : Ctx) : State := { s with ctxs := s.ctxs.insert key c }
def State.mapCtx (s : State) (key : Nat) (f : Ctx → Ctx) : State :=
  match s.ctx? key with
  | some c => s.setCtx key (f c)
  | none => s

/-- A change from outside a context's program: it is made in the older copies too, which a rewind may restore (14 R286). -/
def State.mapSeen (s : State) (key : Nat) (f : Ctx → Ctx) : State :=
  { s.mapCtx key f with undo := s.undo.map fun u => if u.key = key then { u with ctx := f u.ctx } else u }

def State.tile (s : State) (t : Nat) : Tile := s.tiles.read .reset t
def State.setTile (s : State) (t : Nat) (v : Tile) : State := { s with tiles := s.tiles.write .reset t v }
def State.mapTile (s : State) (t : Nat) (f : Tile → Tile) : State := s.setTile t (f (s.tile t))
def State.die (s : State) (d : Nat) : Die := s.dies.read .reset d
def State.mapDie (s : State) (d : Nat) (f : Die → Die) : State := { s with dies := s.dies.update .reset d f }
def State.group? (s : State) (g : Nat) : Option Group := s.groups.find g
def State.mapGroup (s : State) (g : Nat) (f : Group → Group) : State :=
  match s.group? g with
  | some v => { s with groups := s.groups.insert g (f v) }
  | none => s
def State.node? (s : State) (n : Nat) : Option Node := s.nodes.find n
def State.mapNode (s : State) (n : Nat) (f : Node → Node) : State :=
  match s.node? n with
  | some v => { s with nodes := s.nodes.insert n (f v) }
  | none => s
def State.queue (s : State) (q : Nat) : Queue := s.queues.read .reset q
def State.setQueue (s : State) (q : Nat) (v : Queue) : State := { s with queues := s.queues.write .reset q v }
def State.fn (s : State) (f : Nat) : Fn := s.fns.read .reset f
def State.mapFn (s : State) (f : Nat) (g : Fn → Fn) : State := { s with fns := s.fns.update .reset f g }
def State.now (s : State) : Nat := nsOf s.clock

/-- The context of a group at an offset, when the group is placed. -/
def State.groupKey (s : State) (g dx dy : Nat) : Option Nat := do
  let grp ← s.group? g
  let p ← grp.place
  return p.key dx dy

/-- Keys of the contexts of a placed group. -/
def State.groupKeys (s : State) (g : Nat) : List Nat := (s.ctxs.filter fun p => p.2.grp = g).map (·.1)

/-- Groups of a node. -/
def State.nodeGroups (s : State) (n : Nat) : List Nat := (s.groups.filter fun p => p.2.node = n).map (·.1)

/-! ## Physical address map (08 R177) -/

def inHbm (pa : Nat) : Bool := pa < 0x6000000000
def inCap (pa : Nat) : Bool := 0x100000000000 ≤ pa && pa < 0x118000000000
def inHost (pa : Nat) : Bool := 0x8000000000000 ≤ pa && pa < 0x10000000000000
def inMap (pa : Nat) : Bool := inHbm pa || inCap pa || inHost pa

/-- The whole run lies in one memory of the map. -/
def runInMap (pa n : Nat) : Bool :=
  n = 0 || (inHbm pa && inHbm (pa + n - 1)) || (inCap pa && inCap (pa + n - 1)) || (inHost pa && inHost (pa + n - 1))

/-- The die that owns a physical address; host memory belongs to the asking die (15 R299). -/
def paDie (pa : Nat) : Nat :=
  if inHbm pa then pa / 0x1800000000 else if inCap pa then (pa - 0x100000000000) / 0x6000000000 else 0

/-- The drain path of a physical address (09 R198). -/
def paPath (pa : Nat) : Path := if inHbm pa then .hbm else if inCap pa then .cap else .host

/-! ## Memory bytes (log entry 2: an unlisted byte reads 0) -/

/-- What an unlisted byte of memory reads as. -/
def memDefault : Byte := 0

/-- The memory's canonical form. -/
def Memory.wf (m : List Host.Cell) : Bool := Tab.wf memDefault m

def readByte (m : List Host.Cell) (a : Nat) : Byte := Tab.read memDefault m a

def readMem (m : List Host.Cell) (a n : Nat) : List Byte := Tab.readRange memDefault m a n

def writeMem (m : List Host.Cell) (a : Nat) (l : List Byte) : List Host.Cell := Tab.writeRange memDefault m a l

def State.read64 (s : State) (pa : Nat) : Word := BitVec.ofNat 64 (numOf (readMem s.mem pa 8))

def State.write64 (s : State) (pa : Nat) (v : Word) : State := { s with mem := writeMem s.mem pa (bytesOf 8 v.toNat) }

/-! ## Poison (14 R280) -/

def lineOf (pa : Nat) : Nat := pa / 64

/-- Lines that a run meets. -/
def linesOf (pa n : Nat) : List Nat := if n = 0 then [] else (List.range ((pa + n - 1) / 64 - pa / 64 + 1)).map (pa / 64 + ·)

/-- Check symbols of a line's code: 16 in HBM4, 8 in the capacity tier (14 R279). -/
def lineChecks (l : Nat) : Nat := if inHbm (64 * l) then 16 else 8

/-- The stack that holds an HBM4 address: twice the die, plus the parity of the 4 KiB granule within the die (08 R177). -/
def stackOf (pa : Nat) : Nat := 2 * (pa / 0x1800000000) + pa % 0x1800000000 / 4096 % 2

/-- The TSV group that a symbol of a line travels on (14 R281). -/
def tsvOf (l i : Nat) : Tsv := ⟨stackOf (64 * l), Config.tsvSetOf l, symbolGroup i⟩

/-- A TSV group that has failed and that no spare replaces. -/
def Ecc.tsvDown (e : Ecc) (t : Tsv) : Bool := e.tsvBad.contains t && !e.tsvSpare.contains t

/-- Symbols of a line that reach the decoder wrong: those stored wrong, and those that travel on a failed group (14 R279, R281). -/
def State.lineErrors (s : State) (l : Nat) : List Nat :=
  let stored := (s.ecc.lines.read [] l).map (·.1)
  if s.ecc.tsvBad.isEmpty || !inHbm (64 * l) then stored
  else stored ++ (List.range 80).filter fun i => !stored.contains i && s.ecc.tsvDown (tsvOf l i)

/-- A line that the decoder reports uncorrectable. -/
def State.unreadable (s : State) (l : Nat) : Bool := !correctsSymbols (lineChecks l) (s.lineErrors l).length

/-- Some byte of the run lies in a poisoned 64-byte line of HBM4 or the capacity tier, or in one that cannot be decoded. -/
def State.poisoned (s : State) (pa n : Nat) : Bool :=
  (s.poison.any fun l => pa / 64 ≤ l && l * 64 < pa + n) || (!s.ecc.tsvBad.isEmpty && (linesOf pa n).any s.unreadable)

/-- Some word poisoned by a Buckle meets the run, by halves of a word (09 R204). -/
def State.wordPoisoned (s : State) (peer : Option Nat) (pa n : Nat) : Bool :=
  s.wordPoison.any fun l => match l, peer with
    | .phys a, none => pa < a + 4 && a < pa + n
    | .peer p a, some q => p = q && pa < a + 4 && a < pa + n
    | _, _ => false

/-- A plain write clears the words' poison that it meets (09 R204). -/
def State.clearWordPoison (s : State) (peer : Option Nat) (pa n : Nat) : State :=
  { s with wordPoison := s.wordPoison.filter fun l => !(match l, peer with
    | .phys a, none => pa < a + 4 && a < pa + n
    | .peer p a, some q => p = q && pa < a + 4 && a < pa + n
    | _, _ => false) }

/-- A line enters its die's poison directory (14 R280). -/
def State.poisonLine (s : State) (l : Nat) : State := if s.poison.contains l then s else { s with poison := s.poison ++ [l] }

/-- Poison lines of a die's directory (14 R280). -/
def State.directoryFull (s : State) (d : Nat) : Bool := 16384 ≤ (s.poison.filter fun l => paDie (l * 64) = d).length

/-! ## Access counters (08 R186) and firmware's log -/

/-- Raise an interrupt vector to a function unless it is masked (15 R297). -/
def State.raiseIrq (s : State) (f v : Nat) : State :=
  if bit (s.fn f).imask v then s else { s with irqs := s.irqs ++ [(f, v)] }

def State.ownerFns (s : State) : List Nat := (s.fns.filter fun p => p.2.bind = .owner).map (·.1)

/-- A RAS event: it joins firmware's log and raises vector 3 of the owner's function (15 R297). -/
def State.log (s : State) (r : Ras) : State := s.ownerFns.foldl (fun s f => s.raiseIrq f 3) { s with ras := s.ras ++ [r] }

/-- One more access at a 64 KiB block: the counter saturates, and meeting the threshold records the block and raises
vector 2 of the owner's function (08 R186; 15 R297). -/
def State.countAccess (s : State) (pa : Nat) : State :=
  if inHost pa then s
  else
    let b := pa / 0x10000
    let d := s.die (paDie pa)
    let n := s.accCount.read 0 b
    let n' := if n < 0xFFFF then n + 1 else n
    let s := { s with accCount := s.accCount.write 0 b n' }
    if n' = n ∨ n' ≠ d.accTh then s
    else
      let s := s.mapDie (paDie pa) fun d =>
        if d.events.length < 64 then { d with events := d.events ++ [b * 0x10000] } else { d with overflow := true }
      s.ownerFns.foldl (fun s f => s.raiseIrq f 2) s

/-! ## Bytes of a location -/

/-- Bytes of a TILE handle of a context from an offset. -/
def Handle.read (h : Handle) (off n : Nat) : List Byte := h.bytes.readRange 0 off n

/-- A write into a handle: bytes, written bits, and dirty bits when the handle writes back (08 R170, R172). -/
def Handle.write (h : Handle) (off : Nat) (l : List Byte) : Handle :=
  { h with bytes := h.bytes.writeRange 0 off l
           written := if h.desc.bmode = 0 then h.written else h.written.writeRange false off (l.map fun _ => true)
           dirty := if h.desc.bmode = 2 then h.dirty.writeRange false off (l.map fun _ => true) else h.dirty }

/-- A write of the bytes whose enable bit is set. -/
def Handle.writeMasked (h : Handle) (off : Nat) (l : List (Bool × Byte)) : Handle :=
  ((List.range l.length).zip l).foldl (fun h p => if p.2.1 then h.write (off + p.1) [p.2.2] else h) h

def Ctx.handle (c : Ctx) (h : Nat) : Handle := c.handles.read .empty h
def Ctx.setHandle (c : Ctx) (h : Nat) (v : Handle) : Ctx := { c with handles := c.handles.write .empty h v }

/-- Read n bytes at a location. Absent peers and groups give zeros; the callers test presence first. -/
def State.readLoc (s : State) (l : Loc) (n : Nat) : List Byte :=
  match l with
  | .phys pa => readMem s.mem pa n
  | .peer p pa => match s.peers.find p with
    | some v => readMem v.mem pa n
    | none => List.replicate n 0

/-- Write bytes at a location: a whole line is written with a valid codeword. -/
def State.writeLoc (s : State) (l : Loc) (d : List Byte) : State :=
  match l with
  | .phys pa =>
    ({ s with
      mem := writeMem s.mem pa d
      ecc := { s.ecc with lines := s.ecc.lines.filter fun p => !(pa ≤ 64 * p.1 && 64 * p.1 + 64 ≤ pa + d.length) } }).clearWordPoison
        none pa d.length
  | .peer p pa => match s.peers.find p with
    | some v => ({ s with peers := s.peers.insert p { v with mem := writeMem v.mem pa d } }).clearWordPoison (some p) pa d.length
    | none => s

/-- Whether a read of n bytes at a location meets poison (14 R280; 09 R204). -/
def State.locPoisoned (s : State) (l : Loc) (n : Nat) : Bool :=
  match l with
  | .phys pa => s.poisoned pa n || s.wordPoisoned none pa n
  | .peer p pa => s.wordPoisoned (some p) pa n
      || (s.peers.find p).any fun v => v.poison.any fun l => pa / 64 ≤ l && l * 64 < pa + n

end Sys2Proof.Machine
end

