-- ==== Sys2Proof/Machine/Storage.lean ====
section
/-! DEFINITION. What an access to a memory line meets beside its bytes (08 R186; 14 R279 to R284, R292): the access counter, the activation
counter of its row, errors that the decoder corrects, and the spares that firmware puts in use. Thresholds and the map of rows are open
(log entry 5); an error beyond its code is found when it strikes (log entry 55). -/

namespace Sys2Proof.Machine

/-! ## Repair (R282, R292) -/

/-- The unit identifier of the memory that holds a line. -/
def lineUnit (l : Nat) : BitVec 32 :=
  let d := paDie (64 * l)
  if inHbm (64 * l) then unitId kindStack d 0 0 (stackOf (64 * l) % 2) else unitId kindModule d 0 0 (Config.moduleOf l % 8)

/-- Kinds of part that firmware counts apart from the units of R289. -/
def partTsv : Nat := 16
def partRow : Nat := 17
def partBuckleRow : Nat := 18

/-- A TSV group's count has passed the threshold: the spare of its set takes its place, if it is free. -/
def State.spareTsv (s : State) (t : Tsv) : State :=
  if s.ecc.tsvSpare.any fun x => x.stack = t.stack && x.set = t.set then s
  else { s with ecc := { s.ecc with tsvSpare := s.ecc.tsvSpare ++ [t] } }.log (.spared (unitId kindStack (t.stack / 2) 0 0 (t.stack % 2)).toNat)

/-- One more symbol corrected on a group. -/
def State.countTsv (s : State) (t : Tsv) : State :=
  let n := ((s.ecc.tsvCount.find? fun p => p.1 = t).map (·.2)).getD 0 + 1
  let s := { s with ecc := { s.ecc with tsvCount := s.ecc.tsvCount.filter (fun p => p.1 != t) ++ [(t, n)] } }
  if Config.errorThreshold partTsv < n then s.spareTsv t else s

/-- A DRAM row moves to one of its bank's eight spares: its lines are copied through the decoder. -/
def State.spareRow (s : State) (row unit : Nat) : State :=
  let bank := Config.dramBankOf row
  if s.ecc.rowSpare.contains row || 8 ≤ (s.ecc.rowSpare.filter fun r => Config.dramBankOf r = bank).length then s
  else { s with ecc := { s.ecc with
    rowSpare := s.ecc.rowSpare ++ [row]
    lines := s.ecc.lines.filter fun p => !(inHbm (64 * p.1) && Config.dramRowOf p.1 = row) } }.log (.spared unit)

/-- A row of a Buckle's SRAM moves to one of its 64 spares: words keep their sessions and poison. -/
def State.spareBuckleRow (s : State) (row d : Nat) : State :=
  if s.ecc.buckleSpare.contains (4 * row + d) || 64 ≤ (s.ecc.buckleSpare.filter fun r => r % 4 = d).length then s
  else { s with ecc := { s.ecc with buckleSpare := s.ecc.buckleSpare ++ [4 * row + d] } }.log (.spared (unitId kindBuckle d 0 0 0).toNat)

/-! ## Correctable and uncorrectable events (R279) -/

/-- A correctable event of a unit: logged and counted. -/
def State.correctable (s : State) (u : BitVec 32) : State :=
  { s with ecc := { s.ecc with events := s.ecc.events.update 0 u.toNat (· + 1) } }.log (.correctable u.toNat)

/-- A unit has had more correctable events than firmware lets pass (R292). -/
def State.worn (s : State) (u : BitVec 32) : Bool := Config.errorThreshold (unitKind u) < s.ecc.events.read 0 u.toNat

/-- A correctable event of a DRAM row. -/
def State.countRow (s : State) (l : Nat) : State :=
  if !inHbm (64 * l) then s
  else
    let row := Config.dramRowOf l
    let s := { s with ecc := { s.ecc with rowEvents := s.ecc.rowEvents.update 0 row (· + 1) } }
    if Config.errorThreshold partRow < s.ecc.rowEvents.read 0 row then s.spareRow row (lineUnit l).toNat else s

/-- A correctable event of a row of a Buckle. -/
def State.countBuckleRow (s : State) (pa : Nat) : State :=
  let row := Config.buckleRowOf pa
  let s := { s with ecc := { s.ecc with buckleEvents := s.ecc.buckleEvents.update 0 row (· + 1) } }
  if Config.errorThreshold partBuckleRow < s.ecc.buckleEvents.read 0 row then s.spareBuckleRow row (paDie pa) else s

/-- A Buckle operation meets its word: a bit in error is put right, logged and counted by row (R279, R292). -/
def State.meetWord (s : State) (pa : Nat) : State :=
  let w := pa / 8 * 8
  if (s.ecc.words.find w).isNone then s
  else
    ({ s with ecc := { s.ecc with words := s.ecc.words.erase w } }.correctable (unitId kindBuckle (paDie w) 0 0 0)).countBuckleRow w

/-- A line is uncorrectable: it is poisoned and logged, and the failed groups and the row that it met get their spares at once. -/
def State.lineLost (s : State) (l : Nat) : State :=
  let down := ((s.lineErrors l).map (tsvOf l)).filter s.ecc.tsvDown
  let s := { s.poisonLine l with ecc := { s.ecc with lines := s.ecc.lines.erase l } }.log (.uncorrectable (lineUnit l).toNat)
  let s := down.eraseDups.foldl State.spareTsv s
  if inHbm (64 * l) then s.spareRow (Config.dramRowOf l) (lineUnit l).toNat else s

/-- The decoder meets a line: what it corrects is right in the stored copy too, is logged, and is counted by group and row. -/
def State.meetLine (s : State) (l : Nat) : State :=
  let wrong := s.lineErrors l
  if wrong.isEmpty then s
  else if s.unreadable l then s.lineLost l
  else
    let s := ({ s with ecc := { s.ecc with lines := s.ecc.lines.erase l } }.correctable (lineUnit l)).countRow l
    if inHbm (64 * l) then wrong.foldl (fun s i => s.countTsv (tsvOf l i)) s else s

/-- The lines of a run that hold errors, or travel on failed groups. -/
def State.meetLines (s : State) (pa n : Nat) : State :=
  if s.ecc.lines.isEmpty && s.ecc.tsvBad.isEmpty then s else (linesOf pa n).foldl State.meetLine s

/-! ## Row activations (R283, R284) -/

/-- A targeted refresh of a row is queued. A bank holds four: a fifth row waits until the oldest of them completes, which sets its counter
to 0; the wait makes the access late and changes no value (R284). -/
def State.queueRefresh (s : State) (row : Nat) : State :=
  if s.refresh.contains row then s
  else
    let mine := s.refresh.filter fun r => Config.dramBankOf r = Config.dramBankOf row
    match mine with
    | r :: _ :: _ :: _ :: _ => { s with refresh := s.refresh.filter (· != r) ++ [row], rowCount := s.rowCount.erase r }
    | _ => { s with refresh := s.refresh ++ [row] }

/-- The row of an HBM4 address closes: the controller adds one to its counter. A counter at the threshold, or whose parity fails, is saturated:
it holds the threshold and a targeted refresh is queued. A failed parity is logged (R283). -/
def State.closeRow (s : State) (pa : Nat) : State :=
  let row := Config.dramRowOf (lineOf pa)
  let th := (s.die (paDie pa)).rowTh
  let saturate (s : State) : State := { s.queueRefresh row with rowCount := (s.queueRefresh row).rowCount.write 0 row (counterOf th) }
  match countOf (s.rowCount.read 0 row) with
  | none => saturate (s.correctable (lineUnit (lineOf pa)))
  | some n => if n + 1 < th then { s with rowCount := s.rowCount.write 0 row (counterOf (n + 1)) } else saturate s

/-- An HBM4 access, which may close its row. Whether it does touches the counters, the refreshes and firmware's log alone. -/
def State.activate (s : State) (pa : Nat) : State :=
  if !inHbm pa then s
  else
    let t := if Config.precharges s.accesses then s.closeRow pa else s
    { s with
      accesses := s.accesses + 1, rowCount := t.rowCount, refresh := t.refresh, ras := t.ras, irqs := t.irqs
      ecc := { s.ecc with events := t.ecc.events } }

/-- The places at which the parts of a run begin, one for each 4 KiB granule (08 R188). -/
def partStarts (pa n : Nat) : List Nat :=
  if n = 0 then [] else (List.range ((pa + n + 4095) / 4096 - pa / 4096)).map fun i => Nat.max pa ((pa / 4096 + i) * 4096)

/-- A run is read or written, by whatever agent: rows open for its parts, and the decoder meets its lines. -/
def State.meet (s : State) (pa n : Nat) : State := ((partStarts pa n).foldl State.activate s).meetLines pa n

/-- Several structures are read or written. -/
def State.meetAll (s : State) (l : List (Nat × Nat)) : State := l.foldl (fun s r => s.meet r.1 r.2) s

/-- An access that 08 R186 counts performs at the parts of a run. -/
def State.touch (s : State) (pa n : Nat) : State := ((partStarts pa n).foldl State.countAccess s).meet pa n

end Sys2Proof.Machine
end

