-- ==== Sys2Proof/Machine/Context.lean ====
section
/-! DEFINITION. The registers of a context and their accessors: scalars with the trap bank, rows, masks, latches, staging
registers, control registers and the loop stack (06), and the context's place in time (02 R22; 13 R267). -/

namespace Sys2Proof.Machine

/-! ## Registers (06 R131 to R136) -/

/-- s0 reads as zero; s48 to s63 are the trap bank in trap time (R131). -/
def Ctx.readS (c : Ctx) (n : Nat) : Word :=
  if n = 0 then 0 else if c.tm && 48 ≤ n then c.bank.read 0 n else c.sregs.read 0 n

/-- A write to s0 is discarded (R100, R131). -/
def Ctx.writeS (c : Ctx) (n : Nat) (v : Word) : Ctx :=
  if n = 0 then c else if c.tm && 48 ≤ n then { c with bank := c.bank.write 0 n v } else { c with sregs := c.sregs.write 0 n v }

def Ctx.readRow (c : Ctx) (n : Nat) : Row := c.rows.read 0 n
def Ctx.writeRow (c : Ctx) (n : Nat) (v : Row) : Ctx := { c with rows := c.rows.write 0 n v }

/-- m0 reads as all ones (R133). -/
def Ctx.readM (c : Ctx) (n : Nat) : Mask := if n = 0 then BitVec.allOnes 512 else c.masks.read 0 n

/-- A write to m0 is discarded (R133). -/
def Ctx.writeM (c : Ctx) (n : Nat) (v : Mask) : Ctx := if n = 0 then c else { c with masks := c.masks.write 0 n v }

def Ctx.readB (c : Ctx) (n : Nat) : Row := c.latches.read 0 n
def Ctx.writeB (c : Ctx) (n : Nat) (v : Row) : Ctx := { c with latches := c.latches.write 0 n v }
def Ctx.readE (c : Ctx) (n : Nat) : Word := c.eregs.read 0 n
def Ctx.writeE (c : Ctx) (n : Nat) (v : Word) : Ctx := { c with eregs := c.eregs.write 0 n v }

/-- Staging registers a to b as a command snapshots them (R136). -/
def Ctx.stage (c : Ctx) (a b : Nat) : Tab Word := c.eregs.filter fun p => a ≤ p.1 && p.1 ≤ b

/-- The lowest latch of a slot's ring and the ring's place in the positions image (R92, R134; 13 R269). -/
def ringOf : Slot → Option (Nat × Nat)
  | .s => some (0, 0)
  | .va => some (4, 2)
  | .vb => some (8, 4)
  | .ld => some (12, 6)
  | _ => none

/-- Ring position of a slot, 0..3. -/
def Ctx.ringPos (c : Ctx) (sh : Nat) : Nat := field c.rings (sh + 1) sh

/-- The latch that the next result of a slot is assigned (R134). -/
def Ctx.nextLatch (c : Ctx) (sl : Slot) : Option Nat := (ringOf sl).map fun p => p.1 + c.ringPos p.2

/-- Assign the latch: the ring's position advances modulo 4 (R134). -/
def Ctx.advanceRing (c : Ctx) (sl : Slot) : Ctx :=
  match ringOf sl with
  | none => c
  | some (_, sh) =>
    let p := c.ringPos sh
    { c with rings := BitVec.ofNat 8 (c.rings.toNat - p * 2 ^ sh + (p + 1) % 4 * 2 ^ sh) }

def Ctx.token (c : Ctx) (n : Nat) : Token := c.tokens.read .empty n
def Ctx.tensor (c : Ctx) (n : Nat) : TensorId := c.tensors.read .empty n
def Ctx.head (c : Ctx) (n : Nat) : Head := c.heads.read .empty n
def Ctx.port (c : Ctx) (n : Nat) : Port := c.ports.read .empty n
def Ctx.wbuf (c : Ctx) (b : Nat) : WBuf := if b = 0 then c.wb0 else c.wb1
def Ctx.setWbuf (c : Ctx) (b : Nat) (w : WBuf) : Ctx := if b = 0 then { c with wb0 := w } else { c with wb1 := w }

/-! ## Time -/

/-- The counter that issue and landing are counted on (13 R267). -/
def Ctx.time (c : Ctx) : Lc := if c.tm then c.tlc else c.lcc

/-- Advance the counter in use and the combined count of the release horizon (02 R22, R36). -/
def Ctx.advance (c : Ctx) (n : Nat) : Ctx :=
  let c := { c with comb := c.comb + n }
  if c.tm then { c with tlc := c.tlc + BitVec.ofNat 48 n } else { c with lcc := c.lcc + BitVec.ofNat 48 n }

/-- The combined count of lc that lie behind a context at a clock: of the lc that its last bundle takes, those not yet over are left out
(02 R36; 14 R286). -/
def Ctx.passed (c : Ctx) (clock : Nat) : Nat := c.comb - (c.idleTill - clock)

/-- PRIV of CTL.STATUS: trap time is tenant system level (13 R268). -/
def Ctx.sysLevel (c : Ctx) : Bool := c.tm

/-- Due offset of a latency selector (02 R32). -/
def Ctx.due (c : Ctx) (lsel : Nat) : Nat := field c.pk.lat (16 * lsel + 13) (16 * lsel)

/-! ## Control registers (06 R141 to R145) -/

def accountTypes : List Nat := [1, 2, 3, 5, 6, 7, 9, 10, 11]

/-- CTL.STATUS (R142). -/
def Ctx.statusWord (c : Ctx) : Word :=
  BitVec.ofNat 2 (if c.tm then 1 else 0) ++ BitVec.ofBool c.tm ++ BitVec.ofBool c.pk.pair ++ (0 : BitVec 4) ++ c.rings ++ (0 : BitVec 12)
    ++ BitVec.ofNat 4 c.loops.length ++ BitVec.ofNat 8 c.pk.h ++ BitVec.ofNat 8 c.pk.w ++ BitVec.ofNat 8 c.dy ++ BitVec.ofNat 8 c.dx

/-- CTL.CAP (R145). -/
def capWord : Word := 0x00F4000065530000

/-- LIMIT and OUT of an allowance (R144, R145). -/
def Ctx.limitOf (c : Ctx) (k : Nat) : Nat := c.limit.read 64 k
def Ctx.outOf (c : Ctx) (k : Nat) : Nat := c.out.read 0 k

/-- A loop index register: zero where the entry does not exist (R137). -/
def Ctx.loopIndex (c : Ctx) (i : Nat) : Word :=
  match c.loops[i]? with
  | some e => e.index
  | none => 0

/-- What SYSR returns (R141, R142). -/
def Ctx.readCtl (c : Ctx) (i : Nat) : Word :=
  if i = 0 then c.statusWord
  else if i = 1 then c.lcc.setWidth 64
  else if i = 2 then BitVec.ofNat 64 c.acct.code
  else if i = 3 then c.rnd
  else if i = 4 then c.flg
  else if i = 5 then c.fer
  else if i = 6 then c.pk.lat.setWidth 64
  else if i = 7 then (c.pk.lat >>> 64).setWidth 64
  else if i = 8 then c.tvec
  else if i = 9 then c.tframe
  else if 0x10 ≤ i ∧ i ≤ 0x17 then BitVec.ofNat 64 (c.outOf (i - 0x10) * 2 ^ 32 + c.limitOf (i - 0x10))
  else if i = 0x20 then capWord
  else if 0x30 ≤ i ∧ i ≤ 0x35 then c.loopIndex (i - 0x30)
  else 0

/-- Access of a control register (R141). -/
inductive CtlAccess where
  | ro | rw | rwt
  deriving DecidableEq, Repr

def ctlAccess (i : Nat) : CtlAccess :=
  if (2 ≤ i && i ≤ 5) || i = 9 || (0x10 ≤ i && i ≤ 0x17) then .rw else if i = 8 then .rwt else .ro

/-- Whether SYSW accepts a value: reserved bits zero and writable fields in their tables (R142). -/
def ctlAccepts (i : Nat) (v : Word) : Bool :=
  if i = 2 then field v 63 4 = 0 && accountTypes.contains (field v 3 0)
  else if i = 3 then field v 63 16 = 0 && field v 9 4 = 0
  else if i = 4 then field v 63 25 = 0
  else if i = 5 then field v 5 0 = 0 && field v 62 60 ≤ 4 && field v 59 56 ≤ 4
  else if i = 8 || i = 9 then field v 63 56 = 0 && field v 5 0 = 0
  else if 0x10 ≤ i && i ≤ 0x17 then field v 63 43 = 0 && field v 31 11 = 0 && 1 ≤ field v 10 0 && field v 10 0 ≤ 1024
  else false

/-- SYSW's effect (R141, R142): fields marked RO keep their value. -/
def Ctx.writeCtl (c : Ctx) (i : Nat) (v : Word) : Ctx :=
  if i = 2 then { c with acct := (Ty.ofCode (field v 3 0)).getD c.acct }
  else if i = 3 then { c with rnd := v }
  else if i = 4 then { c with flg := v }
  else if i = 5 then { c with fer := v }
  else if i = 8 then { c with tvec := v }
  else if i = 9 then { c with tframe := v }
  else if 0x10 ≤ i ∧ i ≤ 0x17 then { c with limit := c.limit.write 64 (i - 0x10) (field v 10 0) }
  else c

/-- An address field of CTL.TVEC or CTL.TFRAME as a canonical address (08 R178). -/
def canonical56 (v : Nat) : Word := BitVec.ofNat 64 (if v / 2 ^ 55 % 2 = 1 then v % 2 ^ 56 + (2 ^ 64 - 2 ^ 56) else v % 2 ^ 56)

/-! ## Flags (06 R143; 07 R153) -/

/-- Place of a slot's flag set in CTL.FLG and its code in CTL.FER. -/
def flagSet : Slot → Option (Nat × Nat)
  | .s => some (20, 0)
  | .va => some (15, 1)
  | .vb => some (10, 2)
  | .mx => some (5, 3)
  | .xp => some (0, 4)
  | _ => none

/-- The first flag of a set in the order NV, DZ, OF, UF, NX, as its bit number. -/
def firstFlag (f : BitVec 5) : Option Nat := [4, 3, 2, 1, 0].find? fun k => bit f k

/-- Raise flags of a slot: sticky bits, and the first record of CTL.FER while FEREN = 1 and V = 0 (R143). -/
def Ctx.raiseFlags (c : Ctx) (sl : Slot) (pc : Word) (f : BitVec 5) : Ctx :=
  match flagSet sl, firstFlag f with
  | some (lo, code), some k =>
    let c := { c with flg := c.flg ||| (f.setWidth 64 <<< lo) }
    if bit c.rnd 15 && !bit c.fer 63 then
      { c with fer := BitVec.ofNat 64 (2 ^ 63 + k * 2 ^ 60 + code * 2 ^ 56 + field pc 55 6 * 64) }
    else c
  | _, _ => c

/-- The enabled flags of CTL.RND.FTE (R142; 07 R154). -/
def Ctx.enabledFlags (c : Ctx) (f : BitVec 5) : BitVec 5 := f &&& BitVec.ofNat 5 (field c.rnd 14 10)

/-- FLGCLR: clear sets, and V when it clears the set that FER.SLOT names (R143). -/
def Ctx.clearFlags (c : Ctx) (sets : BitVec 5) : Ctx :=
  let m := [(4, 20), (3, 15), (2, 10), (1, 5), (0, 0)].foldl (fun m p => if bit sets p.1 then m + 31 * 2 ^ p.2 else m) 0
  let c := { c with flg := c.flg &&& ~~~(BitVec.ofNat 64 m) }
  let fs := field c.fer 59 56
  if fs ≤ 4 && bit sets (4 - fs) then { c with fer := c.fer &&& ~~~(BitVec.ofNat 64 (2 ^ 63)) } else c

/-! ## Results in flight -/

/-- Results counted on the counter now in use. -/
def Ctx.active (c : Ctx) : List Inflight := c.inflight.filter fun f => f.prog != c.tm

/-- A matrix command's row is pending at u: issued before u and not yet landed (10 R221). -/
def Ctx.matrixPending (c : Ctx) (row : Nat) : Bool :=
  (c.inflight ++ c.trapEntries).any fun f =>
    let u := if f.prog then c.lcc else c.tlc
    (match f.act with
      | .mx d _ => d = row
      | .macz d n => d ≤ row && row < d + n
      | _ => false) && lcLt f.issue u && lcLt u f.land

end Sys2Proof.Machine
end

