-- ==== Sys2Proof/Machine/Translate.lean ====
section
/-! DEFINITION. Virtual addresses: the walk, the checks of 08 R180 in their order, residency (R182), staged pages (04 R84),
the TLBs with the ring probe (R183), and where a translated access lands. -/

namespace Sys2Proof.Machine

/-- A fault of translation: cause code and detail of 13 R261. -/
structure AFault where
  code   : Nat
  detail : Nat
  deriving DecidableEq, Repr

def faultCanon : AFault := ⟨0x07, 1⟩
def faultUnmapped : AFault := ⟨0x07, 2⟩
def faultMalformed : AFault := ⟨0x07, 3⟩
def faultNonres : AFault := ⟨0x07, 4⟩
def faultAlign : AFault := ⟨0x07, 6⟩
def faultOwner : AFault := ⟨0x08, 5⟩

/-- Lowest and highest virtual addresses (R178, R181). -/
def vaLow : Int := -(2 ^ 55)
def vaHigh : Int := 2 ^ 55 - 1

/-- Every byte of the run lies in the valid range (R181). -/
def vaValid (va : Int) (n : Nat) : Bool := vaLow ≤ va && va + (n : Int) - 1 ≤ vaHigh

/-- The exact integer that a canonical 64-bit address names. -/
def vaOf (w : Word) : Int := w.toInt

/-- Canonical: bits [63:56] are copies of bit 55 (R178). -/
def isCanonical (w : Word) : Bool := vaValid (vaOf w) 1

/-- The 56 address bits that a walk indexes. -/
def va56 (va : Int) : Nat := wrap 56 va

/-- Outcome of a walk. -/
inductive Walk where
  | leaf (e : Word) (big : Bool)
  | fault (f : AFault) (pa : Nat)
  | poison (pa : Nat)
  deriving DecidableEq, Repr

/-- Fields of a table entry (R179). -/
def pteV (e : Word) : Bool := bit e 63
def pteLeaf (e : Word) : Bool := bit e 62
def pteAper (e : Word) : Nat := field e 61 60
def ptePeer (e : Word) : Nat := field e 59 52
def pteFrame (e : Word) : Nat := field e 51 15 * 0x8000
def pteRes (e : Word) : Nat := field e 14 13
def pteSeal (e : Word) : Bool := bit e 12
def pteRap (e : Word) : Bool := bit e 11
def pteRd (e : Word) : Bool := bit e 10
def pteWr (e : Word) : Bool := bit e 9
def pteEx (e : Word) : Bool := bit e 8
def pteSys (e : Word) : Bool := bit e 7

/-- A run lies in granted ranges; ranges may adjoin. -/
def covered (ranges : List (Nat × Nat)) : Nat → Nat → Nat → Bool
  | 0, a, b => b ≤ a
  | f + 1, a, b =>
    if b ≤ a then true
    else
      match ranges.find? fun r => r.1 ≤ a && a < r.1 + r.2 with
      | some r => covered ranges f (r.1 + r.2) b
      | none => false

def inRanges (ranges : List (Nat × Nat)) (a n : Nat) : Bool := covered ranges (ranges.length + 1) a (a + n)

/-- A frame lies in the memory that its aperture requires (R179). -/
def aperOk (aper frame size : Nat) : Bool :=
  match aper with
  | 0 => inHbm frame && inHbm (frame + size - 1)
  | 1 => inCap frame && inCap (frame + size - 1)
  | 2 => (inHbm frame && inHbm (frame + size - 1)) || (inCap frame && inCap (frame + size - 1))
  | _ => inHost frame && inHost (frame + size - 1)

/-- A frame lies in one memory of the map, but not in the one that its aperture requires; a PEER frame is malformed outside the map too
(R179; R425: a walk that meets any other frame outside the map fails for want of ownership). -/
def frameMalformed (aper frame size : Nat) : Bool := !aperOk aper frame size && (aper = 2 || runInMap frame size)

/-- A table entry at a level is malformed (R179). -/
def pteMalformed (level : Nat) (e : Word) : Bool :=
  if pteLeaf e then
    field e 6 0 != 0 || 2 ≤ level || (level = 1 && field e 26 15 != 0)
      || (if pteAper e = 2 then ptePeer e = 255 else ptePeer e != 0)
      || frameMalformed (pteAper e) (pteFrame e) (if level = 1 then 0x8000000 else 0x8000)
  else field e 61 52 != 0 || field e 14 0 != 0 || level = 0

/-- Index bits of a level (R178). -/
def walkIndex (va : Nat) : Nat → Nat
  | 3 => bf va 55 51
  | 2 => bf va 50 39
  | 1 => bf va 38 27
  | _ => bf va 26 15

/-- The walk from a table at a level down; each entry is tested for V, malformation and ownership in turn (R180). -/
def walkFrom (mem : List Host.Cell) (bad : Nat → Bool) (ranges : List (Nat × Nat)) (va : Nat) : Nat → Nat → Walk
  | level, table =>
    let a := table + 8 * walkIndex va level
    let e : Word := BitVec.ofNat 64 (numOf (readMem mem a 8))
    if bad a then .poison a
    else if !pteV e then .fault faultUnmapped a
    else if pteMalformed level e then .fault faultMalformed a
    else if pteLeaf e then
      if pteAper e != 2 && !inRanges ranges (pteFrame e) (if level = 1 then 0x8000000 else 0x8000) then
        .fault faultOwner (pteFrame e)
      else .leaf e (level = 1)
    else if !inRanges ranges (pteFrame e) 0x8000 then .fault faultOwner (pteFrame e)
    else
      match level with
      | 0 => .fault faultMalformed a
      | l + 1 => walkFrom mem bad ranges va l (pteFrame e)

/-- A walk under a tenant's tree; without a root table it fails as if every root entry had V = 0 (R178). -/
def walkTree (mem : List Host.Cell) (bad : Nat → Bool) (t : Option Tenant) (va : Nat) : Walk :=
  match t with
  | none => .fault faultUnmapped 0
  | some t =>
    match t.root with
    | none => .fault faultUnmapped 0
    | some root => if !inRanges t.ranges root 0x8000 then .fault faultOwner root else walkFrom mem bad t.ranges va 3 root

def Ctx.who (key : Nat) (c : Ctx) : Who := ⟨keyTile key, c.tenant, some c.node, c.sysLevel⟩

/-- The first address of a staged range, and whether the range holds an address: addresses are signed, so that a range may run from below 0
past it (04 R83; R181). -/
def Staged.first (r : Staged) : Int := signedOf 56 r.vbase
def Staged.holds (r : Staged) (va : Int) : Bool := r.first ≤ va && va < r.first + (r.npages * 0x8000 : Nat)

/-- The shadow frame of a page in the staged ranges of a node (04 R84). -/
def State.stagedFrame (s : State) (node : Option Nat) (va : Nat) : Option Nat := do
  let n ← node
  let nd ← s.node? n
  let r ← nd.staged.find? fun r => r.holds (signedOf 56 va)
  return r.sframe + (signedOf 56 va - r.first).toNat / 0x8000 * 0x8000

/-- The leaf with another frame. -/
def reframe (e : Word) (frame : Nat) : Word :=
  BitVec.ofNat 64 (e.toNat - field e 51 15 * 0x8000 + frame % 2 ^ 52 / 0x8000 * 0x8000)

/-- The walk of this package, with the staged pages of the node. -/
def State.walk (s : State) (w : Who) (va : Nat) : Walk :=
  match walkTree s.mem (fun a => s.poisoned a 8) (s.tenants.find w.tenant) va with
  | .leaf e big =>
    match s.stagedFrame w.node va with
    | some f => .leaf (reframe e f) false
    | none => .leaf e big
  | r => r

/-- A TLB entry matches an address for a tenant, and for a staged page the node (R183). -/
def TlbEnt.hits (t : TlbEnt) (tenant : Nat) (node : Option Nat) (va : Nat) : Bool :=
  t.tenant = tenant && t.page = (if t.big then va / 0x8000000 else va / 0x8000) && t.node = node

/-- Tiles that a miss probes: the tile itself, then those of its logical row (R183). -/
def probeTiles (tile : Nat) : List Nat := tile :: ((List.range 8).map fun x => tile / 8 * 8 + x).filter (· != tile)

/-- The TLB entry that a lookup finds. -/
def State.tlbFind (s : State) (w : Who) (va : Nat) : Option TlbEnt :=
  let node := if (s.stagedFrame w.node va).isSome then w.node else none
  (probeTiles w.tile).findSome? fun t => (s.tile t).tlb.find? fun e => e.hits w.tenant node va

/-- The leaf by TLB, ring probe or walk (R183, R184). -/
def State.leaf (s : State) (w : Who) (va : Nat) : Walk :=
  match s.tlbFind w va with
  | some e => .leaf e.leaf e.big
  | none => s.walk w va

/-- The table entries that a walk reads, from a table at a level down. -/
def walkReads (mem : List Host.Cell) (ranges : List (Nat × Nat)) (va : Nat) : Nat → Nat → List Nat
  | level, table =>
    let a := table + 8 * walkIndex va level
    let e : Word := BitVec.ofNat 64 (numOf (readMem mem a 8))
    a :: (if !pteV e || pteMalformed level e || pteLeaf e || !inRanges ranges (pteFrame e) 0x8000 then []
      else match level with
        | 0 => []
        | l + 1 => walkReads mem ranges va l (pteFrame e))

/-- A lookup that misses walks, and reads its entries from memory (R183; 14 R279, R283). -/
def State.meetWalk (s : State) (w : Who) (va : Nat) : State :=
  match s.tlbFind w va, s.tenants.find w.tenant with
  | none, some t => match t.root with
    | some root => if inRanges t.ranges root 0x8000 then (walkReads s.mem t.ranges va 3 root).foldl (fun s a => s.meet a 8) s else s
    | none => s
  | _, _ => s

/-- The walks that some parts of an access of this package make. -/
def State.meetWalks (s : State) (w : Who) (l : List (Option (Nat × Nat) × Int)) : State :=
  l.foldl (fun s p => match p.1 with
    | none => s.meetWalk w (va56 p.2)
    | some (n, _) => if n = 255 then s.meetWalk w (va56 p.2) else s) s

/-- Keep a leaf in the tile's TLB of 64 entries; the oldest entry leaves (R183: replacement is not architectural). -/
def State.tlbFill (s : State) (w : Who) (va : Nat) : State :=
  let s := s.meetWalk w va
  match s.leaf w va with
  | .leaf e big =>
    let node := if (s.stagedFrame w.node va).isSome then w.node else none
    let ent : TlbEnt := ⟨w.tenant, if big then va / 0x8000000 else va / 0x8000, big, node, e⟩
    s.mapTile w.tile fun t =>
      if t.tlb.any fun x => x.hits w.tenant node va then t else { t with tlb := (t.tlb ++ [ent]).drop (t.tlb.length - 63) }
  | _ => s

/-- Kinds of access for R180 and R182. `waitRead`: WAITPH and WAITCNT. `sync`: RED, ARRIVE and counter arrivals. -/
inductive AKind where
  | load | store | fetch | copyRead | atomic | sync | waitRead
  deriving DecidableEq, Repr

/-- Where a translated access goes. -/
inductive XRes where
  | ok (l : Loc)
  | nonres
  | held
  | fault (f : AFault)
  | poison (pa : Nat)
  deriving DecidableEq, Repr

def AKind.reads : AKind → Bool
  | .load | .copyRead | .atomic | .sync | .waitRead => true
  | _ => false

def AKind.writes : AKind → Bool
  | .store | .atomic | .sync => true
  | _ => false

def AKind.isAtomic : AKind → Bool
  | .atomic | .sync => true
  | _ => false

/-- Checks 5 to 9 of R180 on a leaf, then R209's refusal of Buckle operations other than ATOM on host memory. -/
def leafCheck (e : Word) (sys tq : Bool) (k : AKind) : Option AFault :=
  if pteSys e && !sys then some ⟨0x08, 4⟩
  else if k.reads && !pteRd e then some ⟨0x08, 1⟩
  else if k.writes && !pteWr e then some ⟨0x08, 2⟩
  else if k = .fetch && !pteEx e then some ⟨0x08, 3⟩
  else if pteSeal e && k.writes && (k.isAtomic || !tq) then some ⟨0x09, 0⟩
  else if k.isAtomic && pteAper e = 2 && !pteRap e then some ⟨0x0A, 0⟩
  else if pteRes e = 0 && k != .load then some faultNonres
  else if pteRes e = 2 && k.writes then some ⟨0x08, 6⟩
  else if pteAper e = 3 && (k = .sync || k = .waitRead) then some ⟨0x08, 7⟩
  else none

/-- Physical byte of a leaf for an address. -/
def leafPa (e : Word) (big : Bool) (va : Nat) : Nat :=
  if big then pteFrame e / 0x8000000 * 0x8000000 + va % 0x8000000 else pteFrame e + va % 0x8000

/-- The package that a die's gateway gives to a peer number: the accelerator that the table's entry names, when it answers (15 R302). -/
def State.gateway (s : State) (die n : Nat) : Option Nat :=
  ((s.die die).peerTab.find n).bind fun id => if (s.peers.find id).isSome then some id else none

/-- A PEER frame as a die of this package reaches it. -/
def State.viaGateway (s : State) (die n pa : Nat) : XRes :=
  match s.gateway die n with
  | some id => .ok (.peer id pa)
  | none => .fault faultOwner

/-- A PEER frame as a die of another package reaches it, by that die's own peer table: a third package, or this one, which tests the frame
against the tenant's ranges (12 R254; 15 R302; DESIGN CHOICE, log entry 47). -/
def State.viaPeer (s : State) (tenant : Nat) (v : Peer) (die n pa size : Nat) : XRes :=
  match Tab.find (v.gates.read [] die) n with
  | none => .fault faultOwner
  | some id =>
    if (s.peers.find id).isSome then .ok (.peer id pa)
    else if id = Config.accelerator && ((s.tenants.find tenant).any fun t => inRanges t.ranges pa size) then .ok (.phys pa)
    else .fault faultOwner

/-- The outcome of an access whose leaf is known; `via` takes a peer number and a frame's byte to where it lies. A MIGRATING page holds writes
and atomics (R182; 12 R258). -/
def finish (via : Nat → Nat → XRes) (r : Walk) (sys tq : Bool) (k : AKind) (va : Nat) : XRes :=
  match r with
  | .fault f _ => .fault f
  | .poison a => .poison a
  | .leaf e big =>
    match leafCheck e sys tq k with
    | some f => .fault f
    | none =>
      if pteRes e = 0 then .nonres
      else if pteRes e = 3 && k.writes then .held
      else if pteAper e = 2 then via (ptePeer e) (leafPa e big va)
      else .ok (.phys (leafPa e big va))

/-- Translate the first byte of a run of n bytes that lies in one granule. -/
def State.translate (s : State) (w : Who) (k : AKind) (tq : Bool) (va : Int) (n : Nat) : XRes :=
  if !vaValid va n then .fault faultCanon else finish (s.viaGateway (tileDie w.tile)) (s.leaf w (va56 va)) w.sys tq k (va56 va)

/-- A doubleword of a peer package that lies in a poisoned line there. -/
def Peer.lost (v : Peer) (pa : Nat) : Bool := v.poison.contains (lineOf pa)

/-- A Mantle owner on a die of this package, or no owner at all (12 R250). -/
def ownerHere (o : Option (Nat × Nat)) : Bool :=
  match o with
  | some (p, _) => p = 255
  | none => true

/-- Translate at a Mantle owner: its die makes the walk, under the tenant's tree of its package (12 R254; 15 R302). -/
def State.translateOwner (s : State) (w : Who) (k : AKind) (tq : Bool) (owner : Option (Nat × Nat)) (va : Int) (n : Nat) :
    XRes :=
  match owner with
  | none => s.translate w k tq va n
  | some (255, d) =>
    if d = tileDie w.tile then s.translate w k tq va n
    else if !vaValid va n then .fault faultCanon else finish (s.viaGateway d) (s.walk w (va56 va)) w.sys tq k (va56 va)
  | some (p, d) =>
    match s.gateway (tileDie w.tile) p with
    | none => .fault faultOwner
    | some id =>
      match s.peers.find id with
      | none => .fault faultOwner
      | some v =>
        if !vaValid va n then .fault faultCanon
        else
          match finish (fun k pa => match s.viaPeer w.tenant v d k pa n with
              | .ok (.phys a) => .ok (.peer Config.accelerator a)
              | r => r) (walkTree v.mem v.lost (v.tenants.find w.tenant) (va56 va)) w.sys tq k (va56 va) with
          | .ok (.phys pa) => .ok (.peer id pa)
          | .ok (.peer j pa) => .ok (if (s.peers.find j).isSome then .peer j pa else .phys pa)
          | r => r

/-- Whether the receiving package lets the tenant reach a frame (15 R302). -/
def State.peerAllows (s : State) (tenant p pa n : Nat) : Bool :=
  match s.peers.find p with
  | none => false
  | some v => match v.tenants.find tenant with
    | none => false
    | some t => inRanges t.ranges pa n

/-- A location that the tenant may not reach: the receiving package refuses a PEER frame outside the tenant's ranges there (15 R302). -/
def State.peerRefuses (s : State) (tenant : Nat) (l : Loc) (n : Nat) : Bool :=
  match l with
  | .phys _ => false
  | .peer p pa => !s.peerAllows tenant p pa n

/-- A page of 128 MiB maps the address for an access at its own die (08 R184). -/
def State.mapsBy (s : State) (w : Who) (owner : Option (Nat × Nat)) (va : Int) : Bool :=
  ownerHere owner && match s.leaf w (va56 va) with
    | .leaf _ big => big
    | _ => false

/-- A failing check at order 4 is logged to firmware (R180). -/
def State.logOwner (s : State) (r : XRes) (pa : Nat) : State :=
  if r = .fault faultOwner then s.log (.owner pa) else s

/-! ## Pairs (03 R66) -/

/-- The twin context of a paired group's context. -/
def State.twinOf (s : State) (c : Ctx) : Option (Nat × Ctx) := do
  let g ← s.group? c.grp
  let tg ← g.twin
  let k ← s.groupKey tg c.dx c.dy
  let tc ← s.ctx? k
  return (k, tc)

/-- The leader's context, for a context of a pair's follower. -/
def State.leaderOf (s : State) (c : Ctx) : Option (Nat × Ctx) :=
  if (s.group? c.grp).any fun g => !g.leader then s.twinOf c else none

/-- Who a context's accesses are made for: the leader's tile translates for both twins (R66; 08 R183). -/
def State.whoOf (s : State) (key : Nat) (c : Ctx) : Who :=
  match s.leaderOf c with
  | some (k, _) => c.who k
  | none => c.who key

/-- The follower of a pair's leader, for a context of the leader. -/
def State.followerOf (s : State) (c : Ctx) : Option (Nat × Ctx) :=
  if (s.group? c.grp).any fun g => g.leader then s.twinOf c else none

/-- The view that the leader left for its follower's context at the follower's place in program order. -/
def State.viewOf (s : State) (c : Ctx) (l : List ViewAt) : Option View :=
  (s.leaderOf c).bind fun p => s.views.find? fun v =>
    v.grp = p.2.grp && v.dx = c.dx && v.dy = c.dy && l.contains v.at_ && v.traps = c.trapLog.length && v.num = c.issued

/-- The state that a context's translations meet: for a pair's follower as the leader met it there (R66). -/
def State.seenAt (s : State) (c : Ctx) (l : List ViewAt) : State :=
  match s.viewOf c l with
  | some v => { s with mem := v.mem, poison := v.poison, wordPoison := v.words, ecc := v.ecc, dies := v.dies, tiles := v.tiles, mantle := v.mantle,
                       tenants := v.tenants, peers := v.peers }
  | none => s

def State.seen (s : State) (c : Ctx) : State := s.seenAt c [.bundle, .trap]

/-- A pair's leader leaves its view for the follower; those that the follower has passed go. -/
def State.noteView (s : State) (c : Ctx) (k : ViewAt) (traps : Nat) : State :=
  match s.followerOf c with
  | none => s
  | some (_, tc) =>
    let v : View := ⟨c.grp, c.dx, c.dy, k, traps, c.issued, s.mem, s.poison, s.wordPoison, s.ecc, s.dies, s.tiles, s.mantle, s.tenants, s.peers⟩
    { s with views := v :: s.views.filter fun v => !(v.grp = c.grp && v.dx = c.dx && v.dy = c.dy && v.num < tc.issued) }

/-! ## Parts (08 R188) -/

/-- Cut a run at 4 KiB granules: (address, length) in rising order; n must be below fuel * 4096. -/
def granules : Nat → Int → Nat → List (Int × Nat)
  | 0, _, _ => []
  | f + 1, va, n =>
    if n = 0 then []
    else
      let room := 4096 - (va % 4096).toNat
      if n ≤ room then [(va, n)] else (va, room) :: granules f (va + room) (n - room)

/-- The parts of a run. -/
def parts (va : Int) (n : Nat) : List (Int × Nat) := granules (n / 4096 + 2) va n

/-- A write cut at 4 KiB granules (08 R188). -/
def WPiece.cut (p : WPiece) : List WPiece :=
  (parts p.va p.data.length).map fun r => { p with va := r.1, data := (p.data.drop (r.1 - p.va).toNat).take r.2 }

/-- The issuing context while it is still the same group's. -/
def State.accCtx (s : State) (a : Acc) : Option Ctx :=
  match s.ctx? a.ctx with
  | some c => if c.grp = a.grp then some c else none
  | none => none

end Sys2Proof.Machine
end

