-- ==== Sys2Proof/Machine/Trace.lean ====
section
/-! DEFINITION. The instruction trace (15 R308 to R310): packets, blocks of a tile, and the rings they are written to. -/

namespace Sys2Proof.Machine

/-- The ring of a node: that of the latest binding whose region block is on its chain, since a binding assigns its ring to every node below its
block (R308). -/
def State.traceRing (s : State) (node : Nat) : Option TraceRing := do
  let n ← s.node? node
  (s.rings.filter fun r => n.chain.any fun b => b.addr = r.region).getLast?

/-- Packets of R309 as bytes; k is the context number. -/
def pktSync (k : Nat) (pc : Word) (lcc : Lc) : List Byte := bytesOf 16 (1 + k * 16 + field pc 55 6 * 2 ^ 8 + lcc.toNat * 2 ^ 64)
def pktBnd (k n : Nat) : List Byte := bytesOf 2 (2 + k * 16 + n * 64)
def pktStall (k cause clocks : Nat) : List Byte := bytesOf 4 (3 + k * 16 + cause * 2 ^ 8 + clocks * 2 ^ 12)
def pktSwitch (k old : Nat) : List Byte := bytesOf 2 (4 + k * 16 + old * 64)
def pktBranch (k : Nat) (taken : Bool) (pc : Word) : List Byte :=
  bytesOf 8 (5 + k * 16 + (if taken then 64 + field pc 55 6 * 2 ^ 8 else 0))
def pktTrap (k : Nat) (rte : Bool) (cause detail src : Nat) : List Byte :=
  bytesOf 4 (6 + k * 16 + (if rte then 64 else 0) + cause * 2 ^ 8 + detail * 2 ^ 16 + src * 2 ^ 24)
def pktLease (k : Nat) (grant : Bool) : List Byte := bytesOf 2 (7 + k * 16 + (if grant then 64 else 0))
def pktRewind (k lc : Nat) : List Byte := bytesOf 2 (8 + k * 16 + lc * 2 ^ 8)
def pktPreempt (k : Nat) (resume forced : Bool) : List Byte :=
  bytesOf 2 (9 + k * 16 + (if resume then 64 else 0) + (if forced then 128 else 0))
def pktMark (k : Nat) (lcc : Lc) : List Byte := bytesOf 8 (10 + k * 16 + lcc.toNat * 2 ^ 16)

/-- Contexts of a tile must each emit a SYNC before their next other packet. -/
def State.needSyncs (s : State) (tile : Nat) : State :=
  { s with ctxs := s.ctxs.map fun p => if keyTile p.1 = tile then (p.1, { p.2 with needSync := true }) else p }

/-- A block goes to its place in a quarter, and the count of blocks written to the quarter's control block. A block is a whole line, so that it
clears a poisoned one (14 R280). -/
def State.ringBlock (s : State) (q place wr : Nat) (block : List Byte) : State :=
  (({ s with poison := s.poison.filter (· != lineOf place) }.writeLoc (.phys place) block).meetAll [(q, 16), (place, 64)]).write64 q
    (BitVec.ofNat 64 (wr + 1))

/-- Write a full block into the tile's die's quarter, or drop it when the quarter is full (R308, R309). With the control block poisoned WR
cannot be counted up, and the block is dropped (DESIGN CHOICE, log entry 56). -/
def State.traceBlock (s : State) (tile : Nat) (r : TraceRing) (body : List Byte) : State :=
  let t := s.tile tile
  let q := r.base + tileDie tile * 2 ^ (r.log2 - 2)
  let cap := (2 ^ (r.log2 - 2) - 64) / 64
  let wr := (s.read64 q).toNat
  let rd := (s.read64 (q + 8)).toNat
  if (wr + 2 ^ 64 - rd) % 2 ^ 64 = cap || s.poisoned q 64 then
    (s.setTile tile { t with tdrop := Nat.min 255 (t.tdrop + 1) }).needSyncs tile
  else
    let y := tile % 64 / 8
    let hdr := t.tseq % 2 ^ 32 + t.tdrop * 2 ^ 32 + (y * 32 + tile % 8 * 4 + tileDie tile) * 2 ^ 40
    let block := bytesOf 8 hdr ++ body ++ List.replicate (56 - body.length) 0
    (s.ringBlock q (q + 64 + wr % cap * 64) wr block).setTile tile { t with tseq := t.tseq + 1, tdrop := 0 }

/-- Room for n more bytes in the tile's block: a block that they would overrun is padded and written first. -/
def State.traceRoom (s : State) (tile : Nat) (r : TraceRing) (n : Nat) : State :=
  let buf := (s.tile tile).tbuf.read [] r.base
  if buf.length + n ≤ 56 then s
  else (s.traceBlock tile r buf).mapTile tile fun t => { t with tbuf := t.tbuf.erase r.base }

/-- The bytes of a packet join the tile's block. -/
def State.tracePush (s : State) (tile : Nat) (r : TraceRing) (pkt : List Byte) : State :=
  let s := s.traceRoom tile r pkt.length
  s.mapTile tile fun t => { t with tbuf := t.tbuf.write [] r.base (t.tbuf.read [] r.base ++ pkt) }

/-- A BND for the bundles not yet counted (R310). -/
def State.traceBnd (s : State) (key : Nat) (r : TraceRing) : State :=
  match s.ctx? key with
  | none => s
  | some c => if c.bnd = 0 then s else (s.tracePush (keyTile key) r (pktBnd (key % 4) c.bnd)).mapCtx key fun c => { c with bnd := 0 }

/-- A SYNC, after the BND. -/
def State.traceSync (s : State) (key : Nat) : State :=
  match s.ctx? key with
  | none => s
  | some c =>
    match s.traceRing c.node with
    | none => s
    | some r =>
      ((s.traceBnd key r).tracePush (keyTile key) r (pktSync (key % 4) c.pc c.lcc)).mapCtx key
        fun c => { c with needSync := false, sinceSync := 0 }

/-- The SYNC that a context owes since blocks of its tile were dropped (R308). -/
def State.traceOwed (s : State) (key : Nat) : State :=
  match s.ctx? key with
  | none => s
  | some c => if c.needSync then s.traceSync key else s

/-- Emit a packet of a context: its BND comes first, and the SYNC that it owes, also when this packet's own block is the one dropped. -/
def State.trace (s : State) (key : Nat) (pkt : List Byte) : State :=
  match (s.ctx? key).bind fun c => s.traceRing c.node with
  | none => s
  | some r => ((((s.traceBnd key r).traceOwed key).traceRoom (keyTile key) r pkt.length).traceOwed key).tracePush (keyTile key) r pkt

/-- What a context owes the trace before it changes its place: a BND, and a SYNC after dropped blocks. -/
def State.traceFlush (s : State) (key : Nat) : State :=
  match (s.ctx? key).bind fun c => s.traceRing c.node with
  | none => s
  | some r => (s.traceBnd key r).traceOwed key

/-- Emit a packet and a SYNC after it (R310: TRAP, REWIND, a resuming PREEMPT). -/
def State.traceThenSync (s : State) (key : Nat) (pkt : List Byte) : State := (s.trace key pkt).traceSync key

/-- Count a bundle that the tile issues for a sampled node (R308). -/
def State.countBundle (s : State) (key : Nat) (node : Nat) (r : TraceRing) : State :=
  if r.period = 0 then s else s.mapTile (keyTile key) fun t => { t with bundles := t.bundles.update 0 node (· + 1) }

/-- The SYNC of a context's first bundle of a launch (R310). -/
def State.traceFirst (s : State) (key : Nat) : State :=
  match s.ctx? key with
  | none => s
  | some c => if c.firstSync then (s.traceSync key).mapCtx key fun c => { c with firstSync := false } else s

/-- Count an issued bundle (R310). -/
def State.traceIssue (s : State) (key : Nat) : State :=
  let s := (s.traceFirst key).mapCtx key fun c => { c with bnd := c.bnd + 1, sinceSync := c.sinceSync + 1 }
  match s.ctx? key with
  | some c => match s.traceRing c.node with
    | some r => (if 1023 ≤ c.bnd then s.traceFlush key else s).countBundle key c.node r
    | none => s.mapCtx key fun c => { c with bnd := 0 }
  | none => s

/-- STALL packets for a stall that ends after a number of clocks (R309). -/
def State.traceStall (s : State) (key cause : Nat) : Nat → Nat → State
  | 0, _ => s
  | f + 1, clocks =>
    if clocks = 0 then s
    else if clocks < 2 ^ 20 then s.trace key (pktStall (key % 4) cause clocks)
    else (s.trace key (pktStall (key % 4) cause (2 ^ 20 - 1))).traceStall key cause f (clocks - (2 ^ 20 - 1))

/-- A context stalls for a cause from now on; a stall for another cause ends here, and its clocks are traced (R309). -/
def State.beginStall (s : State) (key cause : Nat) : State :=
  match s.ctx? key with
  | none => s
  | some c =>
    match c.stall with
    | none => s.setCtx key { c with stall := some (s.clock, cause) }
    | some (t, old) =>
      if old = cause then s
      else (s.traceStall key old ((s.clock - t) / 2 ^ 20 + 1) (s.clock - t)).mapCtx key fun c => { c with stall := some (s.clock, cause) }

/-- A stall ends: its clocks are traced (15 R309). -/
def State.endStall (s : State) (key : Nat) : State :=
  match (s.ctx? key).bind (·.stall) with
  | none => s
  | some (t, cause) => (s.mapCtx key fun c => { c with stall := none }).traceStall key cause ((s.clock - t) / 2 ^ 20 + 1) (s.clock - t)

end Sys2Proof.Machine
end

