-- ==== Sys2Proof/Machine/Selector.lean ====
section
/-! DEFINITION. The tile's selector (03 R47 to R49), stalls, and the matrix lease (R61, R62). -/

namespace Sys2Proof.Machine

/-- Effective priority of a context: its node's, 0 for a background node (03 R49; 04 R78). -/
def State.prio (s : State) (c : Ctx) : Nat :=
  match s.node? c.node with
  | some n => if n.background then 0 else n.eff
  | none => 0

/-- Among candidate context numbers with priorities, the highest, the first going upward from the one after `last`. -/
def roundRobin (last : Nat) (cands : List (Nat × Nat)) : Option Nat :=
  let best := cands.foldl (fun m p => Nat.max m p.2) 0
  ([last + 1, last + 2, last + 3, last + 4].map (· % 4)).find? fun k => cands.any fun p => p.1 = k && p.2 = best

/-- Contexts of a tile: (k, context). -/
def State.tileCtxs (s : State) (tile : Nat) : List (Nat × Ctx) :=
  (s.ctxs.filter fun p => keyTile p.1 = tile).map fun p => (p.1 % 4, p.2)

/-! ## Holding issue -/

/-- The context leaves RUNNING or TRAP and gives up issue. -/
def State.leaveIssue (s : State) (key : Nat) : State :=
  s.mapTile (keyTile key) fun t => if t.holder = some (key % 4) then { t with holder := none } else t

/-- A blocking wait (R48): BLOCKED, and issue is given up. -/
def State.block (s : State) (key cause : Nat) : State :=
  ((s.beginStall key cause).mapCtx key fun c =>
    { c with status := .blocked, blockedAt := c.blockedAt.or (some s.clock) }).leaveIssue key

/-- Any other stall holds issue (R24). -/
def State.hold (s : State) (key cause : Nat) : State := s.beginStall key cause

/-- Stall causes that are blocking waits (R48; 15 R309). -/
def blocking (cause : Nat) : Bool := cause = 1 || cause = 2 || cause = 3 || cause = 5 || cause = 6 || cause = 7

def State.stallOn (s : State) (key cause : Nat) : State := if blocking cause then s.block key cause else s.hold key cause

/-- The wait is satisfied: BLOCKED becomes READY (R47; log entry 8). -/
def State.wake (s : State) (key : Nat) : State :=
  s.mapCtx key fun c => if c.status = .blocked then { c with status := .ready } else c

/-- The selector gives issue to a READY context when none holds it (R49). -/
def State.select (s : State) (tile : Nat) : State :=
  let t := s.tile tile
  if t.holder.isSome then s
  else
    match roundRobin t.last (((s.tileCtxs tile).filter fun p => p.2.status = .ready).map fun p => (p.1, s.prio p.2)) with
    | none => s
    | some k =>
      let key := tile * 4 + k
      let s := s.mapCtx key fun c => { c with status := if c.tm then .trap else .running }
      let s := if t.last = k then s else s.trace key (pktSwitch k t.last)
      s.mapTile tile fun t => { t with holder := some k, last := k }

/-! ## The lease -/

/-- Contexts of a tile that wait for the lease. -/
def State.leaseWaiters (s : State) (tile : Nat) : List (Nat × Nat) :=
  ((s.tileCtxs tile).filter fun p => p.2.leaseWait.isSome).map fun p => (p.1, s.prio p.2)

/-- Give a free lease to the waiting context of highest priority (R62). -/
def State.leaseGrant (s : State) (tile : Nat) : State :=
  let t := s.tile tile
  if t.lease.isSome then s
  else
    match roundRobin t.leaseLast (s.leaseWaiters tile) with
    | none => s
    | some k =>
      let key := tile * 4 + k
      let s := s.mapTile tile fun t =>
        { t with lease := some k, leaseLast := k, leaseCount := 0, leaseAt := ((s.ctx? key).map (·.lcc)).getD 0 }
      ((s.mapCtx key fun c => { c with leaseWait := none }).wake key).trace key (pktLease k true)

/-- Release the lease, then grant it (R62). -/
def State.leaseRelease (s : State) (tile : Nat) : State :=
  match (s.tile tile).lease with
  | none => s
  | some k =>
    ((s.trace (tile * 4 + k) (pktLease k false)).mapTile tile fun t => { t with lease := none, leaseCount := 0 }).leaseGrant tile

/-- The context gives the lease up if it holds it (exit, stop, new binding, MREL). -/
def State.leaseDrop (s : State) (key : Nat) : State :=
  if (s.tile (keyTile key)).lease = some (key % 4) then s.leaseRelease (keyTile key) else s

/-- Whether the context may issue a matrix command now (R62). -/
def State.leaseReady (s : State) (key : Nat) (c : Ctx) : Bool :=
  let t := s.tile (keyTile key)
  match t.lease with
  | none => true
  | some k =>
    k = key % 4 && ((t.leaseCount < 64 && lcSub c.lcc t.leaseAt < 512) || (s.leaseWaiters (keyTile key)).all (·.1 = key % 4))

/-- Count a matrix command under the lease (R62): granted when free, restarted when the limits are met and none waits. -/
def State.leaseCount (s : State) (key : Nat) : State :=
  let tile := keyTile key
  let t := s.tile tile
  let lcc := ((s.ctx? key).map (·.lcc)).getD 0
  match t.lease with
  | none =>
    (s.setTile tile { t with lease := some (key % 4), leaseLast := key % 4, leaseCount := 1, leaseAt := lcc }).trace key
      (pktLease (key % 4) true)
  | some _ =>
    if t.leaseCount < 64 ∧ lcSub lcc t.leaseAt < 512 then s.setTile tile { t with leaseCount := t.leaseCount + 1 }
    else s.setTile tile { t with leaseCount := 1, leaseAt := lcc }

/-- The context waits for the lease; a holder past its limits releases it first (R62). -/
def State.leaseAwait (s : State) (key : Nat) (command : Bool) : State :=
  let s := (s.mapCtx key fun c => { c with leaseWait := some command }).stallOn key 5
  if (s.tile (keyTile key)).lease = some (key % 4) then s.leaseRelease (keyTile key) else s.leaseGrant (keyTile key)

end Sys2Proof.Machine
end

