-- ==== Sys2Proof/Machine/Blocks.lean ====
section
/-! DEFINITION. Structures that the dispatcher reads by physical address: region control blocks and their chains (03 R54,
R55), launch packets (03 R58, R59; 02 R32, R37), staged output lists (04 R83), launch entries (04 R72). -/

namespace Sys2Proof.Machine

/-- Outcome of reading a structure. -/
inductive Parsed (α : Type) where
  | ok (a : α)
  | malformed
  | poison
  deriving DecidableEq, Repr

def Parsed.bind {α β : Type} (p : Parsed α) (f : α → Parsed β) : Parsed β :=
  match p with
  | .ok a => f a
  | .malformed => .malformed
  | .poison => .poison

def Parsed.need {α : Type} (b : Bool) (p : Parsed α) : Parsed α := if b then p else .malformed

/-- A structure of n bytes at an aligned address inside the map (08 R425); poison is met before its contents. -/
def State.structAt {α : Type} (s : State) (pa align n : Nat) (f : (Nat → Word) → Parsed α) : Parsed α :=
  if pa % align ≠ 0 ∨ !runInMap pa n then .malformed
  else if s.poisoned pa n then .poison
  else f fun i => s.read64 (pa + 8 * i)

/-! ## Region control blocks -/

/-- One block as read (R54). `vals` holds the inheritable fields i = 0 to 10. -/
structure RawBlock where
  addr    : Nat
  kind    : Nat
  tenant  : Nat
  ovr     : Nat
  parent  : Nat
  vals    : List Nat
  stagedn : Nat
  predn   : Nat
  succn   : Nat
  succ    : Nat
  launch  : Nat
  deriving DecidableEq, Repr

def RawBlock.sets (b : RawBlock) (i : Nat) : Bool := b.ovr / 2 ^ i % 2 = 1
def RawBlock.val (b : RawBlock) (i : Nat) : Nat := b.vals.getD i 0

/-- Read one block. TRAPV is a bundle's address, and its bits [5:0], which R54 gives as zero, make the block malformed where they are not: R55
lists no such case (DESIGN CHOICE, log entry 57). The fields of node blocks only are reserved in the others (DEDUCED, log entry 9). -/
def State.block? (s : State) (pa : Nat) : Parsed RawBlock :=
  s.structAt pa 128 128 fun w =>
    let kind := field (w 0) 63 62
    let b : RawBlock := {
      addr := pa, kind := kind, tenant := field (w 0) 47 32, ovr := field (w 0) 26 16, parent := field (w 1) 51 0,
      vals := [field (w 2) 63 60, field (w 2) 59 56, field (w 2) 55 40, field (w 2) 31 0, field (w 3) 63 55, field (w 3) 54 43,
        field (w 3) 31 0, field (w 4) 39 0, field (w 5) 31 0, field (w 6) 55 0, field (w 7) 51 0],
      stagedn := field (w 8) 63 48, predn := field (w 8) 47 32, succn := field (w 8) 31 0, succ := field (w 9) 51 0,
      launch := field (w 10) 51 0 }
    let reserved := field (w 0) 61 48 = 0 && field (w 0) 31 27 = 0 && field (w 0) 15 0 = 0 && field (w 1) 63 52 = 0
      && field (w 2) 39 32 = 0 && field (w 3) 42 32 = 0 && field (w 4) 63 40 = 0 && field (w 5) 63 32 = 0
      && field (w 6) 63 56 = 0 && field (w 6) 5 0 = 0 && field (w 7) 63 52 = 0
      && ([11, 12, 13, 14, 15].all fun i => w i = 0)
      && (if kind = 1 then true else b.tenant = 0)
      && (if kind = 3 then field (w 9) 63 52 = 0 && field (w 10) 63 52 = 0 else w 8 = 0 && w 9 = 0 && w 10 = 0)
    let shape := (if kind = 1 then b.parent = 0 && b.ovr = 0x7FF else b.parent != 0)
      && (!b.sets 4 || b.val 4 ≤ 256) && (!b.sets 5 || b.val 5 ≤ 2048)
    Parsed.need (kind != 0 && reserved && shape) (.ok b)

/-- Blocks from one up to its tenant, at most 256 (R55). -/
def State.chainFrom (s : State) : Nat → Nat → Bool → Parsed (List RawBlock)
  | 0, _, _ => .malformed
  | f + 1, pa, first =>
    (s.block? pa).bind fun b =>
      if b.kind = 3 ∧ !first then .malformed
      else if b.kind = 1 then .ok [b]
      else (s.chainFrom f b.parent false).bind fun rest => .ok (b :: rest)

/-- A field resolved along a chain: the first block that sets it (R54). -/
def resolve (chain : List RawBlock) (i : Nat) : Nat :=
  match chain.find? fun b => b.sets i with
  | some b => b.val i
  | none => 0

/-- Every suffix of the chain resolves PCAP at least PRIO and a nonzero PDL (R55). -/
def chainOk : List RawBlock → Bool
  | [] => true
  | b :: rest => resolve (b :: rest) 0 ≤ resolve (b :: rest) 1 && resolve (b :: rest) 3 != 0 && chainOk rest

/-- The chain of a block, well formed (R55). -/
def State.chain (s : State) (pa : Nat) : Parsed (List RawBlock) :=
  (s.chainFrom 256 pa true).bind fun c => Parsed.need (chainOk c) (.ok c)

/-- The tenant at the root (R57). -/
def chainTenant (c : List RawBlock) : Nat := (c.getLast?.map (·.tenant)).getD 0

/-- The budgets that each block sets (R56). -/
def budgets (c : List RawBlock) : List Block :=
  c.map fun b =>
    let g (i : Nat) : Option Nat := if b.sets i then some (b.val i) else none
    ⟨b.addr, g 4, g 5, g 6, g 7, g 8⟩

/-! ## Launch packets -/

/-- Directed links of a route: along x, then along y (02 R37). -/
def routeX (y : Nat) (fx tx : Nat) : List (Nat × Nat × Nat × Nat) :=
  if fx ≤ tx then (List.range (tx - fx)).map fun i => (fx + i, y, fx + i + 1, y)
  else (List.range (fx - tx)).map fun i => (fx - i, y, fx - i - 1, y)

def routeY (x : Nat) (fy ty : Nat) : List (Nat × Nat × Nat × Nat) :=
  if fy ≤ ty then (List.range (ty - fy)).map fun i => (x, fy + i, x, fy + i + 1)
  else (List.range (fy - ty)).map fun i => (x, fy - i, x, fy - i - 1)

def Chan.route (c : Chan) : List (Nat × Nat × Nat × Nat) := routeX c.sdy c.sdx c.rdx ++ routeY c.rdx c.sdy c.rdy

/-- Latency in lc (02 R37). -/
def Chan.latency (c : Chan) : Nat :=
  4 + 2 * ((Nat.max c.sdx c.rdx - Nat.min c.sdx c.rdx) + (Nat.max c.sdy c.rdy - Nat.min c.sdy c.rdy))

/-- Two channels clash: one port or head named twice, or a wheel slot of a common link owned twice (R37, R59). -/
def Chan.clash (a b : Chan) : Bool :=
  (a.sdx = b.sdx && a.sdy = b.sdy && a.sport = b.sport) || (a.rdx = b.rdx && a.rdy = b.rdy && a.rhead = b.rhead)
    || (a.slots &&& b.slots != 0 && a.route.any fun l => b.route.contains l)

def pairwiseOk {α : Type} (bad : α → α → Bool) : List α → Bool
  | [] => true
  | a :: rest => (rest.all fun b => !bad a b) && pairwiseOk bad rest

/-- A launch packet with its channel entries (R58), checked under R59. -/
def State.packet (s : State) (pa : Nat) : Parsed Packet :=
  s.structAt pa 128 128 fun w =>
    let nchan := field (w 3) 9 0
    let g := w 2
    let lat : BitVec 128 := (w 5) ++ (w 4)
    let head := field (w 0) 63 56 = 0 && field (w 0) 5 0 = 0 && field (w 1) 53 24 = 0 && field (w 1) 56 54 ≤ 6
      && field (w 1) 23 0 != 0 && field g 63 52 ≤ 2048 && field g 51 46 ≤ 48 && field g 45 37 ≤ 256 && field g 36 28 ≤ 256
      && field g 27 22 ≤ 32 && field g 21 18 ≤ 8 && field g 17 14 ≤ 8 && field g 13 13 = 0 && field g 12 4 ≤ 256
      && field g 3 0 = 0 && field (w 3) 63 54 ≤ 512 && field (w 3) 53 10 = 0 && nchan ≤ 512 && w 14 = 0 && w 15 = 0
      && ((List.range 8).all fun k => field lat (16 * k + 15) (16 * k + 14) = 0 && 8 ≤ field lat (16 * k + 13) (16 * k))
    Parsed.need (head && runInMap pa (128 + 16 * nchan))
      (if s.poisoned pa (128 + 16 * nchan) then .poison
       else
        let ents := (List.range nchan).map fun i => (s.read64 (pa + 128 + 16 * i), s.read64 (pa + 136 + 16 * i))
        let p : Packet := {
          entry := canonical56 (field (w 0) 55 0), w := field (w 1) 63 61 + 1, h := field (w 1) 60 58 + 1,
          pair := bit (w 1) 57, plevel := field (w 1) 56 54, grid := field (w 1) 23 0, rows := field g 63 52,
          banks := field g 51 46, handles := field g 45 37, tns := field g 36 28, tokens := field g 27 22,
          sends := field g 21 18, recvs := field g 17 14, spill := field g 12 4, lining := field (w 3) 63 54, lat := lat,
          args := (List.range 8).map fun i => w (6 + i),
          chans := ents.map fun e => ⟨field e.1 17 15, field e.1 14 12, field e.1 11 9, field e.1 8 6, field e.1 5 3,
            field e.1 2 0, e.2⟩ }
        Parsed.need ((ents.all fun e => field e.1 63 18 = 0)
          && (p.chans.all fun c => c.sdx < p.w && c.sdy < p.h && c.rdx < p.w && c.rdy < p.h && c.sport < p.sends
              && c.rhead < p.recvs && c.slots != 0)
          && pairwiseOk Chan.clash p.chans) (.ok p))

/-- The runs of memory that the chain of a block takes up. -/
def State.chainRuns (s : State) (pa : Nat) : List (Nat × Nat) :=
  match s.chain pa with
  | .ok c => c.map fun b => (b.addr, 128)
  | _ => if runInMap pa 128 then [(pa, 128)] else []

/-- What the fetch of a node block reads: its chain, its packet, its successor list and its staged list (04 R73). -/
def State.nodeRuns (s : State) (pa : Nat) : List (Nat × Nat) :=
  s.chainRuns pa ++ match s.block? pa, s.chain pa with
    | .ok b, .ok c =>
      let chans := match s.packet b.launch with
        | .ok p => p.chans.length
        | _ => 0
      [(b.launch, 128 + 16 * chans), (b.succ, 8 * b.succn), (resolve c 10, 16 * b.stagedn)].filter fun r => runInMap r.1 r.2
    | _, _ => []

/-! ## Staged output lists (04 R83) -/

/-- Two ranges overlap. -/
def Staged.meets (a b : Staged) : Bool :=
  decide (a.first < b.first + (b.npages * 0x8000 : Nat)) && decide (b.first < a.first + (a.npages * 0x8000 : Nat))

/-- The walk to a page of a staged range, in the live tree. -/
def State.stagedWalk (s : State) (tenant : Nat) (va : Int) : Walk :=
  walkTree s.mem (fun a => s.poisoned a 8) (s.tenants.find tenant) (va56 va)

/-- A page of a staged range translates as a write at tenant system level, by a 32 KiB leaf that is PRESENT (R83). A table entry that reads
poison makes the list malformed too: R83 names no other outcome, and R280 speaks of a node that runs (DESIGN CHOICE, log entry 57). -/
def State.stagedPageOk (s : State) (tenant : Nat) (va : Int) : Bool :=
  vaValid va 0x8000
    && match s.stagedWalk tenant va with
      | .leaf e big => !big && (leafCheck e true false .store).isNone && pteRes e = 1
      | _ => false

/-- The addresses of a range's pages. -/
def Staged.pages (r : Staged) : List Int := (List.range r.npages).map fun i => r.first + (i * 0x8000 : Nat)

/-- The frames whose walk fails at order 4 in the pages of a staged list, which firmware logs (08 R180). -/
def State.stagedOwners (s : State) (tenant : Nat) (l : List Staged) : List Nat :=
  (l.flatMap Staged.pages).filterMap fun va => match s.stagedWalk tenant va with
    | .fault f pa => if f = faultOwner then some pa else none
    | _ => none

/-- The ranges that a list of words describes. -/
def stagedRanges (ws : List (Word × Word)) : List Staged :=
  ws.map fun e => ⟨field e.1 55 15 * 0x8000, field e.2 63 40, field e.2 36 0 * 0x8000⟩

/-- The words of a staged output list. -/
def State.stagedWords (s : State) (pa n : Nat) : List (Word × Word) :=
  (List.range n).map fun i => (s.read64 (pa + 16 * i), s.read64 (pa + 16 * i + 8))

/-- The staged ranges of a node, checked once at fetch (R83, R73). -/
def State.stagedList (s : State) (tenant pa n : Nat) : Parsed (List Staged) :=
  if n = 0 then .ok []
  else if !runInMap pa (16 * n) then .malformed
  else if s.poisoned pa (16 * n) then .malformed
  else
    let ws := s.stagedWords pa n
    let l := stagedRanges ws
    let ranges := ((s.tenants.find tenant).map (·.ranges)).getD []
    let ok := (ws.all fun e => field e.1 63 56 = 0 && field e.1 14 0 = 0 && field e.2 39 37 = 0)
      && (l.all fun r => 0 < r.npages && inRanges ranges r.sframe (r.npages * 0x8000)
          && (inHbm r.sframe && inHbm (r.sframe + r.npages * 0x8000 - 1)
              || inCap r.sframe && inCap (r.sframe + r.npages * 0x8000 - 1))
          && r.pages.all (s.stagedPageOk tenant))
      && pairwiseOk Staged.meets l
    Parsed.need ok (.ok l)

/-! ## Launch entries (04 R72) -/

structure Entry where
  fence  : Bool
  node   : Nat
  cookie : Word
  crec   : Nat
  irq    : Bool
  deriving DecidableEq, Repr

/-- The fields of an entry's eight words; none where it is malformed. The address bits that R72 reserves, of a NODE that is not 128-byte
aligned or a CREC that is not 64-byte aligned, make the entry malformed and not its node block (DESIGN CHOICE, log entry 57). -/
def parseEntry (w : Nat → Word) : Option Entry :=
  let kind := field (w 0) 63 60
  let tail := field (w 0) 59 52 = 0 && field (w 2) 63 52 = 0 && field (w 3) 63 1 = 0 && ([4, 5, 6, 7].all fun i => w i = 0)
  if kind = 1 ∧ tail ∧ field (w 0) 6 0 = 0 ∧ field (w 2) 5 0 = 0 then
    some ⟨false, field (w 0) 51 0, w 1, field (w 2) 51 0, bit (w 3) 0⟩
  else if kind = 2 ∧ tail ∧ field (w 0) 51 0 = 0 ∧ field (w 2) 51 0 = 0 then some ⟨true, 0, w 1, 0, bit (w 3) 0⟩
  else none

end Sys2Proof.Machine
end

