-- ==== Sys2Proof/Machine/Node.lean ====
section
/-! DEFINITION. Node records (04 R74 to R76), completion and what it passes on (R86), tear-down and the failures of R87,
queue freezing (03 R57), shoot-down (08 R184), and what a group leaves when it is freed (03 R60; 08 R174; 11 R230, R246). -/

namespace Sys2Proof.Machine

/-! ## Node records -/

def stNew : Nat := 0
def stWaiting : Nat := 1
def stReady : Nat := 2
def stRunning : Nat := 3
def stDone : Nat := 4
def stCancelled : Nat := 5
def stKilled : Nat := 6

/-- Error token kinds (R75). -/
def tokMalformed : Nat := 1
def tokFault : Nat := 2
def tokHang : Nat := 3
def tokPoison : Nat := 4
def tokSilent : Nat := 5
def tokPair : Nat := 6
def tokFlushed : Nat := 7
def tokTeardown : Nat := 8
def tokQfull : Nat := 9
def tokPerm : Nat := 10
def tokBudget : Nat := 11

/-- The TOKEN word (R74). -/
def tokenWord (kind origin : Nat) : Word := BitVec.ofNat 64 (kind * 2 ^ 56 + origin % 2 ^ 52)

def State.recState (s : State) (rec : Nat) : Nat := field (s.read64 rec) 63 60
def State.recArrived (s : State) (rec : Nat) : Nat := field (s.read64 rec) 47 32
def State.recRetry (s : State) (rec : Nat) : Nat := field (s.read64 rec) 31 24
def State.recIrrev (s : State) (rec : Nat) : Bool := bit (s.read64 rec) 59
def State.recToken (s : State) (rec : Nat) : Word := s.read64 (rec + 0x10)
def State.recReady (s : State) (rec : Nat) : Nat := (s.read64 (rec + 0x20)).toNat

/-- Word 0 of a record (R74). Bits that R74 reserves are read past and written as zero: a record is a structure in memory, for which R4
leaves the error to the home chapter, and the home chapter names none (DESIGN CHOICE, log entry 57). -/
def recWord0 (st : Nat) (irrev : Bool) (arrived retry : Nat) : Word :=
  BitVec.ofNat 64 (st * 2 ^ 60 + (if irrev then 2 ^ 59 else 0) + arrived * 2 ^ 32 + retry * 2 ^ 24)

def State.setRec0 (s : State) (rec st : Nat) (irrev : Bool) (arrived retry : Nat) : State :=
  (s.write64 rec (recWord0 st irrev (arrived % 65536) (retry % 256))).meet rec 8

/-- Change STATE alone. -/
def State.setRecState (s : State) (rec st : Nat) : State :=
  s.setRec0 rec st (s.recIrrev rec) (s.recArrived rec) (s.recRetry rec)

/-- Set IRREV (R85). -/
def State.setIrrev (s : State) (rec : Nat) : State :=
  s.setRec0 rec (s.recState rec) true (s.recArrived rec) (s.recRetry rec)

/-- A record written whole, which clears its poison (R86; 14 R280). -/
def State.recKilledPoison (s : State) (rec : Nat) : State :=
  let s := { s with poison := s.poison.filter (· != lineOf rec), mem := writeMem s.mem rec (List.replicate 64 0) }
  let s := s.write64 rec (recWord0 stKilled false 0 0)
  let s := s.write64 (rec + 0x10) (tokenWord tokPoison rec)
  (s.write64 (rec + 0x28) (BitVec.ofNat 64 s.now)).log (.poisonClear rec)

/-! ## Priority (R77) -/

def State.effOf (s : State) (n : Node) (tready : Nat) : Nat := Nat.min n.pcap (n.prio + (s.now - tready) / 100000)

/-! ## Signals (15 R297) -/

/-- Functions bound to a tenant. -/
def State.tenantFns (s : State) (t : Nat) : List Nat := (s.fns.filter fun p => p.2.bind = .tenant t).map (·.1)

/-- Set the CPEND bit of a queue in its owner's functions; a bit going from 0 to 1 raises vector 0. -/
def State.signalQueue (s : State) (q : Nat) : State :=
  (s.tenantFns (s.queue q).owner).foldl
    (fun s f =>
      let was := bit (s.fn f).cpend q
      let s := s.mapFn f fun v => { v with cpend := v.cpend ||| BitVec.ofNat 16384 (2 ^ q) }
      if was then s else s.raiseIrq f 0) s

/-! ## Shoot-down (08 R184) -/

/-- Advance the generations and drop the TLB entries that match. -/
def State.shootDown (s : State) (matched : TlbEnt → Bool) : State :=
  let s := [0, 1, 2, 3].foldl (fun s d => s.mapDie d fun v => { v with gen := v.gen + 1 }) s
  { s with tiles := s.tiles.map fun p => (p.1, { p.2 with tlb := p.2.tlb.filter fun e => !matched e }) }

/-! ## Lining bindings (11 R230, R231, R246) -/

def State.lent (s : State) (d i : Nat) : LEnt := (s.die d).lining.read .empty i
def State.setLent (s : State) (d i : Nat) (e : LEnt) : State :=
  s.mapDie d fun v => { v with lining := v.lining.write .empty i e }

/-- Held or retained: an entry that a slot holds, or that is not EMPTY. -/
def LEnt.claimed (e : LEnt) : Bool := e.st != .empty || !e.hold.isEmpty

/-- Held and retained entries of a tenant on all dies: (die, index, entry). -/
def State.tenantEntries (s : State) (t : Nat) : List (Nat × Nat × LEnt) :=
  [0, 1, 2, 3].flatMap fun d => ((s.die d).lining.filter fun p => p.2.claimed && p.2.tenant = t).map fun p => (d, p.1, p.2)

/-- The least recently used of some entries. -/
def oldest (l : List (Nat × Nat × LEnt)) : Option (Nat × Nat × LEnt) :=
  l.foldl (fun m e => match m with
    | none => some e
    | some b => if e.2.2.used < b.2.2.used then some e else m) none

/-- Retained entries leave, least recently used first, until the tenant's BLIN holds (R231). -/
def State.trimLining (s : State) (t blin : Nat) : Nat → State
  | 0 => s
  | f + 1 =>
    let es := s.tenantEntries t
    if es.length ≤ blin then s
    else
      match oldest (es.filter fun e => e.2.2.hold.isEmpty) with
      | none => s
      | some e => (s.setLent e.1 e.2.1 .empty).trimLining t blin f

/-- A slot is dropped: the entry keeps its content, retained when no slot holds it (R230, R231). -/
def State.dropSlot (s : State) (g slot : Nat) : State :=
  match s.group? g with
  | none => s
  | some grp =>
    match grp.slots.find slot with
    | none => s
    | some i =>
      let s := s.mapGroup g fun v => { v with slots := v.slots.erase slot }
      let e := s.lent grp.die i
      let e' := { e with hold := e.hold.filter (· != (g, slot)) }
      let s := s.setLent grp.die i (if e'.claimed then e' else .empty)
      match (s.node? grp.node).bind fun n => n.chain.getLast? with
      | some root => s.trimLining e.tenant (root.blin.getD 2048) 2048
      | none => s

def State.dropSlots (s : State) (g : Nat) : State :=
  match s.group? g with
  | none => s
  | some grp => grp.slots.foldl (fun s p => s.dropSlot g p.1) s

/-- An entry becomes EMPTY, and the slots that held it are unbound (11 R243, R248; 14 R279). -/
def State.clearEntry (s : State) (d i : Nat) : State :=
  ((s.lent d i).hold.foldl (fun s h => s.mapGroup h.1 fun g => { g with slots := g.slots.erase h.2 }) s).setLent d i .empty

/-- The group whose die holds a pair's entries: the leader's (R247). -/
def State.liningGroup (s : State) (g : Nat) : Nat :=
  match s.group? g with
  | some grp => if grp.leader then g else grp.twin.getD g
  | none => g

/-- The node has updated an entry (R246). -/
def State.noteEntry (s : State) (node d i : Nat) : State :=
  let k := (d, i, (s.lent d i).layer)
  s.mapNode node fun n => if n.lining.contains k then n else { n with lining := n.lining ++ [k] }

/-- Every entry of a tenant on a die becomes EMPTY and its slots unbound (R243, R248). -/
def State.clearLining (s : State) (d tenant : Nat) : State :=
  let mine := (s.die d).lining.filter fun p => p.2.claimed && p.2.tenant = tenant
  mine.foldl (fun s p => s.clearEntry d p.1) s

/-- The effect of an LNCTL (11 R243). -/
def State.lnctlEffect (s : State) (c : Ctx) (fn lent : Nat) (e40 : Word) : State :=
  let g := s.liningGroup c.grp
  let d := ((s.group? g).map (·.die)).getD 0
  if fn = 1 then s.clearLining d c.tenant
  else
    match (s.group? g).bind fun v => v.slots.find lent with
    | none => s
    | some i =>
      let e := s.lent d i
      let e := if fn = 0 then { e with st := .stale } else { e with n := field e40 47 32, thr := field e40 15 0 }
      (s.setLent d i e).noteEntry c.node d i

/-! ## Freeing and tear-down -/

/-- Forget a group's contexts: issue, lease, effects still held, messages, snapshots (R87 "Tear-down"; R60). -/
def State.freeContexts (s : State) (g : Nat) : State :=
  let keys := s.groupKeys g
  let s := keys.foldl (fun s k => s.leaveIssue k) s
  let s := { s with ctxs := s.ctxs.filter fun p => p.2.grp != g }
  let s := { s with
    tiles := s.tiles.map fun p => if keys.any fun k => keyTile k = p.1 && p.2.lease = some (k % 4)
      then (p.1, { p.2 with lease := none, leaseCount := 0 }) else p
    flights := s.flights.filter fun f => f.grp != g
    undo := s.undo.filter fun u => !keys.contains u.key
    cur := match s.cur with | some k => if keys.contains k then none else some k | none => none }
  keys.foldl (fun s k => s.leaseGrant (keyTile k)) s

/-! ## What outlives a group (03 R60; R87) -/

/-- The dirty bytes of a handle as writes at their backing addresses (08 R172). -/
def Handle.dirtyPieces (h : Handle) : List WPiece :=
  if h.desc.bmode = 2 then h.dirty.map fun p => ⟨vaOf h.desc.back + (p.1 : Nat), none, [h.bytes.read 0 p.1]⟩ else []

/-- An address lies in a staged range of a node. -/
def stagedVa (l : List Staged) (va : Int) : Bool := l.any fun r => r.holds va

/-- Parts of writes that fall outside some staged ranges. -/
def unstaged (l : List Staged) (ps : List WPiece) : List WPiece :=
  (ps.flatMap WPiece.cut).filter fun p => !ownerHere p.owner || !stagedVa l p.va

/-- A released effect as it stands without its context, less what it would write to some staged ranges: bytes of a handle go with the effect;
engine commands end with the context's engines. -/
def AccOp.standing (c : Option Ctx) (l : List Staged) : AccOp → Option AccOp
  | .store ps tq ver => some (.store (unstaged l ps) tq (if stagedVa l (ver : Nat) then 0 else ver))
  | .frame ps code detail => some (.frame (unstaged l ps) code detail)
  | .bump ver _ => if stagedVa l (ver : Nat) then none else some (.bump ver none)
  | .winStore h t bytes alw fl => some (.winStore h t bytes alw fl)
  | .writeBack h _ => c.map fun c => .store (unstaged l (c.handle h).dirtyPieces) false 0
  | .atom op ty va x y _ => if stagedVa l (vaOf va) then none else some (.atom op ty va x y none)
  | .red op ty va x n i => if stagedVa l (vaOf va) then none else some (.red op ty va x n i)
  | .arrive va => if stagedVa l (vaOf va) then none else some (.arrive va)
  | .count va n p => if stagedVa l (vaOf va) then none else some (.count va n p)
  | .pagereq va n cookie rec vec => if stagedVa l (vaOf rec) then none else some (.pagereq va n cookie rec vec)
  | .launch q e => some (.launch q e)
  | .signal v => some (.signal v)
  | .shoot k a b => some (.shoot k a b)
  | .shmap m va => some (.shmap m va)
  | .load .. | .winLoad .. | .fill .. | .bindHandle .. | .bindTensor .. | .copy .. | .cpfill .. | .mwld .. | .mdlt .. | .lnctl .. => none

/-- A read on its way, which nothing holds (02 R36). -/
def AccOp.isRead : AccOp → Bool
  | .load .. | .winLoad .. | .fill .. | .bindHandle .. | .bindTensor .. => true
  | _ => false

/-- An access of a pair's follower: the leader's copy performs for both (03 R66). -/
def State.follows (s : State) (a : Acc) : Bool :=
  match s.group? a.grp with
  | some g => g.twin.isSome && !g.leader
  | none => false

/-- What some groups have outstanding when they go: effects not yet released are discarded, the others stand as they can, of a pair the
leader's copies alone. A node that is torn down has no staged pages any more, so that nothing of it reaches a live frame of theirs. The reads
of a node that goes on are on their way as before. -/
def State.outlive (s : State) (mine : Acc → Bool) (keepNode : Bool) (l : List Staged) : State :=
  { s with accs := s.accs.filterMap fun a =>
    if !mine a then some a
    else if a.performed || s.follows a then none
    else if keepNode && a.op.isRead then some { a with give := none }
    else if !a.released then none
    else (a.op.standing (s.accCtx a) l).map fun op => { a with op := op, give := none, who := if keepNode then a.who else { a.who with node := none } } }

/-- A group goes: slots dropped, exports removed, contexts FREE (03 R60; 08 R174). -/
def State.freeGroup (s : State) (g : Nat) : State :=
  let s := (s.dropSlots g).freeContexts g
  let s := [0, 1, 2, 3].foldl (fun s d => s.mapDie d fun v => { v with exports := v.exports.filter fun e => e.grp != g }) s
  { s with groups := s.groups.erase g, views := s.views.filter fun v => v.grp != g }

/-- The released LNCTLs of a node that have still waited for their turn take effect (R87). -/
def State.standLnctls (s : State) (rec : Nat) : State :=
  (s.accs.filter fun a => a.who.node = some rec && a.released && !s.follows a).foldl (fun s a => match a.op, s.accCtx a with
    | .lnctl fn lent e40, some c => s.lnctlEffect c fn lent e40
    | _, _ => s) s

/-- Tear-down of a node: contexts stop, effects still held and staged writes are discarded, allotments are freed, and every Lining entry
that the node updated becomes STALE (R87; 11 R246). -/
def State.tearDown (s : State) (rec : Nat) : State :=
  let gs := s.nodeGroups rec
  let s := (s.standLnctls rec).outlive (fun a => gs.contains a.grp || a.who.node = some rec) false (((s.node? rec).map (·.staged)).getD [])
  let s := match s.node? rec with
    | none => s
    | some n => n.lining.foldl (fun s p =>
        let e := s.lent p.1 p.2.1
        if e.st = .empty || e.tenant != n.tenant || e.layer != p.2.2 then s else s.setLent p.1 p.2.1 { e with st := .stale }) s
  gs.foldl State.freeGroup s

/-! ## Completion (R76, R86) -/

/-- A successor list entry with a reserved bit set (R86). -/
def succMalformed (e : Word) : Bool := field e 63 52 != 0 || field e 5 0 != 0

/-- Successor records: bits [51:6] of each entry. An entry that has become malformed since the fetch names no record in the map, so that its
update is not made and is logged (08 R425). A poisoned list reads as its bytes stand: R280 names no outcome for that read (DESIGN CHOICE, log
entry 57). -/
def State.succAt (s : State) (pa n : Nat) : List Nat :=
  if n = 0 ∨ !runInMap pa (8 * n) then []
  else (List.range n).map fun k =>
    let e := s.read64 (pa + 8 * k)
    if succMalformed e then 2 ^ 64 + e.toNat else field e 51 6 * 64

/-- A successor list is well formed at the fetch (08 R425; 00 R4). -/
def State.succOk (s : State) (pa n : Nat) : Bool :=
  n = 0 || (runInMap pa (8 * n) && (List.range n).all fun k => !succMalformed (s.read64 (pa + 8 * k)))

def State.succList (s : State) (n : Node) : List Nat := s.succAt n.succ n.succn

/-- The record shows completion: TEND and STATE, and for CANCELLED and KILLED the token and its detail (R74, R86). -/
def State.finishRecord (s : State) (rec st : Nat) (tok detail : Word) : State :=
  let s := s.setRecState rec st
  let s := if st = stDone then s else (s.write64 (rec + 0x10) tok).write64 (rec + 0x18) detail
  s.write64 (rec + 0x28) (BitVec.ofNat 64 s.now)

/-- The host is signalled when the entry asked for it, and the node is pending no more (R86). -/
def State.retireNode (s : State) (rec : Nat) (n : Node) : State :=
  let s := s.write64 (rec + 0x30) (BitVec.ofNat 64 n.succn)
  let s := if n.irq then s.signalQueue n.queue else s
  { s with nodes := s.nodes.erase rec,
           tiles := s.tiles.map fun p => (p.1, { p.2 with tlb := p.2.tlb.filter fun e => e.node != some rec }) }

/-- Completions and the arrivals they cause, in order: each item is a record that a predecessor with a token has reached,
or one to complete. Each step of the list completes at most one node (R76, R86). -/
inductive Work where
  | arrive (rec : Nat) (tok : Word)
  | complete (rec st : Nat) (tok detail : Word)
  deriving DecidableEq, Repr

/-- R76's check of a WAITING record: READY, or what completes it. The record of a node that is CANCELLED by a token which it inherited takes
the token alone: DETAIL is 0, since R74 does not say that it goes with the token (DESIGN CHOICE, log entry 57). -/
def State.readiness (s : State) (rec : Nat) (n : Node) : State × List Work :=
  let a := s.recArrived rec
  let tok := s.recToken rec
  if n.predn < a then (s, [.complete rec stCancelled (tokenWord tokMalformed rec) 0])
  else if a = n.predn then
    if field tok 63 56 ≠ 0 then (s, [.complete rec stCancelled tok 0])
    else
      let s := (s.setRecState rec stReady).write64 (rec + 0x20) (BitVec.ofNat 64 s.now)
      (s.mapNode rec fun n => { n with eff := s.effOf n s.now }, [])
  else (s, [])

/-- One item of the list (R76, R86). A record that cannot be read is written whole, KILLED (R86; 14 R280). -/
def State.workOne (s : State) : Work → State × List Work
  | .complete rec st tok detail =>
    let bad := s.poisoned rec 64
    let tok := if bad then tokenWord tokPoison rec else tok
    let s' := if bad then (s.tearDown rec).recKilledPoison rec else s.finishRecord rec st tok detail
    match s.node? rec with
    | none => (s', [])
    | some n => ((s'.meet n.succ (8 * n.succn)).retireNode rec n, (s.succList n).map fun r => .arrive r (if st = stDone && !bad then 0 else tok))
  | .arrive rec tok =>
    if !runInMap rec 64 then (s.log (.successor rec), [])
    else if s.poisoned rec 64 then (s, [.complete rec stKilled (tokenWord tokPoison rec) 0])
    else
      let s := s.setRec0 rec (s.recState rec) (s.recIrrev rec) (s.recArrived rec + 1) (s.recRetry rec)
      let s := if field tok 63 56 ≠ 0 ∧ field (s.recToken rec) 63 56 = 0 then s.write64 (rec + 0x10) tok else s
      match s.node? rec with
      | none => (s, [])
      | some n => if s.recState rec = stWaiting then s.readiness rec n else (s, [])

/-- Run the list; every item is one unit of fuel. -/
def State.runWork (s : State) : Nat → List Work → State
  | 0, _ => s
  | _, [] => s
  | f + 1, w :: rest => let r := s.workOne w; r.1.runWork f (r.2 ++ rest)

/-- Fuel enough for every completion that pending nodes can cause. -/
def State.workFuel (s : State) : Nat := (s.nodes.map fun p => 2 * p.2.succn + 3).foldl (· + ·) 2

def State.work (s : State) (l : List Work) : State := s.runWork (s.workFuel + 2 * l.length) l

/-- Where the live tree keeps the leaf of a page. A walk that reaches no level-0 entry any more, through an unmapped table or a leaf of 128 MiB,
leaves the page out of the commit: R86 is silent (DESIGN CHOICE, log entry 57). -/
def State.leafAddr (s : State) (tenant va : Nat) : Option Nat := do
  let t ← s.tenants.find tenant
  let root ← t.root
  let e3 := s.read64 (root + 8 * walkIndex va 3)
  let e2 := s.read64 (pteFrame e3 + 8 * walkIndex va 2)
  let e1 := s.read64 (pteFrame e2 + 8 * walkIndex va 1)
  if pteV e3 && pteV e2 && pteV e1 && !pteLeaf e1 then some (pteFrame e1 + 8 * walkIndex va 0) else none

/-- The staged pages of a node: address and shadow frame. -/
def Node.pages (n : Node) : List (Nat × Nat) :=
  n.staged.flatMap fun r => (r.pages.zip (List.range r.npages)).map fun p => (va56 p.1, r.sframe + p.2 * 0x8000)

/-- TLB entries that map a staged page. -/
def Node.stagedEntry (n : Node) (e : TlbEnt) : Bool :=
  e.tenant = n.tenant && n.pages.any fun p => if e.big then e.page = p.1 / 0x8000000 else e.page = p.1 / 0x8000

/-- The frames of a DONE node's staged pages pass to the live tree, and their translations are shot down (R86); `State.completeStep` waits for
the accesses that used them. -/
def State.commit (s : State) (n : Node) : State :=
  let s := n.pages.foldl (fun s p => match s.leafAddr n.tenant p.1 with
    | some a => (s.write64 a (reframe (s.read64 a) p.2)).meet a 8
    | none => s) s
  if n.pages.isEmpty then s else s.shootDown n.stagedEntry

/-! ## Failures (R87; 03 R57) -/

/-- Freeze a queue with a token (R70). -/
def State.freezeQueue (s : State) (q : Nat) (tok : Word) : State :=
  let v := s.queue q
  if v.st = .active then s.setQueue q { v with st := .frozen, frz := tok } else s

/-- Address of the block that QREGION names: REGION holds bits [54:7] (04 R69). -/
def Queue.regionAddr (v : Queue) : Nat := v.region * 128

/-- The fault domain and tenant that a queue's bound block resolves (03 R57). -/
def State.queueDomain (s : State) (v : Queue) : Option (Nat × Nat) :=
  match s.chain v.regionAddr with
  | .ok c => some (chainTenant c, resolve c 2)
  | _ => none

/-- Freeze the node's queue and the queues of its fault domain (R87; 03 R57). -/
def State.freezeDomain (s : State) (n : Node) (tok : Word) : State :=
  let qs := s.queues.filter fun p => p.2.st = .active && s.queueDomain p.2 = some (n.tenant, n.fdom)
  qs.foldl (fun s p => (s.meetAll (s.chainRuns p.2.regionAddr)).freezeQueue p.1 tok) (s.freezeQueue n.queue tok)

/-- A node is killed: tear-down, the queues frozen for FAULT and HANG, record KILLED, its token to every successor (R87). -/
def State.killNode (s : State) (rec kind : Nat) (detail : Word) : State :=
  match s.node? rec with
  | none => s
  | some n =>
    let tok := tokenWord kind rec
    let s := s.tearDown rec
    let s := if kind = tokFault ∨ kind = tokHang then s.freezeDomain n tok else s
    s.work [.complete rec stKilled tok detail]

/-- An uncorrectable error is consumed by a node: re-queued while reversible with retries left, else killed (R87). -/
def State.consumeError (s : State) (rec : Nat) : State :=
  match s.node? rec with
  | none => s
  | some _ =>
    if s.recIrrev rec ∨ 3 ≤ s.recRetry rec then s.killNode rec tokPoison 0
    else
      let s := s.tearDown rec
      let s := s.setRec0 rec stReady false (s.recArrived rec) (s.recRetry rec + 1)
      s.mapNode rec fun n => { n with nextGrid := 0, lining := [], commit := none }

/-- DETAIL of a FAULT: cause code, detail, and bit 63 for a cause that arose in trap time (13 R272). -/
def faultDetail (code detail : Nat) (tm : Bool) : Word :=
  BitVec.ofNat 64 ((if tm then 2 ^ 63 else 0) + code * 2 ^ 48 + detail * 2 ^ 40)

/-- A pair is broken: the node is killed (03 R67). -/
def State.breakPair (s : State) (rec : Nat) : State := s.killNode rec tokPair 0

/-! ## Tiles at fault (01 R16; 03 R67; 14 R289, R290) -/

/-- Physical column of a logical column. -/
def Die.physical (d : Die) (x : Nat) : Nat := if x < d.retired.getD 8 then x else x + 1

/-- Unit identifier of a tile. -/
def State.unitOf (s : State) (tile : Nat) : BitVec 32 :=
  unitId kindTile (tileDie tile) ((s.die (tileDie tile)).physical (tile % 8)) (tile % 64 / 8) 0

/-- A unit is quarantined (R290). -/
def State.setQuarantine (s : State) (u : BitVec 32) : State :=
  if s.quarantine.contains u then s else { s with quarantine := s.quarantine ++ [u] }

/-- Groups with a context on some tiles. -/
def State.groupsOn (s : State) (tile : Nat → Bool) : List Nat := ((s.ctxs.filter fun p => tile (keyTile p.1)).map fun p => p.2.grp).eraseDups

/-- Pairs with a copy on some tiles are broken (03 R67). -/
def State.breakPairs (s : State) (tile : Nat → Bool) : State :=
  (s.groupsOn tile).foldl (fun s g => match s.group? g with
    | some grp => if grp.twin.isSome then s.breakPair grp.node else s
    | none => s) s

/-- A silent error: the node is killed and both tiles are quarantined, which breaks the other pairs on them (03 R67). -/
def State.silentError (s : State) (a b : Acc) : State :=
  let ua := s.unitOf (keyTile a.ctx)
  let ub := s.unitOf (keyTile b.ctx)
  match a.who.node with
  | none => s
  | some n =>
    (((s.killNode n tokSilent (ua ++ ub)).setQuarantine ua).setQuarantine ub).breakPairs fun t => t = keyTile a.ctx || t = keyTile b.ctx

end Sys2Proof.Machine
end

