-- ==== Sys2Proof/Machine/Ops.lean ====
section
/-! DEFINITION. The shared operations of every instruction: outstanding accesses and their order (09 R193 to R198),
results in flight (02 R27), taking a trap (13 R262 to R270), the return from one (R271), and how a slot instruction
issues (05 R114). -/

namespace Sys2Proof.Machine

/-! ## Order of accesses -/

/-- Still outstanding, or something that it sent is. -/
def State.outstanding (s : State) (id : Nat) : Bool := s.accs.any fun a => a.id = id || a.parent = some id

/-- Not yet performed: a posted window store that waits for its acknowledgement has performed. -/
def State.unperformed (s : State) (id : Nat) : Bool := s.accs.any fun a => a.id = id && !a.performed

/-- The context's count of lc stands still: it is not one that issues, or it waits. -/
def Ctx.stalled (c : Ctx) : Bool := c.stall.isSome || !(c.status = .running || c.status = .trap || c.status = .ready)

/-- The first addition to its identifier's version word has still to come before a store in flight (11 R232). -/
def State.awaitsBump (s : State) (uid : Nat) : Bool :=
  s.accs.any fun x => match x.op with
    | .bump _ (some u) => u = uid
    | _ => false

/-- The stores into the context's own TILE handles that the access follows have landed (09 R194). Those of a context whose count of lc stands
still cannot: they perform ahead of the access (`State.settle`; DEDUCED, log entry 18). -/
def State.storesLanded (s : State) (a : Acc) : Bool :=
  match s.accCtx a with
  | none => true
  | some c => (c.inflight ++ c.trapEntries).all fun f => !a.after.contains f.uid || (c.stalled && !s.awaitsBump f.uid)

/-- Two reductions to one word, the earlier of which waits at its Buckle for its index: what a session applies next may be the later one, so
that it does not wait for the other (09 R204 before R193 and R194; DEDUCED, log entry 64). -/
def Acc.joins (a x : Acc) : Bool :=
  x.posted && match a.op, x.op with
    | .red _ _ v _ _ _, .red _ _ w _ _ _ => v = w
    | _, _ => false

/-- The accesses that the access must follow are done. -/
def State.ordered (s : State) (a : Acc) : Bool :=
  (a.deps.all fun d => !s.unperformed d || (s.accs.any fun x => x.id = d && a.joins x)) && a.strict.all fun d => !s.outstanding d

/-- Everything that the access must follow is done. -/
def State.depsDone (s : State) (a : Acc) : Bool := s.ordered a && s.storesLanded a

def AccOp.isWinStore : AccOp → Bool
  | .winStore .. => true
  | _ => false

/-- SHMAP is a write in every class (12 R251). -/
def AccOp.isShmap : AccOp → Bool
  | .shmap .. => true
  | _ => false

/-- Accesses of a context still outstanding. -/
def State.ctxAccs (s : State) (key : Nat) (c : Ctx) : List Acc := s.accs.filter fun a => a.ctx = key && a.grp = c.grp

/-- Whether a copy may read the backing of its source in a class: such reads are in the class CLS of the handle, and one whose source is not
bound yet may read in any (16 R325). -/
def Acc.backReads (c : Ctx) (k : Nat) (a : Acc) : Bool :=
  let reads (h : Nat) : Bool := let v := c.handle h; v.st != .bound || (v.desc.level = .tile && v.desc.bmode != 0 && v.desc.cls = k)
  match a.op with
  | .copy (.hnd h _) .. => reads h
  | .copy (.tens t _) .. => t.handle.any reads
  | .copy (.tpend ..) .. => true
  | _ => false

/-- A write-back of a binding that is still PENDING may prove to be in any class (08 R172). -/
def Acc.unclassed (a : Acc) : Bool :=
  a.cls.isNone && match a.op with
    | .writeBack .. => true
    | _ => false

/-- Earlier accesses of a class that a new access of the class follows, posted window stores excepted (09 R194). -/
def State.classDeps (s : State) (key : Nat) (c : Ctx) (cls : Option Nat) : List Nat :=
  match cls with
  | none => []
  | some k => ((s.ctxAccs key c).filter fun a => (a.cls = some k && !a.op.isWinStore) || a.op.isShmap || a.unclassed || a.backReads c k).map (·.id)

/-- Whether a set of classes takes in an access: SHMAP is a write in every class (12 R251), a copy is in the class in which it reads a backing
too (16 R325), and all 16 classes take in the weight-path reads and the Lining entry accesses (R193). -/
def Acc.inClasses (c : Ctx) (m : BitVec 16) (a : Acc) : Bool :=
  (match a.cls with | some k => bit m k | none => false)
    || (m != 0 && a.unclassed) || ((List.range 16).any fun k => bit m k && a.backReads c k)
    || match a.op with
      | .shmap .. => m != 0
      | .mwld .. | .mdlt .. | .lnctl .. => m = BitVec.allOnes 16
      | _ => false

/-- Accesses that a set of classes names, window stores until acknowledged (09 R196, R208). -/
def State.maskDeps (s : State) (key : Nat) (c : Ctx) (m : BitVec 16) : List Nat :=
  ((s.ctxAccs key c).filter (Acc.inClasses c m)).map (·.id)

/-- What the fences in force put before an access of a class (09 R196). -/
def Ctx.fenceDeps (c : Ctx) (cls : Option Nat) : List Nat :=
  (c.fences.filter fun f => match cls with | some k => bit f.classes k | none => f.classes = BitVec.allOnes 16).flatMap (·.before)

/-- A core access of the class must wait for a fence (09 R196). -/
def State.fenceHolds (s : State) (c : Ctx) (cls : Option Nat) : Bool := (c.fenceDeps cls).any s.outstanding

/-- The commands whose tokens an engine command consumes (06 R140). -/
def State.tokenDeps (s : State) (c : Ctx) (a : After) : List Nat :=
  ([a.a0, a.a1, a.a2].filterMap id).filterMap fun n =>
    let t := c.token n
    if t.pending && s.outstanding t.giver then some t.giver else none

/-- Stores in flight into the context's own TILE handles. -/
def Ctx.storesInFlight (c : Ctx) : List Nat :=
  c.active.filterMap fun f => match f.act with
    | .hbytes .. | .tstore .. => some f.uid
    | _ => none

/-- Append an outstanding access of a context, with the token that it gives. -/
def State.addGiver (s : State) (key : Nat) (cls : Option Nat) (deps strict : List Nat) (give : Option (Nat × Nat)) (op : AccOp) : State :=
  match s.ctx? key with
  | none => s
  | some c =>
    let a : Acc := {
      id := s.nextId, ctx := key, grp := c.grp, cls := cls, order := c.progNo, sub := 0, who := s.whoOf key c, pc := c.pc, comb := c.comb,
      clock := s.clock, released := false, queued := none, performed := false, posted := false, deps := deps, strict := strict,
      after := c.storesInFlight, parent := none, give := give, entry := none, op := op }
    ({ s with accs := s.accs ++ [a], nextId := s.nextId + 1 }).setCtx key { c with progNo := c.progNo + 1 }

/-- Append an outstanding access of a context that gives no token. -/
def State.addAcc (s : State) (key : Nat) (cls : Option Nat) (deps strict : List Nat) (op : AccOp) : State :=
  s.addGiver key cls deps strict none op

/-- An access of a class, ordered after the earlier ones of its class and after the fences in force. -/
def State.access (s : State) (key : Nat) (cls : Nat) (op : AccOp) : State :=
  match s.ctx? key with
  | none => s
  | some c => s.addAcc key (some cls) (s.classDeps key c (some cls)) (c.fenceDeps (some cls)) op

/-- A token is given by a command: PENDING, generation up (06 R140). -/
def State.giveToken (s : State) (key tok id : Nat) : State :=
  s.mapCtx key fun c =>
    let t := c.token tok
    { c with tokens := c.tokens.write .empty tok ⟨true, t.gen + 1, id⟩ }

/-- An engine command: it gives a token and follows the tokens that it consumes (06 R140; 09 R197). The slots of a bundle issue in their order,
so that a CE command whose AFTER names the token of an MX command of its own bundle follows that command: R140 says current at its own issue,
and not which slot comes first (DESIGN CHOICE, log entry 58). A command that names one token both in GIVE and in an AFTER field captures the
earlier generation (DESIGN CHOICE, log entry 58). -/
def State.command (s : State) (key : Nat) (cls : Option Nat) (give : Nat) (after : After) (extra : List Nat) (op : AccOp) :
    State :=
  match s.ctx? key with
  | none => s
  | some c =>
    (s.addGiver key cls (s.classDeps key c cls ++ extra) (c.fenceDeps cls ++ s.tokenDeps c after)
      (some (give, (c.token give).gen + 1)) op).giveToken key give s.nextId

/-! ## Who has used a translation (08 R184) -/

/-- The TLB entry by which a read was translated. -/
def RPiece.entry (w : Who) (r : RPiece) : TlbEnt := ⟨w.tenant, if r.big then va56 r.va / 0x8000000 else va56 r.va / 0x8000, r.big, none, 0⟩

/-- Reads that an access has translated ahead of its turn: other accesses translate when they perform. -/
def AccOp.reads : AccOp → List RPiece
  | .load _ l .. | .fill _ _ _ l => l
  | _ => []

/-- The result that an access brings. -/
def AccOp.pend? : AccOp → Option Nat
  | .load p .. | .winLoad p .. | .fill p .. | .mwld _ _ _ _ p => some p
  | .atom _ _ _ _ _ p => p
  | _ => none

/-- The translation of an access stands. -/
def State.knows (s : State) (a : Acc) : Bool :=
  match a.op.pend?, s.ctx? a.ctx with
  | some p, some c => c.pend.any fun q => q.uid = p && q.known
  | _, _ => false

/-- An access whose translation stands and was made with an entry that matches. -/
def State.usesEntry (s : State) (m : TlbEnt → Bool) (a : Acc) : Bool :=
  a.op.reads.any (fun r => ownerHere r.owner && m (r.entry a.who)) && s.knows a

/-- Accesses that a shoot-down waits for: they used an entry that it drops, and their turn has come. -/
def State.users (s : State) (m : TlbEnt → Bool) : List Nat := (s.accs.filter fun a => s.usesEntry m a && s.ordered a).map (·.id)

/-- The others that used one translate again when their turn comes (R182). -/
def State.retranslate (s : State) (m : TlbEnt → Bool) : State :=
  (s.accs.filter fun a => s.usesEntry m a && !s.ordered a).foldl (fun s a =>
    s.mapSeen a.ctx fun c => { c with pend := c.pend.map fun p => if a.op.pend? = some p.uid then { p with known := false } else p }) s

/-! ## Pairs (03 R66) -/

/-- The twin's copy of a leader's access: the one at the same place in program order. -/
def State.twinAcc (s : State) (a : Acc) : Option Acc := do
  let c ← s.ctx? a.ctx
  let t ← s.twinOf c
  s.accs.find? fun x => x.ctx = t.1 && x.grp = t.2.grp && x.order = a.order && x.sub = a.sub

/-- The access and the twin's copy of it. -/
def State.copies (s : State) (a : Acc) : List Acc := a :: (s.twinAcc a).toList

/-- Whether an access can go on: a leader's waits until the follower has issued its copy (R66). -/
def State.complete (s : State) (a : Acc) : Bool :=
  match s.group? a.grp with
  | some g => g.twin.isNone || (g.leader && (s.twinAcc a).isSome)
  | none => true

/-- A change that an access makes in its context, while it is still the same group's, and in the older copies that were taken after the
access issued (14 R286). -/
def State.mapOne (s : State) (a : Acc) (f : Ctx → Ctx) : State :=
  s.mapSeen a.ctx fun c => if c.grp = a.grp && a.order < c.progNo then f c else c

/-- A change that an access makes in its context and in the twin's copy. -/
def State.mapBoth (s : State) (a : Acc) (f : Ctx → Ctx) : State := (s.copies a).foldl (fun s x => s.mapOne x f) s

/-- The token generation that an access gave is PRODUCED (06 R140). -/
def Ctx.produced (c : Ctx) (id : Nat) (g : Nat × Nat) : Ctx :=
  let t := c.token g.1
  if t.gen = g.2 && t.giver = id then { c with tokens := c.tokens.write .empty g.1 { t with pending := false } } else c

/-- An access is finished: it leaves the list and its token is produced, in both copies. -/
def State.finishAcc (s : State) (a : Acc) : State :=
  let l := s.copies a
  let s := l.foldl (fun s x => match x.give with
    | some g => s.mapOne x fun c => c.produced x.id g
    | none => s) s
  { s with accs := s.accs.filter fun x => !l.any fun y => y.id = x.id }

def State.acc? (s : State) (id : Nat) : Option Acc := s.accs.find? fun a => a.id = id

/-- A fault that the next DRAIN of a path reports (09 R198). -/
def State.drainFault (s : State) (a : Acc) (path : Option Path) (cause : Cause) : State :=
  s.mapBoth a fun c => { c with drainFaults := c.drainFaults ++ [⟨path, a.order, cause⟩] }

/-! ## Results in flight -/

/-- A result of the bundle now issuing, landing after a latency; it takes the slot's next latch when it produces one (R134). -/
def State.produce (s : State) (key : Nat) (sl : Slot) (latency : Nat) (act : Act) (latched : Bool) (mask : Mask) (value : Row)
    (flags : BitVec 5) : State :=
  match s.ctx? key with
  | none => s
  | some c =>
    let f : Inflight := ⟨s.nextId, !c.tm, c.time, c.time + BitVec.ofNat 48 latency, sl, c.pc, act,
      if latched then c.nextLatch sl else none, mask, value, flags, c.issued⟩
    let c := { c with inflight := c.inflight ++ [f] }
    ({ s with nextId := s.nextId + 1 }).setCtx key (if latched then c.advanceRing sl else c)

/-! ## Trap points (13 R262, R263) -/

/-- What an instruction's checks find. `idle`: the bundle waits while its own results land. -/
inductive Chk where
  | ok
  | trap (c : Cause) (sw : BitVec 16)
  | wait (cause : Nat)
  deriving DecidableEq, Repr

def Chk.and (a b : Chk) : Chk :=
  match a with
  | .ok => b
  | r => r

/-- A trap of the instruction's own bundle. -/
def trapOf (code detail : Nat) (sl : Slot) : Chk := .trap ⟨code, detail, sl, 0⟩ 0

def trapAt (code detail : Nat) (sl : Slot) (fva : Word) : Chk := .trap ⟨code, detail, sl, fva⟩ 0

def Chk.need (b : Bool) (r : Chk) : Chk := if b then .ok else r

/-- Slot codes of the frame (R269). -/
def slotCode : Slot → Nat
  | .s => 0 | .va => 1 | .vb => 2 | .mx => 3 | .xp => 4 | .ld => 5 | .st => 6 | .ce => 7 | .sy => 8 | .none => 15

/-! ## The frame (13 R269, R270) -/

/-- KIND, DEST and LOC of an entry (R270). -/
def Act.kind : Act → Nat
  | .scalar _ => 0 | .row _ _ => 1 | .mask _ => 2 | .port _ => 3 | .latchOnly => 4 | .hbytes _ _ => 5 | .spill _ => 6
  | .mx _ _ => 7 | .macz _ _ => 8 | .tstore .. => 9 | .stage _ => 15 | .ctl _ => 15 | .flgclr _ => 15 | .unfold => 15

def Act.dest : Act → Nat
  | .scalar d => d | .row d _ => d | .mask d => d | .port q => q | .mx d _ => d | .macz d _ => d | .tstore t .. => t
  | _ => 0

def Act.loc : Act → Nat
  | .hbytes h off => h * 2 ^ 32 + off
  | .spill i => i * 8
  | .macz _ n => n - 1
  | _ => 0

/-- An in-flight result that trap entry writes into the frame; the slots are S, VA, VB, MX, LD, ST (R266). -/
def Inflight.framed (f : Inflight) : Bool := f.act.kind != 15 && f.slot != .xp

/-- Whether an entry is held to its place in the array while the handler runs (KIND 7). -/
def Inflight.inArray (f : Inflight) : Bool := f.act.kind = 7

/-- Order of landing: by landing lc, control writes first, then issue lc, then slot (02 R28; log entry 10). -/
def Inflight.before (a b : Inflight) : Bool :=
  let pa := if a.act.kind = 15 then 0 else 1
  let pb := if b.act.kind = 15 then 0 else 1
  if a.land != b.land then lcLt a.land b.land
  else if pa != pb then pa < pb
  else if a.issue != b.issue then lcLt a.issue b.issue
  else if slotCode a.slot != slotCode b.slot then slotCode a.slot < slotCode b.slot
  else a.uid < b.uid

def insertSorted {α : Type} (lt : α → α → Bool) (x : α) : List α → List α
  | [] => [x]
  | y :: rest => if lt y x then y :: insertSorted lt x rest else x :: y :: rest

def sortBy {α : Type} (lt : α → α → Bool) (l : List α) : List α := l.foldr (fun x acc => insertSorted lt x acc) []

/-- The header words of an entry (R270). -/
def entryWord0 (lcc : Lc) (f : Inflight) : Nat :=
  slotCode f.slot * 2 ^ 60 + f.act.kind * 2 ^ 56 + lcSub f.land lcc * 2 ^ 48
    + (match f.latch with | some b => b * 2 ^ 44 + 2 ^ 43 | none => 0) + f.act.dest * 2 ^ 32

/-- The 640 bytes of an entry (R270); KIND 9 takes a second entry of KIND 10 after it. -/
def entryBytes (lcc : Lc) (f : Inflight) : List (List Byte) :=
  let mk (w0 w1 : Nat) (m : Mask) (v : Row) : List Byte :=
    bytesOf 8 w0 ++ bytesOf 8 w1 ++ List.replicate 48 0 ++ bytesOf 64 m.toNat ++ bytesOf 512 v.toNat
  match f.act with
  | .mx .. | .macz .. => [mk (entryWord0 lcc f) f.act.loc 0 0]
  | .tstore _ _ idx _ _ =>
    [mk (entryWord0 lcc f) 0 f.mask f.value,
     mk (slotCode f.slot * 2 ^ 60 + 10 * 2 ^ 56 + lcSub f.land lcc * 2 ^ 48) 0 0 idx]
  | _ => [mk (entryWord0 lcc f) f.act.loc f.mask f.value]

/-- An entry of the deferred list: three words of four, with the SRC of origin (R269). -/
def deferredBytes (t : Trap) : List Byte :=
  bytesOf 8 (t.cause.code * 2 ^ 56 + t.cause.detail * 2 ^ 48 + t.src * 2 ^ 45 + slotCode t.cause.slot * 2 ^ 41)
    ++ bytesOf 8 (t.orig.toNat % 2 ^ 56) ++ bytesOf 8 t.cause.fva.toNat ++ bytesOf 8 0

def padTo (n : Nat) (l : List Byte) : List Byte := l ++ List.replicate (n - l.length) 0

/-- Word 0x000 of the frame (R269). -/
def frameWord0 (t : Trap) (ninf ndef : Nat) : Word :=
  BitVec.ofNat 8 t.cause.code ++ BitVec.ofNat 8 t.cause.detail ++ BitVec.ofNat 3 t.src ++ BitVec.ofNat 4 (slotCode t.cause.slot)
    ++ BitVec.ofNat 8 ninf ++ BitVec.ofNat 3 ndef ++ (0 : BitVec 14) ++ t.sw

/-- Number of frame entries of a list of results. -/
def entryCount (l : List Inflight) : Nat := (l.map fun f => if f.act.kind = 9 then 2 else 1).foldl (· + ·) 0

/-- The 0x22000 bytes of the frame (R269). -/
def frameBytes (c : Ctx) (t : Trap) (ents : List Inflight) (deferred : List Trap) : List Byte :=
  let w (v : Word) : List Byte := bytesOf 8 v.toNat
  let pc56 (v : Word) : List Byte := bytesOf 8 (v.toNat % 2 ^ 56)
  let head := w (frameWord0 t (entryCount ents) deferred.length) ++ pc56 c.pc ++ pc56 t.orig ++ w t.cause.fva
    ++ bytesOf 8 c.lcc.toNat ++ bytesOf 8 (c.loops.length * 2 ^ 8 + c.rings.toNat)
  let loops := c.loops.flatMap fun e => pc56 e.first ++ pc56 e.last ++ w e.trip ++ w e.index
  let ctl := bytesOf 8 c.acct.code ++ w c.rnd ++ w c.flg ++ w c.fer
  let defs := deferred.flatMap deferredBytes
  let regs := ((List.range 64).flatMap fun n => w (if n = 0 then 0 else c.sregs.read 0 n))
    ++ ((List.range 64).flatMap fun n => w (c.readE n))
  let masks := (List.range 16).flatMap fun n => bytesOf 64 (c.readM n).toNat
  let lats := (List.range 16).flatMap fun n => bytesOf 512 (c.readB n).toNat
  let low := padTo 0x40 head ++ padTo 0xC0 loops ++ padTo 0x40 ctl ++ padTo 0xC0 defs ++ regs ++ masks ++ lats
  padTo 0x22000 (padTo 0x4000 low ++ (ents.flatMap fun f => (entryBytes c.lcc f).flatten))

/-- The frame's address: CTL.TFRAME.ADDR as a virtual address (R142). -/
def Ctx.frameVa (c : Ctx) : Int := vaOf (canonical56 c.tframe.toNat)

/-- Pieces of the frame, one for each 4 KiB granule. -/
def framePieces (va : Int) (bytes : List Byte) : List WPiece :=
  (parts va 0x22000).map fun p => ⟨p.1, none, (bytes.drop (p.1 - va).toNat).take p.2⟩

/-- Program level, at which frames are stored and read (R144). -/
def State.whoProgram (s : State) (key : Nat) (c : Ctx) : Who := { s.whoOf key c with sys := false }

/-- Whether translation of a frame store faults (R144): MIGRATING pages hold the store and do not fault. -/
def State.frameFaults (s : State) (key : Nat) (c : Ctx) : Bool :=
  (parts c.frameVa 0x22000).any fun p => match (s.seen c).translate (s.whoProgram key c) .store false p.1 p.2 with
    | .fault _ => true
    | _ => false

/-! ## Fatal traps (13 R272) -/

def State.fatal (s : State) (key : Nat) (code detail : Nat) (tm : Bool) : State :=
  match s.ctx? key with
  | none => s
  | some c => s.killNode c.node tokFault (faultDetail code detail tm)

/-! ## Trap entry (13 R266) -/

/-- What receives zero when a load's fault is taken or deferred (R264; 08 R185). -/
def Ctx.zeroWindow (c : Ctx) (w : Window) : Ctx :=
  let c := match w.act with
    | some (.scalar d) => c.writeS d 0
    | some (.row d n) => c.writeRow d (mixRow n w.mask 0 (c.readRow d))
    | _ => c
  let c := match w.latch with
    | some b => c.writeB b 0
    | none => c
  match w.mres with
  | some m => c.writeM m 0
  | none => c

def Window.trap (w : Window) : Trap := ⟨w.cause, 1, w.pc, 0, w.num⟩

/-- The deferred list of a new frame: entries restored by RTE that pass on with their SRC of origin, open windows, SRC 2 causes passed
over; in the program order of their bundles (R263, R265). -/
def Ctx.deferredFor (c : Ctx) (taken : Option Trap) : List Trap :=
  let passed := if taken.any fun t => t.src = 4 then c.restored.drop 1 else c.restored
  sortBy (fun a b => a.num < b.num) (passed ++ (c.windows.map Window.trap ++ c.landed).filter fun t => some t != taken)

/-! ### Traps in a pair (03 R67) -/

/-- The twins' record of traps: bundle count, cause, detail. The same cause is the same code with the same detail, which 13 R261 tells apart and R67
does not (DESIGN CHOICE, log entry 11). -/
def Trap.mark (t : Trap) (issued : Nat) : Nat × Nat × Nat := (issued, t.cause.code, t.cause.detail)

/-- The place in the twin's record that a trap is held against: a fatal trap that waits for the twin is already in its own record. -/
def Ctx.trapPlace (c : Ctx) (t : Trap) : Nat :=
  if c.trapLog.getLast? = some (t.mark c.issued) then c.trapLog.length - 1 else c.trapLog.length

/-- Whether a trap agrees with what the twin has done: same cause at the same bundle, or the twin has not yet passed the
bundle (03 R67; interrupts: log entry 11). -/
def State.twinAgrees (s : State) (c : Ctx) (t : Trap) : Bool :=
  match s.twinOf c with
  | none => true
  | some (_, tc) =>
    match tc.trapLog[c.trapPlace t]? with
    | some m => m = t.mark c.issued
    | none => tc.issued ≤ c.issued

/-- The twin has trapped before the bundle that this context is about to issue, and this context has not: the pair is broken. -/
def State.trapMissed (s : State) (c : Ctx) : Bool :=
  match s.twinOf c with
  | none => false
  | some (_, tc) => (tc.trapLog[c.trapLog.length]?).any fun m => m.1 ≤ c.issued

/-- A fatal trap of a pair waits until the twin has met it too (R67), and is then the node's end (13 R272). -/
def State.fatalTrap (s : State) (key : Nat) (c : Ctx) (t : Trap) : State :=
  match s.twinOf c with
  | none => s.fatal key t.cause.code t.cause.detail c.tm
  | some (_, tc) =>
    if (tc.trapLog[c.trapPlace t]?).isSome then s.fatal key t.cause.code t.cause.detail c.tm
    else (s.setCtx key { c with trapLog := c.trapLog.take (c.trapPlace t) ++ [t.mark c.issued] }).hold key 11

/-! ### The entry -/

/-- Taking a trap: the one operation of R266. The saved position is the bundle at PC, the status becomes trap mode at
tenant system level, the handler's registers receive the frame's address and words, and issue goes to CTL.TVEC. A BRK that is not to be
tested again at PC stays so until the return (05 R97). -/
def State.enterTrap (s : State) (key : Nat) (t : Trap) : State :=
  match s.ctx? key with
  | none => s
  | some c =>
    let s := s.noteView c .trap (c.trapPlace t)
    if !s.twinAgrees c t then s.breakPair c.node
    else if c.tm ∨ c.tframe = 0 ∨ c.tvec = 0 ∨ s.frameFaults key c then s.fatalTrap key c t
    else
      let taken := if t.src = 0 ∨ t.src = 3 ∨ t.src = 5 then none else some t
      let deferred := (c.deferredFor taken).take 4
      let s := s.traceFlush key
      let c := ((s.ctx? key).getD c)
      let c := c.windows.foldl Ctx.zeroWindow c
      let ents := sortBy Inflight.before (c.inflight.filter fun f => f.prog && f.framed)
      let w0 := frameWord0 t (entryCount ents) deferred.length
      let va := c.frameVa
      let bytes := frameBytes c t ents deferred
      let s := s.setCtx key c
      let s := s.access key 0 (.frame (framePieces va bytes) t.cause.code t.cause.detail)
      let s := s.mapCtx key fun c => { c with
        inflight := c.inflight.filter fun f => !(f.prog && f.framed && !f.inArray)
        trapEntries := ents
        defNums := deferred.map (·.num)
        windows := [], landed := [], restored := [], waitDone := false
        tm := true, tlc := 0, status := .trap
        bank := [(48, BitVec.ofInt 64 va), (49, w0), (50, canonical56 t.orig.toNat), (51, t.cause.fva)].foldl
          (fun b p => Tab.write 0 b p.1 p.2) c.bank
        pc := canonical56 c.tvec.toNat
        brkAt := if t.cause.code = 0x0F ∨ c.skipBrk then some c.pc else none
        skipBrk := false
        trapLog := c.trapLog ++ [t.mark c.issued] }
      s.traceThenSync key (pktTrap (key % 4) false t.cause.code t.cause.detail t.src)

/-- Raise the trap of an instruction's own bundle: SRC 0, ORIG the bundle at PC (R262). A report of a DRAIN is SRC 3. -/
def State.raiseOwn (s : State) (key : Nat) (cause : Cause) (sw : BitVec 16) (src : Nat) : State :=
  match s.ctx? key with
  | none => s
  | some c => s.enterTrap key ⟨cause, src, c.pc, sw, c.issued⟩

/-! ## Reports of a DRAIN (09 R198) -/

/-- Whether a DRAIN of the path reports the fault. -/
def DrainFault.on (p : Path) (f : DrainFault) : Bool :=
  match f.path with
  | some q => q = p
  | none => p = .hbm || p = .cap || p = .host || p = .peer

/-- Every fault that a DRAIN of the path would report: those of covered accesses, the deferred window fault (08 R175) and the
refusal at a peer package (15 R302). -/
def Ctx.reports (c : Ctx) (p : Path) : List DrainFault :=
  c.drainFaults.filter (DrainFault.on p) ++ (if p = .win then c.winFault.toList else [])
    ++ if p = .peer then c.peerFault.toList else []

/-- The fault of the access earliest in program order. -/
def Ctx.report (c : Ctx) (p : Path) : Option DrainFault :=
  (c.reports p).foldl (fun m f => match m with
    | none => some f
    | some g => if f.order < g.order then some f else some g) none

/-- The report clears the fault. -/
def Ctx.cleared (c : Ctx) (p : Path) : Ctx :=
  match c.report p with
  | none => c
  | some f => { c with
      drainFaults := c.drainFaults.erase f
      winFault := if p = .win && c.winFault = some f then none else c.winFault
      peerFault := if p = .peer && c.peerFault = some f then none else c.peerFault }

/-- A slot's trap is taken: SRC 0, or SRC 3 for what a DRAIN reports. -/
def State.slotTrap (s : State) (key : Nat) (i : Instr) (cause : Cause) (sw : BitVec 16) : State :=
  match i with
  | .drain p => (s.mapCtx key fun c => c.cleared p).raiseOwn key cause sw 3
  | _ => (if cause.code = 0x08 && cause.detail = 5 then s.log (.owner 0) else s).raiseOwn key cause sw 0

/-! ## Return (13 R271) -/

/-- n bytes of the frame at an offset; none where translation fails (R144) or the package of a PEER frame refuses it (15 R302; log entry 62). Aligned
words never cross a granule. -/
def State.frameRead (s : State) (w : Who) (va : Int) (off n : Nat) : Option Nat :=
  match s.translate w .copyRead false (va + off) n with
  | .ok l => if s.locPoisoned l n || s.peerRefuses w.tenant l n then none else some (numOf (s.readLoc l n))
  | _ => none

/-- A doubleword of the frame. -/
def State.frameWord (s : State) (w : Who) (va : Int) (off : Nat) : Nat := (s.frameRead w va off 8).getD 0

/-- Every granule of the frame can be read. -/
def State.frameReadable (s : State) (w : Who) (va : Int) : Bool :=
  (parts va 0x22000).all fun p => match s.translate w .copyRead false p.1 p.2 with
    | .ok l => !s.peerRefuses w.tenant l p.2
    | _ => false

/-- A granule of the frame is poisoned: the node consumes the error (14 R280). -/
def State.framePoisoned (s : State) (w : Who) (va : Int) : Bool :=
  (parts va 0x22000).any fun p => match s.translate w .copyRead false p.1 p.2 with
    | .ok l => s.locPoisoned l p.2
    | .poison _ => true
    | _ => false

/-- Reserved words of the frame's first part, as (offset, reserved bits) (R269). Bits [63:56] of ORIG in a deferred fault are not among them: R269
marks those bits of 0x010 alone, so that the return takes the low 56 bits (DESIGN CHOICE, log entry 57). -/
def frameReserved (lsd : Nat) : List (Nat × Nat) :=
  [(0x000, 0x3FFF0000), (0x008, 0xFF00000000000000), (0x010, 0xFF00000000000000), (0x020, 0xFFFF000000000000),
   (0x028, 0xFFFFFFFFFFFFF000), (0x030, 2 ^ 64 - 1), (0x038, 2 ^ 64 - 1)]
  ++ ((List.range lsd).flatMap fun i => [(0x40 + 32 * i, 0xFF00000000000000), (0x48 + 32 * i, 0xFF00000000000000)])
  ++ ((List.range 4).map fun i => (0x120 + 8 * i, 2 ^ 64 - 1)) ++ ((List.range 4).flatMap fun j => [(0x140 + 32 * j, 2 ^ 41 - 1), (0x158 + 32 * j, 2 ^ 64 - 1)])
  ++ ((List.range 8).map fun i => (0x1C0 + 8 * i, 2 ^ 64 - 1)) ++ ((List.range 0x2C0).map fun i => (0x2A00 + 8 * i, 2 ^ 64 - 1))

/-- Whether an entry of the frame matches, in SLOT, KIND, REMAIN, DEST, LATCH and LOC, what trap entry wrote (R271). -/
def State.entryMatches (s : State) (w : Who) (va : Int) (lcc : Lc) (i : Nat) (f : Inflight) : Bool :=
  let a := 0x4000 + 640 * i
  s.frameWord w va a = entryWord0 lcc f && s.frameWord w va (a + 8) = f.act.loc
    && (List.range 6).all (fun k => s.frameWord w va (a + 16 + 8 * k) = 0)
    && (f.act.kind != 9
        || (s.frameWord w va (a + 640) = slotCode f.slot * 2 ^ 60 + 10 * 2 ^ 56 + lcSub f.land lcc * 2 ^ 48
            && (List.range 7).all fun k => s.frameWord w va (a + 648 + 8 * k) = 0))

/-- The entries with their index in the frame. -/
def indexed : Nat → List Inflight → List (Nat × Inflight)
  | _, [] => []
  | i, f :: rest => (i, f) :: indexed (i + if f.act.kind = 9 then 2 else 1) rest

/-- The frame is valid (R271). -/
def State.frameValid (s : State) (w : Who) (va : Int) (c : Ctx) : Bool :=
  let g := s.frameWord w va
  let w0 := g 0
  let lsd := bf (g 0x28) 11 8
  s.frameReadable w va && (frameReserved (Nat.min lsd 6)).all (fun r => g r.1 &&& r.2 = 0)
    && bf w0 40 33 = entryCount c.trapEntries && bf w0 32 30 ≤ 4 && lsd ≤ 6
    && bf (g 0x08) 5 0 = 0
    && ctlAccepts 2 (BitVec.ofNat 64 (g 0x100)) && ctlAccepts 3 (BitVec.ofNat 64 (g 0x108))
    && ctlAccepts 4 (BitVec.ofNat 64 (g 0x110)) && ctlAccepts 5 (BitVec.ofNat 64 (g 0x118))
    && (indexed 0 c.trapEntries).all (fun p => s.entryMatches w va c.lcc p.1 p.2)
    && (List.range lsd).all fun i => g (0x40 + 32 * i) ≤ g (0x48 + 32 * i)

/-- An entry re-injected with the value and mask that the frame holds (R271). -/
def State.reinject (s : State) (w : Who) (va : Int) (p : Nat × Inflight) : Option Inflight :=
  let a := 0x4000 + 640 * p.1
  let m : Mask := BitVec.ofNat 512 ((s.frameRead w va (a + 0x40) 64).getD 0)
  let v : Row := BitVec.ofNat 4096 ((s.frameRead w va (a + 0x80) 512).getD 0)
  match p.2.act with
  | .mx .. => none
  | .macz .. => some p.2
  | .tstore t g _ h _ =>
    some { p.2 with mask := m, value := v,
                    act := .tstore t g (BitVec.ofNat 4096 ((s.frameRead w va (a + 640 + 0x80) 512).getD 0)) h none }
  | _ => some { p.2 with mask := m, value := v }

def slotOfCode : Nat → Slot
  | 0 => .s | 1 => .va | 2 => .vb | 3 => .mx | 4 => .xp | 5 => .ld | 6 => .st | 7 => .ce | 8 => .sy | _ => .none

/-- Deferred fault j of the frame, with its SRC of origin and the place of its bundle in program order, which the frame does not hold (R265,
R269). -/
def State.frameDeferred (s : State) (w : Who) (va : Int) (nums : List Nat) (j : Nat) : Trap :=
  let g := s.frameWord w va
  let w0 := g (0x140 + 32 * j)
  ⟨⟨bf w0 63 56, bf w0 55 48, slotOfCode (bf w0 44 41), BitVec.ofNat 64 (g (0x150 + 32 * j))⟩, bf w0 47 45,
    canonical56 (g (0x148 + 32 * j)), 0, nums.getD j 0⟩

/-- A bundle's address: bits [5:0] are zero (05 R93). A handler may leave others in FIRST or LAST of a loop entry, which R271 does not test
(DESIGN CHOICE, log entry 61). -/
def bundleAddr (v : Nat) : Word := canonical56 (v / 64 * 64)

/-- The program's registers as the frame holds them (R271). -/
def State.restoreRegs (s : State) (w : Who) (va : Int) (c : Ctx) : Ctx :=
  let g (o : Nat) : Word := BitVec.ofNat 64 (s.frameWord w va o)
  let lsd := bf (s.frameWord w va 0x28) 11 8
  { c with
    sregs := (List.range 64).foldl (fun t n => if n = 0 then t else Tab.write 0 t n (g (0x200 + 8 * n))) c.sregs
    eregs := (List.range 64).foldl (fun t n => Tab.write 0 t n (g (0x400 + 8 * n))) c.eregs
    masks := (List.range 16).foldl (fun t n => if n = 0 then t
      else Tab.write 0 t n (BitVec.ofNat 512 ((s.frameRead w va (0x600 + 64 * n) 64).getD 0))) c.masks
    latches := (List.range 16).foldl (fun t n =>
      Tab.write 0 t n (BitVec.ofNat 4096 ((s.frameRead w va (0xA00 + 512 * n) 512).getD 0))) c.latches
    rings := BitVec.ofNat 8 (s.frameWord w va 0x28)
    loops := (List.range lsd).map fun i => ⟨bundleAddr (s.frameWord w va (0x40 + 32 * i)),
      bundleAddr (s.frameWord w va (0x48 + 32 * i)), g (0x50 + 32 * i), g (0x58 + 32 * i)⟩
    acct := (Ty.ofCode (s.frameWord w va 0x100)).getD c.acct
    rnd := g 0x108, flg := g 0x110, fer := g 0x118 }

/-- RTE reads the frame: the decoders meet its lines, and a miss walks (14 R279, R283). -/
def State.meetFrame (s : State) (w : Who) (va : Int) : State :=
  (parts va 0x22000).foldl (fun s p => match s.translate w .copyRead false p.1 p.2 with
    | .ok (.phys pa) => (s.meetWalk w (va56 p.1)).meet pa p.2
    | _ => s) s

/-- The return itself, once nothing of the handler is outstanding (R271). -/
def State.returnFrom (s : State) (key : Nat) (c : Ctx) (frame : Word) : State :=
  let va := vaOf (canonical56 frame.toNat)
  let w := s.whoProgram key c
  let s := s.noteView c .ret c.trapLog.length
  let m := s.seenAt c [.ret]
  let s := s.meetFrame w va
  if m.framePoisoned w va then s.consumeError c.node
  else if !m.frameValid w va c then s.fatal key 0xFF 0 true
  else
    let inj := (indexed 0 c.trapEntries).filterMap (m.reinject w va)
    let pc := canonical56 (m.frameWord w va 0x08)
    let ndef := bf (m.frameWord w va 0) 32 30
    let c' := { m.restoreRegs w va c with
      inflight := c.inflight ++ inj
      trapEntries := []
      restored := (List.range ndef).map (m.frameDeferred w va c.defNums), defNums := []
      tm := false, status := .running, rte := none, pc := pc
      skipBrk := c.brkAt = some pc, brkAt := none }
    ((s.traceFlush key).setCtx key { c' with bnd := 0, needSync := ((s.traceFlush key).ctx? key).any (·.needSync) }).traceThenSync key
      (pktTrap (key % 4) true 0 0 0)

/-- Whether everything that RTE waits for is done: handler results landed and applied, and every earlier access of the
context performed, in every class (R271). -/
def State.returnReady (s : State) (key : Nat) (c : Ctx) : Bool :=
  c.active.isEmpty && (c.pend.all fun p => p.prog) && (s.ctxAccs key c).all fun a => a.cls = none || a.performed

/-- Something of the handler lands at a later TLC: a result in flight, or one that is not due yet. -/
def Ctx.toLand (c : Ctx) : Bool := !c.active.isEmpty || c.pend.any fun p => !p.prog && lcLt c.tlc p.due

/-- RTE goes on, a pair's follower after its leader: TLC idles while handler results are in flight; a handler load whose fault is open, or a trap that
a handler's result or MWLD raises meanwhile, is a trap in trap time and fatal (R271, R272). -/
def State.tryReturn (s : State) (key : Nat) : State :=
  match s.ctx? key with
  | none => s
  | some c =>
    match c.rte with
    | none => s
    | some f =>
      match c.windows.map Window.trap ++ c.landed with
      | t :: _ => s.enterTrap key t
      | [] =>
        if s.returnReady key c then
          if (s.leaderOf c).isSome && (s.viewOf c [.ret]).isNone then s.hold key 11 else s.returnFrom key c f
        else if c.toLand then s.setCtx key { c.advance 1 with idleTill := s.clock + 1 }
        else s.hold key 12

/-! ## Issuing a slot instruction (05 R114) -/

/-- The privilege that an instruction needs (05 R113; 06 R141; 17 R365). SYSW's depends on its register. -/
def privileged (c : Ctx) : Instr → Bool
  | .shoot _ | .shmap | .lnctlInval _ | .lnctlInvalall | .lnctlSetref _ | .rte => !c.sysLevel
  | .sysw i _ => ctlAccess i = .ro || (ctlAccess i = .rwt && !c.sysLevel)
  | _ => false

def decodeCause : DecodeErr → Nat
  | .illegalBundle => 0x0B
  | .reservedField => 0x0D
  | .illegalInstruction => 0x0C

/-- What a slot takes when its bundle issues: a credit of a send port (02 R40), a reservation (02 R35), an allowance (06
R145), the lease, as a matrix command or for MLEASE (03 R62; 17 R352), passage of the fences for its class (09 R196), and the end of the
earlier accesses of a class, for an access to tile SRAM that R194 does not except. -/
structure Need where
  port  : Option Nat
  resv  : Bool
  allow : Option Nat
  lease : Option Bool
  fence : Option Nat
  order : Option Nat
  deriving DecidableEq, Repr

def Need.none : Need := ⟨.none, false, .none, .none, .none, .none⟩

/-- One of the 48 reservations is free for a bundle of which n slots have taken one (02 R35). While the context stalls its count of lc stands
still, so that of 48 results none of which is due none would ever be applied; R43 gives a program that needs more than 48 only extra stalls,
and 19 R413 to R415 run one. Where no result is due, the bundle therefore waits for replies to reach the skid, and those that are here no
longer count (DEDUCED, log entry 60). An MWLD, whose image goes to its buffer, takes none (DESIGN CHOICE, log entry 60). -/
def Ctx.reservable (c : Ctx) (n : Nat) : Bool :=
  let l := c.pend.filter fun (p : Pend) => p.wb.isNone
  l.length + n < 48
    || (l.all (fun p => p.prog = c.tm || lcLt c.time p.due) && (l.filter fun (p : Pend) => p.reply.isNone).length + n < 48)

/-- Waits for capacity, given what earlier slots of the bundle take (R114). -/
def needChk (s : State) (key : Nat) (c : Ctx) (earlier : List Need) (n : Need) : Chk :=
  (match n.fence with
    | some k => Chk.need (!s.fenceHolds c (some k)) (.wait 12)
    | .none => .ok).and <|
  (match n.order with
    | some k => Chk.need ((s.classDeps key c (some k)).all fun d => !s.unperformed d) (.wait 12)
    | .none => .ok).and <|
  (match n.port with
    | some q => Chk.need ((earlier.filter fun (e : Need) => e.port = some q).length < (c.port q).credits) (.wait 3)
    | .none => .ok).and <|
  (Chk.need (!n.resv || c.reservable (earlier.filter Need.resv).length) (.wait 4)).and <|
  (match n.allow with
    | some k => Chk.need (c.outOf k < c.limitOf k) (.wait 10)
    | .none => .ok).and <|
  match n.lease with
    | some true => Chk.need (s.leaseReady key c) (.wait 5)
    | some false => Chk.need (match (s.tile (keyTile key)).lease with | some k => k = key % 4 | .none => true) (.wait 5)
    | .none => .ok

/-- An instruction's meaning at issue: its own checks, what it takes, and its effect. -/
structure SlotOp where
  own    : State → Nat → Ctx → Chk
  need   : State → Nat → Ctx → Need
  effect : State → Nat → Ctx → State

def noNeed (_ : State) (_ : Nat) (_ : Ctx) : Need := .none
def noCheck (_ : State) (_ : Nat) (_ : Ctx) : Chk := .ok

/-- All checks of one instruction alone in its bundle, in R114's order: decoding, privilege, own checks, then capacity. -/
def slotChecks (i : Instr) (op : SlotOp) (s : State) (key : Nat) (c : Ctx) : Chk :=
  match accept c.acct i with
  | some e => trapOf (decodeCause e) 0 i.slot
  | none =>
    if privileged c i then trapOf 0x0E 0 i.slot
    else (op.own (s.seen c) key c).and (needChk s key c [] (op.need s key c))

/-- The outcome of an instruction in the context that holds issue. -/
def issueSlot (i : Instr) (op : SlotOp) (s : State) : Host.Outcome State Fault Refusal :=
  match s.cur with
  | none => .fault .noContext
  | some key =>
    match s.ctx? key with
    | none => .fault .noContext
    | some c =>
      match slotChecks i op s key c with
      | .trap cause sw => .next (s.slotTrap key i cause sw)
      | .wait cause => .next (if cause = 5 then s.leaseAwait key (i != .mlease) else s.stallOn key cause)
      | .ok => .next (op.effect s key c)

end Sys2Proof.Machine
end

