-- ==== Sys2Proof/Machine/Float.lean ====
section
/-! DEFINITION. Floating-point arithmetic (07 R147 to R154): every operation works on the exact value, a sign, a magnitude
and a power of two, and rounds once; conversions (R151); the transcendental functions (18 R389, R390). -/

namespace Sys2Proof.Machine

/-- Result bits and the flags NV, DZ, OF, UF, NX from bit 4 down (R153). -/
abbrev FRes := Nat × BitVec 5

def flagNV : BitVec 5 := 16
def flagDZ : BitVec 5 := 8
def flagOF : BitVec 5 := 4
def flagUF : BitVec 5 := 2
def flagNX : BitVec 5 := 1

/-- Fraction bits (R147). -/
def fracBits : Ty → Nat
  | .f32 => 23
  | .f16 => 10
  | _ => 7

/-- Exponent bits (R147). -/
def expBits : Ty → Nat
  | .f16 => 5
  | _ => 8

/-- Exponent of the smallest normal. -/
def minExp (t : Ty) : Int := 2 - 2 ^ (expBits t - 1)

/-- Exponent of the unit of the smallest subnormal. -/
def minQuantum (t : Ty) : Int := minExp t - fracBits t

/-- The encoding of infinity without its sign. -/
def infBits (t : Ty) : Nat := (2 ^ expBits t - 1) * 2 ^ fracBits t

def withSign (t : Ty) (neg : Bool) (mag : Nat) : Nat := (if neg then 2 ^ (t.bits - 1) else 0) + mag

/-- The default NaN (R147, R148). -/
def defaultNan (t : Ty) : Nat := infBits t + 2 ^ (fracBits t - 1)

/-- The value that an encoding names: a NaN (signalling or not), an infinity, or (-1)^neg * m * 2^e. -/
inductive FVal where
  | nan (signalling : Bool)
  | inf (neg : Bool)
  | fin (neg : Bool) (m : Nat) (e : Int)
  deriving DecidableEq, Repr

def decodeF (t : Ty) (b : Nat) : FVal :=
  let neg := b / 2 ^ (t.bits - 1) % 2 = 1
  let mag := b % 2 ^ (t.bits - 1)
  let frac := mag % 2 ^ fracBits t
  let ex := mag / 2 ^ fracBits t
  if infBits t < mag then .nan (frac < 2 ^ (fracBits t - 1))
  else if mag = infBits t then .inf neg
  else if ex = 0 then .fin neg frac (minQuantum t)
  else .fin neg (frac + 2 ^ fracBits t) (minQuantum t + (ex - 1 : Nat))

def FVal.isNan : FVal → Bool
  | .nan _ => true
  | _ => false

def FVal.isSig : FVal → Bool
  | .nan s => s
  | _ => false

def FVal.neg : FVal → Bool
  | .nan _ => false
  | .inf n => n
  | .fin n _ _ => n

def FVal.isInf : FVal → Bool
  | .inf _ => true
  | _ => false

def FVal.isZero : FVal → Bool
  | .fin _ 0 _ => true
  | _ => false

/-! ## Rounding (R150) -/

/-- Round m * 2^e to a multiple of 2^q: the multiple, and whether it is inexact. -/
def roundAt (rm : RMode) (neg : Bool) (m : Nat) (e q : Int) : Nat × Bool :=
  if q ≤ e then (m * 2 ^ (e - q).toNat, false)
  else
    let d := 2 ^ (q - e).toNat
    let k := m / d
    let r := m % d
    let up := match rm with
      | .slot | .nearest => d < 2 * r || (2 * r = d && k % 2 = 1)
      | .zero => false
      | .up => !neg && r != 0
      | .down => neg && r != 0
    (if up then k + 1 else k, r != 0)

/-- What an overflow delivers: infinity, or the largest finite number (R150). -/
def overflowBits (t : Ty) (rm : RMode) (neg : Bool) : Nat :=
  let toInf := match rm with
    | .slot | .nearest => true
    | .zero => false
    | .up => !neg
    | .down => neg
  withSign t neg (if toInf then infBits t else infBits t - 1)

/-- Round (-1)^neg * m * 2^e once to a format; `pre` says that m * 2^e itself already differs from the exact result. -/
def roundFrom (t : Ty) (rm : RMode) (neg : Bool) (m : Nat) (e : Int) (pre : Bool) : FRes :=
  if m = 0 then (withSign t neg 0, 0)
  else
    let unbounded := e + bitLength m - (fracBits t + 1 : Nat)
    let q := if unbounded < minQuantum t then minQuantum t else unbounded
    let r := roundAt rm neg m e q
    let mag := (q - minQuantum t).toNat * 2 ^ fracBits t + r.1
    if infBits t ≤ mag then (overflowBits t rm neg, flagOF ||| flagNX)
    else
      let inexact := r.2 || pre
      let tiny := bitLength (roundAt rm neg m e unbounded).1 + unbounded ≤ minExp t
      (withSign t neg mag, (if tiny && inexact then flagUF else 0) ||| (if inexact then flagNX else 0))

def roundF (t : Ty) (rm : RMode) (neg : Bool) (m : Nat) (e : Int) : FRes := roundFrom t rm neg m e false

/-- An exact sum of two dyadic numbers, rounded; an exact zero takes the sign of IEEE 754-2019. -/
def roundSum (t : Ty) (rm : RMode) (n1 : Bool) (m1 : Nat) (e1 : Int) (n2 : Bool) (m2 : Nat) (e2 : Int) : FRes :=
  let e := if e1 < e2 then e1 else e2
  let v1 : Int := (m1 * 2 ^ (e1 - e).toNat : Nat)
  let v2 : Int := (m2 * 2 ^ (e2 - e).toNat : Nat)
  let s := (if n1 then -v1 else v1) + (if n2 then -v2 else v2)
  if s = 0 then (withSign t (if n1 = n2 then n1 else rm = .down) 0, 0) else roundF t rm (s < 0) s.natAbs e

/-! ## Arithmetic (18 R380, R381) -/

/-- x + y, or x - y when `minus`. -/
def fadd (t : Ty) (rm : RMode) (minus : Bool) (x y : Nat) : FRes :=
  let a := decodeF t x
  let b := decodeF t y
  if a.isSig || b.isSig then (defaultNan t, flagNV)
  else
    match a, b with
    | .nan _, _ | _, .nan _ => (defaultNan t, 0)
    | .inf n, .inf k => if n = (k ^^ minus) then (withSign t n (infBits t), 0) else (defaultNan t, flagNV)
    | .inf n, _ => (withSign t n (infBits t), 0)
    | _, .inf k => (withSign t (k ^^ minus) (infBits t), 0)
    | .fin n m e, .fin k m' e' => roundSum t rm n m e (k ^^ minus) m' e'

def fmul (t : Ty) (rm : RMode) (x y : Nat) : FRes :=
  let a := decodeF t x
  let b := decodeF t y
  let neg := a.neg ^^ b.neg
  if a.isSig || b.isSig then (defaultNan t, flagNV)
  else
    match a, b with
    | .nan _, _ | _, .nan _ => (defaultNan t, 0)
    | .fin _ m e, .fin _ m' e' => roundF t rm neg (m * m') (e + e')
    | _, _ => if a.isZero || b.isZero then (defaultNan t, flagNV) else (withSign t neg (infBits t), 0)

/-- (-1)^np * x * y + (-1)^nc * z, rounded once (R381: 0 × ∞ raises NV whatever z). -/
def ffma (t : Ty) (rm : RMode) (np nc : Bool) (x y z : Nat) : FRes :=
  let a := decodeF t x
  let b := decodeF t y
  let c := decodeF t z
  let n := (a.neg ^^ b.neg) ^^ np
  let k := c.neg ^^ nc
  if a.isSig || b.isSig || c.isSig || (a.isInf && b.isZero) || (a.isZero && b.isInf) then (defaultNan t, flagNV)
  else if a.isNan || b.isNan || c.isNan then (defaultNan t, 0)
  else
    match a, b, c with
    | .fin _ m e, .fin _ m' e', .fin _ m'' e'' => roundSum t rm n (m * m') (e + e') k m'' e''
    | .fin .., .fin .., _ => (withSign t k (infBits t), 0)
    | _, _, .inf _ => if n = k then (withSign t n (infBits t), 0) else (defaultNan t, flagNV)
    | _, _, _ => (withSign t n (infBits t), 0)

/-- |x - y| rounded once. -/
def fabd (t : Ty) (rm : RMode) (x y : Nat) : FRes :=
  let a := decodeF t x
  let b := decodeF t y
  if a.isSig || b.isSig then (defaultNan t, flagNV)
  else
    match a, b with
    | .nan _, _ | _, .nan _ => (defaultNan t, 0)
    | .inf n, .inf k => if n = k then (defaultNan t, flagNV) else (infBits t, 0)
    | .inf _, _ | _, .inf _ => (infBits t, 0)
    | .fin n m e, .fin k m' e' =>
      let e0 := if e < e' then e else e'
      let v : Int := (m * 2 ^ (e - e0).toNat : Nat)
      let v' : Int := (m' * 2 ^ (e' - e0).toNat : Nat)
      roundF t rm false ((if n then -v else v) - (if k then -v' else v')).natAbs e0

/-! ## Comparison (R148) -/

/-- Order of encodings that are not NaNs; -0 and +0 are equal. -/
def floatKey (t : Ty) (b : Nat) : Int :=
  let mag : Int := (b % 2 ^ (t.bits - 1) : Nat)
  if b / 2 ^ (t.bits - 1) % 2 = 1 then -mag else mag

/-- Order of encodings that are not NaNs; -0 is less than +0. -/
def totalKey (t : Ty) (b : Nat) : Int :=
  let mag : Int := (b % 2 ^ (t.bits - 1) : Nat)
  if b / 2 ^ (t.bits - 1) % 2 = 1 then -mag - 1 else mag

/-- minimumNumber or maximumNumber. -/
def fminmax (t : Ty) (max : Bool) (x y : Nat) : FRes :=
  let a := decodeF t x
  let b := decodeF t y
  let f : BitVec 5 := if a.isSig || b.isSig then flagNV else 0
  if a.isNan && b.isNan then (defaultNan t, f)
  else if a.isNan then (y, f)
  else if b.isNan then (x, f)
  else (if (totalKey t x < totalKey t y) = !max then x else y, f)

/-- A condition of VCMP on floating operands (18 R385). -/
def fcmp (t : Ty) (c : VCond) (x y : Nat) : Bool × BitVec 5 :=
  let a := decodeF t x
  let b := decodeF t y
  let f : BitVec 5 := if a.isSig || b.isSig then flagNV else 0
  let un := a.isNan || b.isNan
  let p := floatKey t x
  let q := floatKey t y
  (match c with
    | .eq => !un && p = q
    | .ne => un || p != q
    | .lt => !un && p < q
    | .le => !un && p ≤ q
    | .gt => !un && q < p
    | .ge => !un && q ≤ p
    | .un => un, f)

/-! ## Conversion (R151) -/

/-- A floating value in another format. -/
def convF (rm : RMode) (dst : Ty) (v : FVal) : FRes :=
  match v with
  | .nan s => (defaultNan dst, if s then flagNV else 0)
  | .inf n => (withSign dst n (infBits dst), 0)
  | .fin n m e => roundF dst rm n m e

/-- Bounds of an integer type. -/
def intMin (t : Ty) : Int := if t.signed then -(2 ^ (t.bits - 1)) else 0
def intMax (t : Ty) : Int := if t.signed then 2 ^ (t.bits - 1) - 1 else 2 ^ t.bits - 1

/-- An integer's value by its type's signedness. -/
def intValue (t : Ty) (b : Nat) : Int := if t.signed then signedOf t.bits b else (b % 2 ^ t.bits : Nat)

def clampInt (t : Ty) (v : Int) : Int := if v < intMin t then intMin t else if intMax t < v then intMax t else v

/-- A float rounded to an integer type: out of range saturates with NV, NaN gives 0 with NV. -/
def convInt (rm : RMode) (dst : Ty) (v : FVal) : FRes :=
  match v with
  | .nan _ => (0, flagNV)
  | .inf n => (wrap dst.bits (if n then intMin dst else intMax dst), flagNV)
  | .fin n m e =>
    let r := roundAt rm n m e 0
    let k : Int := if n then -(r.1 : Int) else r.1
    if k < intMin dst ∨ intMax dst < k then (wrap dst.bits (clampInt dst k), flagNV)
    else (wrap dst.bits k, if r.2 then flagNX else 0)

/-- VCVT of one element (18 R387). -/
def convert (rm : RMode) (dst src : Ty) (x : Nat) : FRes :=
  if src.isF then (if dst.isF then convF rm dst (decodeF src x) else convInt rm dst (decodeF src x))
  else
    let v := intValue src x
    if dst.isF then roundF dst rm (v < 0) v.natAbs 0 else (wrap dst.bits v, 0)

/-- A small natural number in a vector type, for the operand LANE (05 R98). -/
def smallNat (t : Ty) (w i : Nat) : Nat := if t.isF then (roundF t .nearest false i 0).1 else i % 2 ^ w

/-! ## Roots and quotients, exact to the last bit -/

/-- Integer square root, bit by bit from position k - 1. -/
def isqrtFrom (n : Nat) : Nat → Nat → Nat
  | 0, r => r
  | k + 1, r => isqrtFrom n k (if (r + 2 ^ k) * (r + 2 ^ k) ≤ n then r + 2 ^ k else r)

def isqrt (n : Nat) : Nat := isqrtFrom n (bitLength n / 2 + 1) 0

/-- 1 / (m * 2^e) as a magnitude with a sticky low bit, and its exponent. -/
def recipParts (m : Nat) (e : Int) : Nat × Int :=
  let k := bitLength m + 64
  (2 * (2 ^ k / m) + (if 2 ^ k % m = 0 then 0 else 1), -e - k - 1)

/-- √(m * 2^e), likewise. -/
def sqrtParts (m : Nat) (e : Int) : Nat × Int :=
  let odd := e % 2 = 1
  let m := (if odd then 2 * m else m) * 2 ^ 128
  let r := isqrt m
  (2 * r + (if r * r = m then 0 else 1), ((if odd then e - 1 else e) - 128) / 2 - 1)

/-- 1 / √(m * 2^e), likewise, with whether it is exact. -/
def rsqrtParts (m : Nat) (e : Int) : Nat × Int × Bool :=
  let odd := e % 2 = 1
  let m := if odd then 2 * m else m
  let k := bitLength m / 2 + 80
  let r := isqrt (2 ^ (2 * k) / m)
  let exact := r * r * m = 2 ^ (2 * k)
  (2 * r + (if exact then 0 else 1), -((if odd then e - 1 else e) / 2) - k - 1, exact)

/-! ## Transcendental functions in fixed point (18 R389; log entry 12) -/

/-- Fraction bits of the fixed-point values below. -/
def fixBits : Nat := 256

/-- Sum of z^(2j+1)/(2j+1) for j from k on, with z2 = z^2 and p = z^(2k+1). -/
def atanhSeries (z2 : Nat) : Nat → Nat → Nat → Nat
  | 0, _, _ => 0
  | f + 1, k, p => p / (2 * k + 1) + atanhSeries z2 f (k + 1) (p * z2 / 2 ^ fixBits)

/-- ln(num/den) for 1 ≤ num/den ≤ 2. -/
def lnRatio (num den : Nat) : Nat :=
  let z := (num - den) * 2 ^ fixBits / (num + den)
  2 * atanhSeries (z * z / 2 ^ fixBits) 90 0 z

def ln2 : Nat := lnRatio 2 1

/-- Sum of y^j/j! from term k on. -/
def expSeries (y : Nat) : Nat → Nat → Nat → Nat
  | 0, _, _ => 0
  | f + 1, k, term => term + expSeries y f (k + 1) (term * y / 2 ^ fixBits / (k + 1))

/-- 2^(f / 2^fixBits) for a fraction. -/
def exp2Frac (f : Nat) : Nat := expSeries (f * ln2 / 2 ^ fixBits) 70 0 (2 ^ fixBits)

/-- Round to nearest-even at P significant bits with an unbounded exponent. -/
def roundSig (p m : Nat) (e : Int) : Nat × Int :=
  let q := e + bitLength m - p
  ((roundAt .nearest false m e q).1, q)

/-- The floor and the fraction, in fixed point, of (-1)^neg * m * 2^e. -/
def splitFix (neg : Bool) (m : Nat) (e : Int) : Int × Nat :=
  let u := e + fixBits
  let v : Int := if 0 ≤ u then (m * 2 ^ u.toNat : Nat) else (m / 2 ^ (-u).toNat : Nat)
  let v := if neg then -v else v
  (v / (2 ^ fixBits : Nat), (v % (2 ^ fixBits : Nat)).toNat)

/-- 2^a as a magnitude and exponent; far out of every format's range it stands at a power that overflows or underflows. -/
def exp2Parts (neg : Bool) (m : Nat) (e : Int) : Nat × Int :=
  if bitLength m + e > 12 then (1, if neg then -4096 else 4096)
  else
    let p := splitFix neg m e
    (exp2Frac p.2, p.1 - fixBits)

/-- log2 a: sign, magnitude, exponent. -/
def log2Parts (m : Nat) (e : Int) : Bool × Nat × Int :=
  let l := bitLength m - 1
  let frac := lnRatio m (2 ^ l) * 2 ^ fixBits / ln2
  let v : Int := (e + l) * (2 ^ fixBits : Nat) + frac
  (v < 0, v.natAbs, -(fixBits : Int))

/-- tanh |a| for |a| > 0. -/
def tanhParts (m : Nat) (e : Int) : Nat × Int :=
  if bitLength m + e < -40 then (m, e)
  else if bitLength m + e > 6 then (2 ^ 200 - 1, -200)
  else
    -- 2a / ln 2
    let x := m * 2 ^ (e + fixBits).toNat * 2
    let t := x * 2 ^ fixBits / ln2
    let n := t / 2 ^ fixBits
    let ex := exp2Frac (t % 2 ^ fixBits) * 2 ^ n
    ((ex - 2 ^ fixBits) * 2 ^ fixBits / (ex + 2 ^ fixBits), -(fixBits : Int))

/-- The functions of R389. -/
inductive TransFn where
  | rcp | rsq | sqrt | exp2 | log2 | tanh
  deriving DecidableEq, Repr

/-- The delivered result: y1 at p + 10 bits, then rounded to the format; `exact` says that f(a) is representable as y1. -/
def deliver (t : Ty) (rm : RMode) (neg : Bool) (m : Nat) (e : Int) (exact : Bool) : FRes :=
  let y := roundSig (fracBits t + 11) m e
  roundFrom t rm neg y.1 y.2 (!exact)

/-- An operation of R389 on one lane, with the special operands of R390. -/
def ftrans (f : TransFn) (t : Ty) (rm : RMode) (x : Nat) : FRes :=
  let inf := infBits t
  let one := (roundF t .nearest false 1 0).1
  match decodeF t x with
  | .nan s => (defaultNan t, if s then flagNV else 0)
  | .inf neg =>
    match f with
    | .rcp => (withSign t neg 0, 0)
    | .rsq => if neg then (defaultNan t, flagNV) else (0, 0)
    | .sqrt | .log2 => if neg then (defaultNan t, flagNV) else (inf, 0)
    | .exp2 => if neg then (0, 0) else (inf, 0)
    | .tanh => (withSign t neg one, 0)
  | .fin neg m e =>
    if m = 0 then
      match f with
      | .rcp | .rsq => (withSign t neg inf, flagDZ)
      | .sqrt | .tanh => (withSign t neg 0, 0)
      | .exp2 => (one, 0)
      | .log2 => (withSign t true inf, flagDZ)
    else
      match f with
      | .rcp => let p := recipParts m e; roundF t rm neg p.1 p.2
      | .sqrt => if neg then (defaultNan t, flagNV) else let p := sqrtParts m e; roundF t rm false p.1 p.2
      | .rsq => if neg then (defaultNan t, flagNV) else let p := rsqrtParts m e; deliver t rm false p.1 p.2.1 p.2.2
      | .exp2 => let p := exp2Parts neg m e; deliver t rm false p.1 p.2 ((roundAt .zero neg m e 0).2 = false)
      | .log2 =>
        if neg then (defaultNan t, flagNV)
        else
          let p := log2Parts m e
          if p.2.1 = 0 then (0, 0) else deliver t rm p.1 p.2.1 p.2.2 (m = 2 ^ (bitLength m - 1))
      | .tanh => let p := tanhParts m e; deliver t rm neg p.1 p.2 false

end Sys2Proof.Machine
end

