-- ==== Sys2Proof/Machine/Txb.lean ====
section
/-! DEFINITION. TXB blocks: elements and their values (07 R155, R156), quantisation (R157), push form (10 R211, R212). -/

namespace Sys2Proof.Machine

/-- Magnitude bits of an element (R155). -/
def magBits : Ty → Nat
  | .txb8 => 6
  | .txb6 => 4
  | _ => 2

/-- Element j of packed data: the packings of R155 lay elements end to end. -/
def packed (t : Ty) (data j : Nat) : Nat := data / 2 ^ (t.bits * j) % 2 ^ t.bits

/-- Sign, selector and magnitude of a TXB element. -/
def txbFields (t : Ty) (x : Nat) : Bool × Bool × Nat :=
  (x / 2 ^ (t.bits - 1) % 2 = 1, x / 2 ^ (t.bits - 2) % 2 = 1, x % 2 ^ magBits t)

def txbElem (t : Ty) (s q : Bool) (m : Nat) : Nat :=
  (if s then 2 ^ (t.bits - 1) else 0) + (if q then 2 ^ (t.bits - 2) else 0) + m

/-- Exponent of the grid spacing at E (R157). -/
def stepExp (t : Ty) (e : Nat) : Int := (e : Int) - 127 - (magBits t - 1 : Nat)

/-- Value of an element under its block's pair (R156); an invalid half-block reads as a NaN. -/
def txbValue (t : Ty) (pair : Nat × Nat) (x : Nat) : FVal :=
  let f := txbFields t x
  let e := if f.2.1 then pair.2 else pair.1
  if e = 255 then .nan false else if e = 0 then .fin f.1 0 0 else .fin f.1 f.2.2 (stepExp t e)

/-- Value of an element as an exact integer (10 R212), with NV. -/
def txbInt (t : Ty) (pair : Nat × Nat) (x : Nat) : Int × Bool :=
  let f := txbFields t x
  let e := if f.2.1 then pair.2 else pair.1
  if pair.2 < pair.1 ∨ pair.1 + 7 < pair.2 then (0, true)
  else if e = 255 then (0, true)
  else if e = 0 then (0, false)
  else
    let v : Int := (if f.2.1 then f.2.2 * 2 ^ (pair.2 - pair.1) else f.2.2 : Nat)
    (if f.1 then -v else v, false)

/-! ## Quantisation (R157) -/

/-- q(a, E) of a finite magnitude. -/
def quant (t : Ty) (m : Nat) (e : Int) (ex : Nat) : Nat := (roundAt .nearest false m e (stepExp t ex)).1

def quantFits (t : Ty) (m : Nat) (e : Int) (ex : Nat) : Bool := quant t m e ex < 2 ^ magBits t

/-- Smallest E at which a magnitude fits, 254 if none. -/
def fitExp (t : Ty) (m : Nat) (e : Int) : Nat := (((List.range 254).map (· + 1)).find? (quantFits t m e)).getD 254

/-- E1 of a block: the greatest need of its lanes that are on, 0 when every magnitude is zero. -/
def blockExp (t : Ty) (xs : List (FVal × Bool)) : Nat :=
  xs.foldl (fun a p => Nat.max a (if !p.2 then 0 else match p.1 with
    | .nan _ => 0
    | .inf _ => 254
    | .fin _ m e => if m = 0 then 0 else fitExp t m e)) 0

/-- One element of a block: its code and flags. The sign of a NaN does not matter. -/
def quantElem (t : Ty) (e0 e1 : Nat) (x : FVal) (on : Bool) : Nat × BitVec 5 :=
  if !on then (0, 0)
  else
    match x with
    | .nan _ => (txbElem t false true 0, flagNV)
    | .inf n => (txbElem t n true (2 ^ magBits t - 1), flagOF ||| flagNX)
    | .fin n m e =>
      if e1 = 0 then (txbElem t n false 0, 0)
      else
        let low := quantFits t m e e0
        let ex := if low then e0 else e1
        let k := quant t m e ex
        let sat := 2 ^ magBits t ≤ k
        let k := if sat then 2 ^ magBits t - 1 else k
        let d := stepExp t ex
        let lo := if d < e then d else e
        let inexact := k * 2 ^ (d - lo).toNat != m * 2 ^ (e - lo).toNat
        (txbElem t n (!low) k,
          (if sat then flagOF else 0) ||| (if inexact then flagNX else 0) ||| (if m != 0 && k = 0 then flagUF else 0))

/-- A block quantised with gap G: element codes, the pair (E0, E1), flags. -/
def quantBlock (t : Ty) (gap : Nat) (xs : List (FVal × Bool)) : List Nat × (Nat × Nat) × BitVec 5 :=
  let e1 := blockExp t xs
  let e0 := if e1 = 0 then 0 else Nat.max 1 (e1 - gap)
  let r := xs.map fun p => quantElem t e0 e1 p.1 p.2
  (r.map (·.1), (e0, e1), r.foldl (fun f p => f ||| p.2) 0)

/-! ## Push form (10 R211) -/

/-- Exponent pair j of a row in push form. -/
def rowPair (r : Nat) (j : Nat) : Nat × Nat := (r / 2 ^ (8 * (256 + 2 * j)) % 256, r / 2 ^ (8 * (257 + 2 * j)) % 256)

/-- An element as the matrix array reads it in floating point: a subnormal reads as a signed zero (07 R149). -/
def arrayValue (t : Ty) (x : Nat) : FVal :=
  match decodeF t x with
  | .fin n m e => if m < 2 ^ fracBits t then .fin n 0 e else .fin n m e
  | v => v

/-- The 128·KD elements of 256 bytes of data at their values. -/
def floatVals (f : PushFmt) (data : Nat) (pair : Nat → Nat × Nat) : List FVal :=
  (List.range (128 * f.kd)).map fun k =>
    let x := packed f.ty data k
    if f.ty.isTxb then txbValue f.ty (pair (k / 32)) x else arrayValue f.ty x

/-- The elements as exact integers, with NV. -/
def intVals (f : PushFmt) (data : Nat) (pair : Nat → Nat × Nat) : List (Int × Bool) :=
  (List.range (128 * f.kd)).map fun k =>
    let x := packed f.ty data k
    if f.ty.isTxb then txbInt f.ty (pair (k / 32)) x else (signedOf f.ty.bits x, false)

/-- Bytes of a row that push form names: element data, then the pairs (R211; 18 R396). -/
def pushByte (t : Ty) (i : Nat) : Bool := i < 16 * t.kd * t.bits || (256 ≤ i && i < 256 + 8 * t.kd)

end Sys2Proof.Machine
end

