-- ==== Sys2Proof/Machine/Operands.lean ====
section
/-! DEFINITION. Operand forms (05 R98 to R102), the own checks that vector instructions share (18 R377; 02 R39; 10 R221),
what a bundle reads and writes (02 R33), and how a vector result goes to its destinations (06 R146; 18 R378). -/

namespace Sys2Proof

/-! ## Fields of operand forms -/

def VHead.slot (h : VHead) : Slot := if h.vb then .vb else .va
def MHead.slot (h : MHead) : Slot := if h.vb then .vb else .va

def VSrc.rowNo : VSrc → Option Nat
  | .row n => some n
  | _ => none

def VSrc.headNo : VSrc → Option Nat
  | .head q => some q
  | _ => none

def VDst.rowNo : VDst → Option Nat
  | .row n => some n
  | _ => none

def VDst.portNo : VDst → Option Nat
  | .port q => some q
  | _ => none

/-- A destination of R33. -/
inductive Res where
  | s (n : Nat)
  | v (n : Nat)
  | m (n : Nat)
  | b (n : Nat)
  | wb (n : Nat)
  /-- A receive queue head. -/
  | q (n : Nat)
  deriving DecidableEq, Repr

def SSrc.res : SSrc → List Res
  | .s n => [.s n]
  | .latch n => [.b n]

def VSrc.res : VSrc → List Res
  | .row n => [.v n]
  | .latch n => [.b n]
  | .scalar n => [.s n]
  | .head n => [.q n]
  | _ => []

def VDst.res : VDst → List Res
  | .row n => [.v n]
  | _ => []

def SDst.res : SDst → List Res
  | .s n => [.s n]
  | .off => []

def RDst.res : RDst → List Res
  | .row n => [.v n]
  | .off => []

def VHead.res (h : VHead) : List Res := .m h.p.mask :: h.d.res

end Sys2Proof

namespace Sys2Proof.Machine

/-! ## Reading operands -/

/-- Element width of CTL.ACCT and its lane count (06 R132). -/
def Ctx.width (c : Ctx) : Nat := c.acct.bits
def Ctx.lanes (c : Ctx) : Nat := Sys2Proof.lanes c.acct

/-- A scalar operand (R100). -/
def Ctx.scalar (c : Ctx) : SSrc → Word
  | .s n => c.readS n
  | .latch n => (c.readB n).setWidth 64

/-- The row a head supplies at a lane width: lanes marked invalid read as zero (06 R138). -/
def Ctx.headRow (c : Ctx) (w q : Nat) : Row :=
  match (c.head q).skid with
  | m :: _ => mixRow w m.valid m.entry 0
  | [] => 0

/-- A vector source at a lane width, for a type that LANE takes (R98). -/
def Ctx.vector (c : Ctx) (ty : Ty) (w : Nat) : VSrc → Row
  | .row n => c.readRow n
  | .latch n => c.readB n
  | .head q => c.headRow w q
  | .scalar n => ofLanes w (List.replicate (4096 / w) ((c.readS n).toNat % 2 ^ w))
  | .zero => 0
  | .lane => ofLanes w ((List.range (4096 / w)).map (smallNat ty w))
  | .ones => BitVec.allOnes 4096

/-- A source of an instruction whose elements are of another type than its TYPE: a broadcast gives each lane the low bits at TYPE's width, and
the elements are read from the row so formed (R98; 18 R378; DEDUCED, log entry 26). LANE gives its values in the elements' own type and width: R98
does not say which of the two types counts for it (DESIGN CHOICE, log entry 26). -/
def Ctx.vectorOf (c : Ctx) (ty src : Ty) (w : Nat) : VSrc → Row
  | .scalar n => c.vector ty ty.bits (.scalar n)
  | v => c.vector src w v

/-- The lanes of a source. -/
def Ctx.vlanes (c : Ctx) (ty : Ty) (w : Nat) (v : VSrc) : List Nat := lanesOf w (c.vector ty w v)

/-- The on-mask of n lanes (R102, R146). -/
def Ctx.onMask (c : Ctx) (p : Pred) (n : Nat) : Mask := (if p.inv then ~~~(c.readM p.mask) else c.readM p.mask) &&& maskLow n

def onBits (m : Mask) (n : Nat) : List Bool := (List.range n).map (bit m)

/-- The rounding direction of a vector slot (07 R150). -/
def Ctx.rounding (c : Ctx) (h : VHead) : RMode :=
  match h.rm with
  | .slot =>
    match (if h.vb then field c.rnd 1 0 else field c.rnd 3 2) with
    | 0 => .nearest
    | 1 => .zero
    | 2 => .up
    | _ => .down
  | r => r

/-! ## Allotments -/

/-- The channel bound to a receive head or a send port of the context (03 R59). -/
def Ctx.recvChan (c : Ctx) (q : Nat) : Option Chan := c.pk.chans.find? fun e => e.rdx = c.dx && e.rdy = c.dy && e.rhead = q
def Ctx.sendChan (c : Ctx) (q : Nat) : Option Chan := c.pk.chans.find? fun e => e.sdx = c.dx && e.sdy = c.dy && e.sport = q

def Ctx.headOk (c : Ctx) (q : Nat) : Bool := q < c.pk.recvs && (c.recvChan q).isSome
def Ctx.portOk (c : Ctx) (q : Nat) : Bool := q < c.pk.sends && (c.sendChan q).isSome

/-- Rows, then heads and ports, within the allotment (18 R377 step 1). -/
def Ctx.allotChk (c : Ctx) (sl : Slot) (srcs : List VSrc) (dst : VDst) : Chk :=
  (Chk.need ((srcs.filterMap VSrc.rowNo ++ dst.rowNo.toList).all (· < c.pk.rows)) (trapOf 0x03 1 sl)).and
    (Chk.need ((srcs.filterMap VSrc.headNo).all c.headOk && dst.portNo.toList.all c.portOk) (trapOf 0x03 5 sl))

/-- The matrix handover: a source row that is matrix-pending (10 R221). -/
def Ctx.handover (c : Ctx) (sl : Slot) (srcs : List VSrc) : Chk :=
  Chk.need ((srcs.filterMap VSrc.rowNo).all fun r => !c.matrixPending r) (trapOf 0x02 1 sl)

/-! ## Queue heads (02 R37 to R39) -/

/-- The first wheel slot at or after a cycle. -/
def wheel (slots : BitVec 64) (t : Lc) : Lc :=
  match (List.range 64).find? fun i => bit slots ((t + BitVec.ofNat 48 i).toNat % 64) with
  | some i => t + BitVec.ofNat 48 i
  | none => t

/-- Departure of a message with a stamp after the departure before it (R38). -/
def departure (slots : BitVec 64) (last : Option Lc) (stamp : Lc) : Lc :=
  wheel slots (match last with
    | none => stamp
    | some d => if lcLt stamp (d + 1) then d + 1 else stamp)

/-- The checks of R39 on a head, at the program's lc. -/
def Ctx.headChk (c : Ctx) (sl : Slot) (q : Nat) : Chk :=
  match (c.head q).skid, c.recvChan q with
  | m :: _, some ch =>
    if m.seq ≠ (c.head q).next then trapOf 0x01 1 sl
    else if lcLt c.lcc (departure ch.slots (c.head q).lastDep m.stamp + BitVec.ofNat 48 ch.latency) then trapOf 0x01 2 sl
    else .ok
  | _, _ => .wait 2

def Ctx.headsChk (c : Ctx) (sl : Slot) (srcs : List VSrc) : Chk :=
  (srcs.filterMap VSrc.headNo).foldr (fun q r => (c.headChk sl q).and r) .ok

/-- A head advances: the front message goes and its departure is kept for the next due cycle (R38, R39). -/
def Ctx.popHead (c : Ctx) (q : Nat) : Ctx :=
  match (c.head q).skid, c.recvChan q with
  | m :: rest, some ch =>
    { c with heads := c.heads.write .empty q ⟨rest, m.seq + 1, some (departure ch.slots (c.head q).lastDep m.stamp)⟩ }
  | _, _ => c

/-- A pop returns the credit to the sender's port (R40). -/
def State.returnCredit (s : State) (c : Ctx) (q : Nat) : State :=
  match c.recvChan q with
  | none => s
  | some ch =>
    match s.groupKey c.grp ch.sdx ch.sdy with
    | none => s
    | some k => s.mapCtx k fun c =>
      let p := c.port ch.sport
      { c with ports := c.ports.write .empty ch.sport { p with credits := p.credits + 1 } }

/-- A send takes a credit at issue (R40). -/
def Ctx.takeCredit (c : Ctx) (d : VDst) : Ctx :=
  match d with
  | .port q => { c with ports := c.ports.write .empty q { c.port q with credits := (c.port q).credits - 1 } }
  | _ => c

/-! ## Vector instructions -/

/-- The own checks of a vector instruction that names no tensor (18 R377). -/
def vecOwn (sl : Slot) (srcs : List VSrc) (dst : VDst) (_ : State) (_ : Nat) (c : Ctx) : Chk :=
  (c.allotChk sl srcs dst).and ((c.handover sl srcs).and (c.headsChk sl srcs))

def vecNeed (dst : VDst) (_ : State) (_ : Nat) (_ : Ctx) : Need := { Need.none with port := dst.portNo }

/-- What a vector instruction computes: the row with zero in every lane it does not deliver, the lanes written to a row,
the width of those lanes, the lane-valid mask of a message, and flags. -/
structure VOut where
  row   : Row
  lanes : Mask
  width : Nat
  valid : Mask
  flags : BitVec 5

/-- Send a vector result to its row, port or latch (06 R134, R146; 18 R378). -/
def State.deliver (s : State) (key : Nat) (sl : Slot) (latency : Nat) (d : VDst) (o : VOut) : State :=
  match d with
  | .row n => s.produce key sl latency (.row n o.width) true o.lanes o.row o.flags
  | .port q => (s.mapCtx key fun c => c.takeCredit d).produce key sl latency (.port q) true o.valid o.row o.flags
  | .off => s.produce key sl latency .latchOnly true o.lanes o.row o.flags

/-- A vector instruction over its computation. -/
def vecOp (h : VHead) (srcs : List VSrc) (latency : Ctx → Nat) (f : Ctx → VOut) : SlotOp where
  own := vecOwn h.slot srcs h.d
  need := vecNeed h.d
  effect := fun s key c => s.deliver key h.slot (latency c) h.d (f c)

/-- Latency "2; F 4" of R379. -/
def aluLatency (ty : Ty) (_ : Ctx) : Nat := if ty.isF then 4 else 2

/-- Results of the lanes that are on, zero elsewhere, with the flags of those lanes (use "write" of R378). -/
def laneResults (on : Mask) (w : Nat) (rs : List FRes) : Row × BitVec 5 :=
  let l := (List.range rs.length).zipWith (fun i r => if bit on i then r else (0, 0)) rs
  (ofLanes w (l.map (·.1)), l.foldl (fun f r => f ||| r.2) 0)

/-- Use "write": f gives every lane's result. -/
def writeOut (h : VHead) (c : Ctx) (f : Ctx → List FRes) : VOut :=
  let on := c.onMask h.p c.lanes
  let r := laneResults on c.width (f c)
  ⟨r.1, on, c.width, on, r.2⟩

/-- Uses "select" and "none": the whole row is written. -/
def wholeOut (c : Ctx) (r : Row) (flags : BitVec 5) : VOut := ⟨r, maskLow c.lanes, c.width, maskLow c.lanes, flags⟩

/-! ## What a bundle reads and writes (02 R33) -/

/-- Registers that an instruction reads or writes, its latch apart. Index scalars run from IS over the tensor's rank. -/
def touches (c : Ctx) : Instr → List Res
  | .add d a b | .sub d a b | .mul d a b | .and d a b | .andn d a b | .or d a b | .xor d a b | .shl d a b | .shr d a b
  | .sar d a b | .rotl d a b => d.res ++ a.res ++ b.res
  | .mulh _ d a b | .div _ d a b | .mod _ d a b | .min _ d a b | .max _ d a b => d.res ++ a.res ++ b.res
  | .cmp _ _ d a b => d.res ++ a.res ++ b.res
  | .addImm d a _ | .subImm d a _ | .mulImm d a _ | .andImm d a _ | .andnImm d a _ | .orImm d a _ | .xorImm d a _
  | .shlImm d a _ | .shrImm d a _ | .sarImm d a _ | .rotlImm d a _ => d.res ++ a.res
  | .mulhImm _ d a _ | .divImm _ d a _ | .modImm _ d a _ | .minImm _ d a _ | .maxImm _ d a _ => d.res ++ a.res
  | .cmpImm _ _ d a _ => d.res ++ a.res
  | .sel d a b e => d.res ++ a.res ++ b.res ++ e.res
  | .mov d a | .clz d a | .ctz d a | .popc d a | .bswap d a | .sext _ d a | .zext _ d a => d.res ++ a.res
  | .li d _ => d.res
  | .lih d _ => d.res ++ d.res
  | .brc _ a _ | .loopReg a _ | .stg _ a | .sps a _ | .sysw _ a => a.res
  | .bl _ | .ret => [.s 63]
  | .gts d _ | .spl d _ | .sysr d _ => d.res
  | .vadd h a b | .vsub h a b | .vmul h a b | .vmin h a b | .vmax h a b | .vabd h a b | .vsel h a b | .vand h a b
  | .vor h a b | .vxor h a b | .vandn h a b | .vshl h a b | .vshr h a b | .vsar h a b | .vperm h a b => h.res ++ a.res ++ b.res
  | .vclmul _ h a b | .vins _ h a b | .vslide _ h a b | .vpack _ _ h a b | .vqtxb _ _ h a b | .vdqtxb _ _ h a b =>
    h.res ++ a.res ++ b.res
  | .vfma h a b e | .vfms h a b e | .vfnma h a b e | .vrng h a b e => h.res ++ a.res ++ b.res ++ e.res
  | .vabs h a | .vneg h a | .vnot h a | .vpopc h a | .vclz h a | .vrcp h a | .vrsq h a | .vsqrt h a | .vexp2 h a
  | .vlog2 h a | .vtanh h a | .vsum h a | .vmaxr h a | .vmov h a | .vcmpr h a => h.res ++ a.res
  | .vcvt _ h a | .vscan _ h a | .vbcast _ h a | .vext _ h a | .vunpk _ _ h a => h.res ++ a.res
  | .viota h => h.res
  | .vcmp h _ _ a b => [.m h.p.mask, .m h.d] ++ a.res ++ b.res
  | .mand h a b | .mor h a b | .mxor h a b => [.m h.p.mask, .m h.d, .m a, .m b]
  | .mnot h a => [.m h.p.mask, .m h.d, .m a]
  | .mset h _ => [.m h.p.mask, .m h.d]
  | .mpopc h a | .mfirst h a => .m a :: h.res
  | .mma _ wb a d _ _ => [.v a, .v d, .wb (if wb then 1 else 0)]
  | .mmaVirtual _ wb _ d _ _ => [.v d, .wb (if wb then 1 else 0)]
  | .mwld wb _ _ _ => [.wb (if wb then 1 else 0)]
  | .macz d n => (List.range n).map fun i => .v (d + i)
  | .xpush a => a.res
  | .xpop d => d.res
  | .ld _ _ d _ bs _ => .s bs :: d.res
  | .vld _ d _ bs _ p => .s bs :: .m p.mask :: d.res
  | .vldt _ d tn is mr p => ((List.range (c.tensor tn).desc.rank).map fun i => .s (is + i)) ++ [.m p.mask, .m mr] ++ d.res
  | .vgath _ d _ ix mr p => ix.res ++ [.m p.mask, .m mr] ++ d.res
  | .st _ _ v _ bs _ => .s bs :: v.res
  | .vst _ v _ bs _ p => .s bs :: .m p.mask :: v.res
  | .vstt _ v tn is p => ((List.range (c.tensor tn).desc.rank).map fun i => .s (is + i)) ++ .m p.mask :: v.res
  | .vscat _ v _ ix p => ix.res ++ .m p.mask :: v.res
  | .atom _ _ _ rd _ => [.s rd]
  | _ => []

/-- The head of a vector instruction that delivers a row. -/
def vectorHead : Instr → Option VHead
  | .vadd h _ _ | .vsub h _ _ | .vmul h _ _ | .vmin h _ _ | .vmax h _ _ | .vabd h _ _ | .vsel h _ _ | .vand h _ _ | .vor h _ _
  | .vxor h _ _ | .vandn h _ _ | .vshl h _ _ | .vshr h _ _ | .vsar h _ _ | .vperm h _ _ | .vclmul _ h _ _ | .vins _ h _ _
  | .vslide _ h _ _ | .vpack _ _ h _ _ | .vqtxb _ _ h _ _ | .vdqtxb _ _ h _ _ | .vfma h _ _ _ | .vfms h _ _ _ | .vfnma h _ _ _
  | .vrng h _ _ _ | .vabs h _ | .vneg h _ | .vnot h _ | .vpopc h _ | .vclz h _ | .vrcp h _ | .vrsq h _ | .vsqrt h _ | .vexp2 h _
  | .vlog2 h _ | .vtanh h _ | .vsum h _ | .vmaxr h _ | .vmov h _ | .vcmpr h _ | .vcvt _ h _ | .vscan _ h _ | .vbcast _ h _
  | .vext _ h _ | .vunpk _ _ h _ | .viota h | .mpopc h _ | .mfirst h _ => some h
  | _ => none

/-- Rows and weight buffers that an instruction writes without reading them. -/
def writesOnly : Instr → List Res
  | .mma _ _ _ d acc _ | .mmaVirtual _ _ _ d acc _ => if acc then [] else [.v d]
  | .mwld wb _ _ _ => [.wb (if wb then 1 else 0)]
  | .macz d n => (List.range n).map fun i => .v (d + i)
  | .xpop d => d.res
  | .vld _ d _ _ _ _ | .vldt _ d _ _ _ _ | .vgath _ d _ _ _ _ => d.res
  | i => ((vectorHead i).map fun h => h.d.res).getD []

/-- Rows, weight buffers and heads that an instruction reads. -/
def readsOf (c : Ctx) (i : Instr) : List Res := (writesOnly i).foldl List.erase (touches c i)

/-- Whether an instruction produces a result in its slot's latch ring (06 R134). -/
def producesLatch : Instr → Bool
  | .add .. | .sub .. | .mul .. | .mulh .. | .div .. | .mod .. | .and .. | .andn .. | .or .. | .xor .. | .shl .. | .shr ..
  | .sar .. | .rotl .. | .min .. | .max .. | .cmp .. | .addImm .. | .subImm .. | .mulImm .. | .mulhImm .. | .divImm ..
  | .modImm .. | .andImm .. | .andnImm .. | .orImm .. | .xorImm .. | .shlImm .. | .shrImm .. | .sarImm .. | .rotlImm ..
  | .minImm .. | .maxImm .. | .cmpImm .. | .sel .. | .mov .. | .clz .. | .ctz .. | .popc .. | .bswap .. | .sext .. | .zext ..
  | .li .. | .lih .. | .gts .. | .spl .. | .sysr .. => true
  | .vcmp .. | .mand .. | .mor .. | .mxor .. | .mnot .. | .mset .. => false
  | .ld .. | .vld .. | .vldt .. | .vgath .. => true
  | i => i.slot = .va || i.slot = .vb

/-- Registers and latch that an instruction of a bundle reads or writes. -/
def bundleRes (c : Ctx) (i : Instr) : List Res :=
  touches c i ++ (if producesLatch i then (c.nextLatch i.slot).toList.map .b else [])

/-! ### Unfolding (10 R218) -/

/-- The unfolding state that e20 to e22 describe (R218). -/
def unfoldOf (h : Nat) (e20 e21 e22 : Word) : Unfold where
  h := h
  c := field e20 47 32
  iw := field e20 31 16
  ih := field e20 15 0
  px := field e21 63 56
  py := field e21 55 48
  dx := field e21 47 40
  dy := field e21 39 32
  sx := field e21 31 24
  sy := field e21 23 16
  kw := field e21 15 8
  kh := field e21 7 0
  offb := field e22 31 0

/-- Element size of the activation: the footprint is checked for the accumulator type in use (DEDUCED, log entry 14). -/
def Ctx.unfoldBytes (c : Ctx) : Nat := if c.acct = .i32 then 1 else 2

/-- The bytes of the handle that an unfolding state covers. -/
def Ctx.unfoldRun (c : Ctx) (u : Unfold) : Nat × Nat × Nat := (u.h, u.offb, u.ih * u.iw * u.c * c.unfoldBytes)

/-! ### Handles and pending results -/

/-- A handle that an instruction reads or writes, with its bytes (first, count): all of it for a tensor. -/
def handleRun (c : Ctx) : Instr → List (Nat × Nat × Nat)
  | .ld _ ty _ h bs off | .st _ ty _ h bs off => [(h, (c.readS bs).toNat + off, ty.bits / 8)]
  | .vld _ _ h bs off _ | .vst _ _ h bs off _ => [(h, (c.readS bs).toNat + 64 * off, 512)]
  | .vldt _ _ tn .. | .vgath _ _ tn .. | .vstt _ _ tn .. | .vscat _ _ tn .. =>
    match (c.tensor tn).desc.handle with
    | some h => [(h, 0, (c.handle h).desc.size)]
    | none => []
  | .munf h => [c.unfoldRun (unfoldOf h (c.readE 20) (c.readE 21) (c.readE 22))]
  | .mmaVirtual .. => c.unf.toList.map c.unfoldRun
  | _ => []

/-- Whether a destination of a pending result is one that an instruction touches. -/
def Pend.meets (p : Pend) (c : Ctx) (i : Instr) : Bool :=
  let rs := bundleRes c i
  (match p.act with
    | some (.scalar d) => rs.contains (.s d)
    | some (.row d _) => rs.contains (.v d)
    | _ => false)
  || (match p.latch with | some b => rs.contains (.b b) | none => false)
  || (match p.mres with | some m => rs.contains (.m m) | none => false)
  || (match p.wb with | some b => rs.contains (.wb b) | none => false)
  || (match p.gran with
    | some (h, gs) => (handleRun c i).any fun r => r.1 = h && gs.any fun g => r.2.1 < 4096 * (g + 1) && 4096 * g < r.2.1 + r.2.2
    | none => false)

/-- Whether a result in flight lands in a destination of a pending result. -/
def Pend.sharesWith (p : Pend) (f : Inflight) : Bool :=
  (match p.act, f.act with
    | some (.scalar d), .scalar e => d = e
    | some (.row d _), .row e _ => d = e
    | some (.row d _), .mx e _ => d = e
    | some (.row d _), .macz e n => e ≤ d && d < e + n
    | _, _ => false)
  || (match p.latch, f.latch with | some a, some b => a = b | _, _ => false)
  || (match p.mres, f.act with | some m, .mask d => m = d | _, _ => false)
  || (match p.gran, f.act with
    | some (h, gs), .hbytes k off => h = k && gs.any fun g => off < 4096 * (g + 1) && 4096 * g < off + 512
    | some _, .tstore .. => true
    | _, _ => false)

/-! ## Poisoned units of a context (14 R279, R280) -/

/-- Bytes that a run from a place of n bytes shares with a 64-byte unit. -/
def unitShare (u off n : Nat) : Nat := Nat.min (64 * u + 64) (off + n) - Nat.max (64 * u) off

/-- A read of a handle's bytes meets a poisoned unit. -/
def Ctx.handleBad (c : Ctx) (h off n : Nat) : Bool :=
  c.bad.any fun b => match b with
    | .handle k u => k = h && 0 < unitShare u off n
    | _ => false

/-- A write of a handle's bytes covers a poisoned unit in part. -/
def Ctx.handleTorn (c : Ctx) (h off n : Nat) : Bool :=
  c.bad.any fun b => match b with
    | .handle k u => k = h && 0 < unitShare u off n && unitShare u off n < 64
    | _ => false

/-- Bytes of a unit that a result writes. A push that accumulates reads what it writes, so that it never covers the unit. -/
def Inflight.share (f : Inflight) : CUnit → Nat
  | .row e u => match f.act with
    | .row d w => if d = e then ((List.range 64).filter fun j => bit f.mask ((64 * u + j) * 8 / w)).length else 0
    | .mx d p => if d = e then (match p with | .row _ => 64 | _ => 1) else 0
    | .macz d n => if d ≤ e && e < d + n then 64 else 0
    | _ => 0
  | .handle k u => match f.act with
    | .hbytes h off => if h = k then ((List.range 512).filter fun j => bit f.mask j && (off + j) / 64 = u).length else 0
    | .tstore _ _ _ h (some runs) => if h = k then (runs.map fun r => unitShare u r.2.1 r.2.2).foldl (· + ·) 0 else 0
    | _ => 0
  | .spill u => match f.act with
    | .spill i => if f.prog && i / 8 = u then 8 else 0
    | _ => 0
  | .scratch u => match f.act with
    | .spill i => if !f.prog && i / 8 = u then 8 else 0
    | _ => 0
  | _ => 0

/-- The units that a landing result writes whole are no longer poisoned, and hold no bit in error. -/
def Ctx.cleanUnits (c : Ctx) (whole : CUnit → Bool) : Ctx :=
  if c.bad.isEmpty && c.flaws.isEmpty then c
  else { c with bad := c.bad.filter fun b => !whole b, flaws := c.flaws.filter fun p => !whole p.1 }

/-- Units of a context that hold bits in error and that an access meets are put right, and each is logged (14 R279). -/
def State.correctUnits (s : State) (key : Nat) (met : CUnit → Bool) : State :=
  match s.ctx? key with
  | none => s
  | some c =>
    let l := c.flaws.filter fun p => met p.1
    if l.isEmpty then s
    else l.foldl (fun s _ => s.correctable (s.unitOf (keyTile key))) (s.setCtx key { c with flaws := c.flaws.filter fun p => !met p.1 })

/-- Units of a handle that a read of a run meets, and those that a write of it covers in part. -/
def CUnit.metBy (h off n : Nat) : CUnit → Bool
  | .handle k u => k = h && 0 < unitShare u off n
  | _ => false
def CUnit.cutBy (h off n : Nat) (b : CUnit) : Bool :=
  b.metBy h off n && match b with
    | .handle _ u => unitShare u off n < 64
    | _ => false

/-- Whether two pending results share a destination (R33, R34). -/
def Pend.shares (p q : Pend) : Bool :=
  (match p.act, q.act with
    | some (.scalar d), some (.scalar e) => d = e
    | some (.row d _), some (.row e _) => d = e
    | _, _ => false)
  || (match p.latch, q.latch with | some a, some b => a = b | _, _ => false)
  || (match p.mres, q.mres with | some a, some b => a = b | _, _ => false)
  || (match p.wb, q.wb with | some a, some b => a = b | _, _ => false)
  || (match p.gran, q.gran with | some (h, gs), some (k, hs) => h = k && gs.any hs.contains | _, _ => false)

end Sys2Proof.Machine
end

