-- ==== Sys2Proof/Machine/Scalar.lean ====
section
/-! DEFINITION. The scalar slot's arithmetic (16 R312, R313, R320, R321, R331, R341; 17 R350, R356, R366; 18 R409). -/

namespace Sys2Proof.Machine

/-- Where a scalar result goes: its register, or the S latch alone (R312). -/
def scalarAct : SDst → Act
  | .s n => .scalar n
  | .off => .latchOnly

/-- A scalar instruction that lands one value and flags in its register and the S latch (R312). -/
def scalarOp (d : SDst) (latency : Nat) (f : Ctx → Word × BitVec 5) : SlotOp where
  own := noCheck
  need := noNeed
  effect := fun s key c => s.produce key .s latency (scalarAct d) true 0 ((f c).1.setWidth 4096) (f c).2

/-- Two-operand register form without flags. -/
def regOp (d : SDst) (latency : Nat) (a b : SSrc) (f : Word → Word → Word) : SlotOp :=
  scalarOp d latency fun c => (f (c.scalar a) (c.scalar b), 0)

/-- Two-operand immediate form without flags. -/
def immOp (d : SDst) (latency : Nat) (a : SSrc) (imm : BitVec 32) (f : Word → Word → Word) : SlotOp :=
  scalarOp d latency fun c => (f (c.scalar a) (imm.signExtend 64), 0)

/-- One-operand form without flags (R320, R356). -/
def oneOp (d : SDst) (a : SSrc) (f : Word → Word) : SlotOp := scalarOp d 1 fun c => (f (c.scalar a), 0)

/-! ## Results -/

/-- Bits [127:64] of the exact product (R350). -/
def mulHigh (u : Bool) (a b : Word) : Word :=
  if u then BitVec.ofNat 64 (a.toNat * b.toNat / 2 ^ 64) else BitVec.ofInt 64 (a.toInt * b.toInt / (2 ^ 64 : Nat))

/-- Quotient with its flags (R331). -/
def divide (u : Bool) (a b : Word) : Word × BitVec 5 :=
  if b = 0 then (BitVec.allOnes 64, flagDZ)
  else if u then (BitVec.ofNat 64 (a.toNat / b.toNat), 0)
  else if a.toInt = -(2 ^ 63) ∧ b.toInt = -1 then (a, flagNV)
  else (BitVec.ofInt 64 (a.toInt.tdiv b.toInt), 0)

/-- Remainder with its flags (R331). -/
def remainder (u : Bool) (a b : Word) : Word × BitVec 5 :=
  if b = 0 then (a, flagDZ)
  else if u then (BitVec.ofNat 64 (a.toNat % b.toNat), 0)
  else (BitVec.ofInt 64 (a.toInt.tmod b.toInt), 0)

/-- a is less than b under a signedness. -/
def scalarLt (u : Bool) (a b : Word) : Bool := if u then a.toNat < b.toNat else a.toInt < b.toInt

def scalarMin (u : Bool) (a b : Word) : Word := if scalarLt u b a then b else a
def scalarMax (u : Bool) (a b : Word) : Word := if scalarLt u a b then b else a

/-- Whether a condition of CMP holds (R321). -/
def condHolds (u : Bool) (a b : Word) : Cond → Bool
  | .eq => a = b
  | .ne => a != b
  | .lt => scalarLt u a b
  | .ge => !scalarLt u a b
  | .le => !scalarLt u b a
  | .gt => scalarLt u b a

/-- CMP (R321). -/
def compare (c : Cond) (u : Bool) (a b : Word) : Word := if condHolds u a b c then 1 else 0

/-- Shift amount: bits [5:0] of b (R350). -/
def amount (b : Word) : Nat := b.toNat % 64

def popCount (v : Nat) : Nat → Nat
  | 0 => 0
  | n + 1 => v / 2 ^ n % 2 + popCount v n

/-- Zero bits above the highest one bit, of w. -/
def leadingZeros (w v : Nat) : Nat := w - bitLength v

/-- Zero bits below the lowest one bit, of w (R320). -/
def trailingZeros (w v : Nat) : Nat := ((List.range w).find? fun k => v / 2 ^ k % 2 = 1).getD w

/-- The bytes in reverse order (R320). -/
def byteSwap (a : Word) : Word := BitVec.ofNat 64 (numOf (bytesOf 8 a.toNat).reverse)

/-- The low w bits sign-extended (R356). -/
def signExt (w : Nat) (a : Word) : Word := BitVec.ofInt 64 (signedOf w a.toNat)

/-- The low w bits zero-extended (R356). -/
def zeroExt (w : Nat) (a : Word) : Word := BitVec.ofNat 64 (a.toNat % 2 ^ w)

/-! ## Instructions -/

/-- ADD, register form (R313). -/
def addOp (d : SDst) (a b : SSrc) : SlotOp := regOp d 1 a b fun a b => a + b
def execAdd (d : SDst) (a b : SSrc) (s : State) : Host.Outcome State Fault Refusal :=
  issueSlot (.add d a b) (addOp d a b) s

/-- ADD, immediate form (R313, R312). -/
def addImmOp (d : SDst) (a : SSrc) (imm : BitVec 32) : SlotOp := immOp d 1 a imm fun a b => a + b
def execAddImm (d : SDst) (a : SSrc) (imm : BitVec 32) (s : State) : Host.Outcome State Fault Refusal :=
  issueSlot (.addImm d a imm) (addImmOp d a imm) s

/-- SUB, register form (R350). -/
def subOp (d : SDst) (a b : SSrc) : SlotOp := regOp d 1 a b fun a b => a - b
def execSub (d : SDst) (a b : SSrc) (s : State) : Host.Outcome State Fault Refusal :=
  issueSlot (.sub d a b) (subOp d a b) s

/-- SUB, immediate form (R350, R312). -/
def subImmOp (d : SDst) (a : SSrc) (imm : BitVec 32) : SlotOp := immOp d 1 a imm fun a b => a - b
def execSubImm (d : SDst) (a : SSrc) (imm : BitVec 32) (s : State) : Host.Outcome State Fault Refusal :=
  issueSlot (.subImm d a imm) (subImmOp d a imm) s

/-- MUL, register form (R350). -/
def mulOp (d : SDst) (a b : SSrc) : SlotOp := regOp d 3 a b fun a b => a * b
def execMul (d : SDst) (a b : SSrc) (s : State) : Host.Outcome State Fault Refusal :=
  issueSlot (.mul d a b) (mulOp d a b) s

/-- MUL, immediate form (R350, R312). -/
def mulImmOp (d : SDst) (a : SSrc) (imm : BitVec 32) : SlotOp := immOp d 3 a imm fun a b => a * b
def execMulImm (d : SDst) (a : SSrc) (imm : BitVec 32) (s : State) : Host.Outcome State Fault Refusal :=
  issueSlot (.mulImm d a imm) (mulImmOp d a imm) s

/-- MULH, register form (R350). -/
def mulhOp (u : Bool) (d : SDst) (a b : SSrc) : SlotOp := regOp d 3 a b (mulHigh u)
def execMulh (u : Bool) (d : SDst) (a b : SSrc) (s : State) : Host.Outcome State Fault Refusal :=
  issueSlot (.mulh u d a b) (mulhOp u d a b) s

/-- MULH, immediate form (R350, R312). -/
def mulhImmOp (u : Bool) (d : SDst) (a : SSrc) (imm : BitVec 32) : SlotOp := immOp d 3 a imm (mulHigh u)
def execMulhImm (u : Bool) (d : SDst) (a : SSrc) (imm : BitVec 32) (s : State) : Host.Outcome State Fault Refusal :=
  issueSlot (.mulhImm u d a imm) (mulhImmOp u d a imm) s

/-- DIV, register form (R331). -/
def divOp (u : Bool) (d : SDst) (a b : SSrc) : SlotOp := scalarOp d 16 fun c => divide u (c.scalar a) (c.scalar b)
def execDiv (u : Bool) (d : SDst) (a b : SSrc) (s : State) : Host.Outcome State Fault Refusal :=
  issueSlot (.div u d a b) (divOp u d a b) s

/-- DIV, immediate form (R331, R312). -/
def divImmOp (u : Bool) (d : SDst) (a : SSrc) (imm : BitVec 32) : SlotOp := scalarOp d 16 fun c => divide u (c.scalar a) (imm.signExtend 64)
def execDivImm (u : Bool) (d : SDst) (a : SSrc) (imm : BitVec 32) (s : State) : Host.Outcome State Fault Refusal :=
  issueSlot (.divImm u d a imm) (divImmOp u d a imm) s

/-- MOD, register form (R331). -/
def modOp (u : Bool) (d : SDst) (a b : SSrc) : SlotOp := scalarOp d 16 fun c => remainder u (c.scalar a) (c.scalar b)
def execMod (u : Bool) (d : SDst) (a b : SSrc) (s : State) : Host.Outcome State Fault Refusal :=
  issueSlot (.mod u d a b) (modOp u d a b) s

/-- MOD, immediate form (R331, R312). -/
def modImmOp (u : Bool) (d : SDst) (a : SSrc) (imm : BitVec 32) : SlotOp := scalarOp d 16 fun c => remainder u (c.scalar a) (imm.signExtend 64)
def execModImm (u : Bool) (d : SDst) (a : SSrc) (imm : BitVec 32) (s : State) : Host.Outcome State Fault Refusal :=
  issueSlot (.modImm u d a imm) (modImmOp u d a imm) s

/-- AND, register form (R313). -/
def andOp (d : SDst) (a b : SSrc) : SlotOp := regOp d 1 a b fun a b => a &&& b
def execAnd (d : SDst) (a b : SSrc) (s : State) : Host.Outcome State Fault Refusal :=
  issueSlot (.and d a b) (andOp d a b) s

/-- AND, immediate form (R313, R312). -/
def andImmOp (d : SDst) (a : SSrc) (imm : BitVec 32) : SlotOp := immOp d 1 a imm fun a b => a &&& b
def execAndImm (d : SDst) (a : SSrc) (imm : BitVec 32) (s : State) : Host.Outcome State Fault Refusal :=
  issueSlot (.andImm d a imm) (andImmOp d a imm) s

/-- ANDN, register form (R313). -/
def andnOp (d : SDst) (a b : SSrc) : SlotOp := regOp d 1 a b fun a b => a &&& ~~~b
def execAndn (d : SDst) (a b : SSrc) (s : State) : Host.Outcome State Fault Refusal :=
  issueSlot (.andn d a b) (andnOp d a b) s

/-- ANDN, immediate form (R313, R312). -/
def andnImmOp (d : SDst) (a : SSrc) (imm : BitVec 32) : SlotOp := immOp d 1 a imm fun a b => a &&& ~~~b
def execAndnImm (d : SDst) (a : SSrc) (imm : BitVec 32) (s : State) : Host.Outcome State Fault Refusal :=
  issueSlot (.andnImm d a imm) (andnImmOp d a imm) s

/-- OR, register form (R350). -/
def orOp (d : SDst) (a b : SSrc) : SlotOp := regOp d 1 a b fun a b => a ||| b
def execOr (d : SDst) (a b : SSrc) (s : State) : Host.Outcome State Fault Refusal :=
  issueSlot (.or d a b) (orOp d a b) s

/-- OR, immediate form (R350, R312). -/
def orImmOp (d : SDst) (a : SSrc) (imm : BitVec 32) : SlotOp := immOp d 1 a imm fun a b => a ||| b
def execOrImm (d : SDst) (a : SSrc) (imm : BitVec 32) (s : State) : Host.Outcome State Fault Refusal :=
  issueSlot (.orImm d a imm) (orImmOp d a imm) s

/-- XOR, register form (R409). -/
def xorOp (d : SDst) (a b : SSrc) : SlotOp := regOp d 1 a b fun a b => a ^^^ b
def execXor (d : SDst) (a b : SSrc) (s : State) : Host.Outcome State Fault Refusal :=
  issueSlot (.xor d a b) (xorOp d a b) s

/-- XOR, immediate form (R409, R312). -/
def xorImmOp (d : SDst) (a : SSrc) (imm : BitVec 32) : SlotOp := immOp d 1 a imm fun a b => a ^^^ b
def execXorImm (d : SDst) (a : SSrc) (imm : BitVec 32) (s : State) : Host.Outcome State Fault Refusal :=
  issueSlot (.xorImm d a imm) (xorImmOp d a imm) s

/-- SHL, register form (R350). -/
def shlOp (d : SDst) (a b : SSrc) : SlotOp := regOp d 1 a b fun a b => a <<< amount b
def execShl (d : SDst) (a b : SSrc) (s : State) : Host.Outcome State Fault Refusal :=
  issueSlot (.shl d a b) (shlOp d a b) s

/-- SHL, immediate form (R350, R312). -/
def shlImmOp (d : SDst) (a : SSrc) (imm : BitVec 32) : SlotOp := immOp d 1 a imm fun a b => a <<< amount b
def execShlImm (d : SDst) (a : SSrc) (imm : BitVec 32) (s : State) : Host.Outcome State Fault Refusal :=
  issueSlot (.shlImm d a imm) (shlImmOp d a imm) s

/-- SHR, register form (R350). -/
def shrOp (d : SDst) (a b : SSrc) : SlotOp := regOp d 1 a b fun a b => a >>> amount b
def execShr (d : SDst) (a b : SSrc) (s : State) : Host.Outcome State Fault Refusal :=
  issueSlot (.shr d a b) (shrOp d a b) s

/-- SHR, immediate form (R350, R312). -/
def shrImmOp (d : SDst) (a : SSrc) (imm : BitVec 32) : SlotOp := immOp d 1 a imm fun a b => a >>> amount b
def execShrImm (d : SDst) (a : SSrc) (imm : BitVec 32) (s : State) : Host.Outcome State Fault Refusal :=
  issueSlot (.shrImm d a imm) (shrImmOp d a imm) s

/-- SAR, register form (R350). -/
def sarOp (d : SDst) (a b : SSrc) : SlotOp := regOp d 1 a b fun a b => a.sshiftRight (amount b)
def execSar (d : SDst) (a b : SSrc) (s : State) : Host.Outcome State Fault Refusal :=
  issueSlot (.sar d a b) (sarOp d a b) s

/-- SAR, immediate form (R350, R312). -/
def sarImmOp (d : SDst) (a : SSrc) (imm : BitVec 32) : SlotOp := immOp d 1 a imm fun a b => a.sshiftRight (amount b)
def execSarImm (d : SDst) (a : SSrc) (imm : BitVec 32) (s : State) : Host.Outcome State Fault Refusal :=
  issueSlot (.sarImm d a imm) (sarImmOp d a imm) s

/-- ROTL, register form (R350). -/
def rotlOp (d : SDst) (a b : SSrc) : SlotOp := regOp d 1 a b fun a b => a.rotateLeft (amount b)
def execRotl (d : SDst) (a b : SSrc) (s : State) : Host.Outcome State Fault Refusal :=
  issueSlot (.rotl d a b) (rotlOp d a b) s

/-- ROTL, immediate form (R350, R312). -/
def rotlImmOp (d : SDst) (a : SSrc) (imm : BitVec 32) : SlotOp := immOp d 1 a imm fun a b => a.rotateLeft (amount b)
def execRotlImm (d : SDst) (a : SSrc) (imm : BitVec 32) (s : State) : Host.Outcome State Fault Refusal :=
  issueSlot (.rotlImm d a imm) (rotlImmOp d a imm) s

/-- MIN, register form (R350). -/
def minOp (u : Bool) (d : SDst) (a b : SSrc) : SlotOp := regOp d 1 a b (scalarMin u)
def execMin (u : Bool) (d : SDst) (a b : SSrc) (s : State) : Host.Outcome State Fault Refusal :=
  issueSlot (.min u d a b) (minOp u d a b) s

/-- MIN, immediate form (R350, R312). -/
def minImmOp (u : Bool) (d : SDst) (a : SSrc) (imm : BitVec 32) : SlotOp := immOp d 1 a imm (scalarMin u)
def execMinImm (u : Bool) (d : SDst) (a : SSrc) (imm : BitVec 32) (s : State) : Host.Outcome State Fault Refusal :=
  issueSlot (.minImm u d a imm) (minImmOp u d a imm) s

/-- MAX, register form (R350). -/
def maxOp (u : Bool) (d : SDst) (a b : SSrc) : SlotOp := regOp d 1 a b (scalarMax u)
def execMax (u : Bool) (d : SDst) (a b : SSrc) (s : State) : Host.Outcome State Fault Refusal :=
  issueSlot (.max u d a b) (maxOp u d a b) s

/-- MAX, immediate form (R350, R312). -/
def maxImmOp (u : Bool) (d : SDst) (a : SSrc) (imm : BitVec 32) : SlotOp := immOp d 1 a imm (scalarMax u)
def execMaxImm (u : Bool) (d : SDst) (a : SSrc) (imm : BitVec 32) (s : State) : Host.Outcome State Fault Refusal :=
  issueSlot (.maxImm u d a imm) (maxImmOp u d a imm) s

/-- CMP, register form (R321). -/
def cmpOp (k : Cond) (u : Bool) (d : SDst) (a b : SSrc) : SlotOp := regOp d 1 a b (compare k u)
def execCmp (k : Cond) (u : Bool) (d : SDst) (a b : SSrc) (s : State) : Host.Outcome State Fault Refusal :=
  issueSlot (.cmp k u d a b) (cmpOp k u d a b) s

/-- CMP, immediate form (R321, R312). -/
def cmpImmOp (k : Cond) (u : Bool) (d : SDst) (a : SSrc) (imm : BitVec 32) : SlotOp := immOp d 1 a imm (compare k u)
def execCmpImm (k : Cond) (u : Bool) (d : SDst) (a : SSrc) (imm : BitVec 32) (s : State) : Host.Outcome State Fault Refusal :=
  issueSlot (.cmpImm k u d a imm) (cmpImmOp k u d a imm) s

/-- MOV (R356). -/
def movOp (d : SDst) (a : SSrc) : SlotOp := oneOp d a fun a => a
def execMov (d : SDst) (a : SSrc) (s : State) : Host.Outcome State Fault Refusal :=
  issueSlot (.mov d a) (movOp d a) s

/-- CLZ (R320). -/
def clzOp (d : SDst) (a : SSrc) : SlotOp := oneOp d a fun a => BitVec.ofNat 64 (leadingZeros 64 a.toNat)
def execClz (d : SDst) (a : SSrc) (s : State) : Host.Outcome State Fault Refusal :=
  issueSlot (.clz d a) (clzOp d a) s

/-- CTZ (R320). -/
def ctzOp (d : SDst) (a : SSrc) : SlotOp := oneOp d a fun a => BitVec.ofNat 64 (trailingZeros 64 a.toNat)
def execCtz (d : SDst) (a : SSrc) (s : State) : Host.Outcome State Fault Refusal :=
  issueSlot (.ctz d a) (ctzOp d a) s

/-- POPC (R356). -/
def popcOp (d : SDst) (a : SSrc) : SlotOp := oneOp d a fun a => BitVec.ofNat 64 (popCount a.toNat 64)
def execPopc (d : SDst) (a : SSrc) (s : State) : Host.Outcome State Fault Refusal :=
  issueSlot (.popc d a) (popcOp d a) s

/-- BSWAP (R320). -/
def bswapOp (d : SDst) (a : SSrc) : SlotOp := oneOp d a byteSwap
def execBswap (d : SDst) (a : SSrc) (s : State) : Host.Outcome State Fault Refusal :=
  issueSlot (.bswap d a) (bswapOp d a) s

/-- SEXT (R356). -/
def sextOp (w : Nat) (d : SDst) (a : SSrc) : SlotOp := oneOp d a (signExt w)
def execSext (w : Nat) (d : SDst) (a : SSrc) (s : State) : Host.Outcome State Fault Refusal :=
  issueSlot (.sext w d a) (sextOp w d a) s

/-- ZEXT (R356). -/
def zextOp (w : Nat) (d : SDst) (a : SSrc) : SlotOp := oneOp d a (zeroExt w)
def execZext (w : Nat) (d : SDst) (a : SSrc) (s : State) : Host.Outcome State Fault Refusal :=
  issueSlot (.zext w d a) (zextOp w d a) s

/-- SEL (R366). -/
def selOp (d : SDst) (a b e : SSrc) : SlotOp :=
  scalarOp d 1 fun c => (if c.scalar e = 0 then c.scalar b else c.scalar a, 0)
def execSel (d : SDst) (a b e : SSrc) (s : State) : Host.Outcome State Fault Refusal := issueSlot (.sel d a b e) (selOp d a b e) s

/-- LI (R341). -/
def liOp (d : SDst) (imm : BitVec 32) : SlotOp := scalarOp d 1 fun _ => (imm.signExtend 64, 0)
def execLi (d : SDst) (imm : BitVec 32) (s : State) : Host.Outcome State Fault Refusal := issueSlot (.li d imm) (liOp d imm) s

/-- Low half that LIH keeps: its own destination's, zero with NW = 1 (R341). -/
def lihLow (c : Ctx) : SDst → BitVec 32
  | .s n => (c.readS n).setWidth 32
  | .off => 0

/-- LIH (R341). -/
def lihOp (d : SDst) (imm : BitVec 32) : SlotOp := scalarOp d 1 fun c => (imm ++ lihLow c d, 0)
def execLih (d : SDst) (imm : BitVec 32) (s : State) : Host.Outcome State Fault Refusal := issueSlot (.lih d imm) (lihOp d imm) s

end Sys2Proof.Machine
end

