-- ==== Sys2Proof/Machine/VectorArith.lean ====
section
/-! DEFINITION. Vector arithmetic, comparison, logic, conversion and reduction (18 R380 to R390, R398, R402). -/

namespace Sys2Proof.Machine

/-! ## Lane functions -/

/-- An exact integer result modulo 2^w, without flags (R380). -/
def intRes (w : Nat) (v : Int) : FRes := (wrap w v, 0)

def laneAdd (t : Ty) (rm : RMode) (a b : Nat) : FRes := if t.isF then fadd t rm false a b else intRes t.bits (a + b : Nat)
def laneSub (t : Ty) (rm : RMode) (a b : Nat) : FRes := if t.isF then fadd t rm true a b else intRes t.bits ((a : Int) - b)
def laneMul (t : Ty) (rm : RMode) (a b : Nat) : FRes := if t.isF then fmul t rm a b else intRes t.bits (a * b : Nat)

/-- (-1)^np * a * b + (-1)^nc * c (R380). -/
def laneFma (t : Ty) (np nc : Bool) (rm : RMode) (a b c : Nat) : FRes :=
  if t.isF then ffma t rm np nc a b c
  else intRes t.bits ((if np then -((a * b : Nat) : Int) else (a * b : Nat)) + (if nc then -(c : Int) else c))

/-- Lesser or greater, under the type's signedness or R148. -/
def laneMinMax (t : Ty) (max : Bool) (a b : Nat) : FRes :=
  if t.isF then fminmax t max a b else (if (intValue t a < intValue t b) = !max then a else b, 0)

def laneAbs (t : Ty) (a : Nat) : FRes :=
  if t.isF then (a % 2 ^ (t.bits - 1), 0) else intRes t.bits (intValue t a).natAbs

def laneNeg (t : Ty) (a : Nat) : FRes :=
  if t.isF then ((a + 2 ^ (t.bits - 1)) % 2 ^ t.bits, 0) else intRes t.bits (-(a : Int))

def laneAbd (t : Ty) (rm : RMode) (a b : Nat) : FRes :=
  if t.isF then fabd t rm a b else intRes t.bits (intValue t a - intValue t b).natAbs

/-- VCMP's conditions (R385). -/
def laneCmp (t : Ty) (c : VCond) (a b : Nat) : Bool × BitVec 5 :=
  if t.isF then fcmp t c a b
  else
    let x := intValue t a
    let y := intValue t b
    (match c with
      | .eq => x = y | .ne => x != y | .lt => x < y | .le => x ≤ y | .gt => y < x | .ge => y ≤ x | .un => false, 0)

/-- Shifts by lane amounts (R382). -/
def laneShl (w a k : Nat) : Nat := if w ≤ k then 0 else a * 2 ^ k % 2 ^ w
def laneShr (w a k : Nat) : Nat := if w ≤ k then 0 else a / 2 ^ k
def laneSar (w a k : Nat) : Nat := wrap w (signedOf w a / (2 ^ Nat.min k w : Nat))

/-- The carry-less product, 2w bits (R384). -/
def clmul (a b : Nat) : Nat → Nat
  | 0 => 0
  | j + 1 => (if a / 2 ^ j % 2 = 1 then b * 2 ^ j else 0) ^^^ clmul a b j

/-! ## Instruction shapes -/

def lanes1 (c : Ctx) (h : VHead) (a : VSrc) (f : Nat → FRes) : List FRes := (c.vlanes h.ty c.width a).map f

def lanes2 (c : Ctx) (h : VHead) (a b : VSrc) (f : Nat → Nat → FRes) : List FRes :=
  (c.vlanes h.ty c.width a).zipWith f (c.vlanes h.ty c.width b)

def lanes3 (c : Ctx) (h : VHead) (a b e : VSrc) (f : Nat → Nat → Nat → FRes) : List FRes :=
  ((c.vlanes h.ty c.width a).zip (c.vlanes h.ty c.width b)).zipWith (fun p z => f p.1 p.2 z) (c.vlanes h.ty c.width e)

/-- Use "write", one, two or three operands. -/
def vec1 (h : VHead) (a : VSrc) (latency : Ctx → Nat) (f : Ctx → Nat → FRes) : SlotOp :=
  vecOp h [a] latency fun c => writeOut h c fun c => lanes1 c h a (f c)

def vec2 (h : VHead) (a b : VSrc) (latency : Ctx → Nat) (f : Ctx → Nat → Nat → FRes) : SlotOp :=
  vecOp h [a, b] latency fun c => writeOut h c fun c => lanes2 c h a b (f c)

def vec3 (h : VHead) (a b e : VSrc) (latency : Ctx → Nat) (f : Ctx → Nat → Nat → Nat → FRes) : SlotOp :=
  vecOp h [a, b, e] latency fun c => writeOut h c fun c => lanes3 c h a b e (f c)

def lat (n : Nat) (_ : Ctx) : Nat := n

/-- A mask result (06 R133; 17 R349): lanes that are on take their bit, bits above the lane count become zero. -/
def State.deliverMask (s : State) (key : Nat) (sl : Slot) (latency : Nat) (h : MHead) (c : Ctx) (bits : List Bool)
    (flags : BitVec 5) : State :=
  let on := c.onMask h.p c.lanes
  s.produce key sl latency (.mask h.d) false (on ||| ~~~(maskLow c.lanes)) (((ofBits bits) &&& on).setWidth 4096) flags

/-! ## Instructions -/

/-- VADD (R380). -/
def vaddOp (h : VHead) (a b : VSrc) : SlotOp := vec2 h a b (aluLatency h.ty) fun c => laneAdd h.ty (c.rounding h)
def execVadd (h : VHead) (a b : VSrc) (s : State) : Host.Outcome State Fault Refusal := issueSlot (.vadd h a b) (vaddOp h a b) s

/-- VSUB (R380). -/
def vsubOp (h : VHead) (a b : VSrc) : SlotOp := vec2 h a b (aluLatency h.ty) fun c => laneSub h.ty (c.rounding h)
def execVsub (h : VHead) (a b : VSrc) (s : State) : Host.Outcome State Fault Refusal := issueSlot (.vsub h a b) (vsubOp h a b) s

/-- VMUL (R380). -/
def vmulOp (h : VHead) (a b : VSrc) : SlotOp := vec2 h a b (aluLatency h.ty) fun c => laneMul h.ty (c.rounding h)
def execVmul (h : VHead) (a b : VSrc) (s : State) : Host.Outcome State Fault Refusal := issueSlot (.vmul h a b) (vmulOp h a b) s

/-- VFMA (R380). -/
def vfmaOp (h : VHead) (a b e : VSrc) : SlotOp := vec3 h a b e (aluLatency h.ty) fun c => laneFma h.ty false false (c.rounding h)
def execVfma (h : VHead) (a b e : VSrc) (s : State) : Host.Outcome State Fault Refusal := issueSlot (.vfma h a b e) (vfmaOp h a b e) s

/-- VFMS (R380). -/
def vfmsOp (h : VHead) (a b e : VSrc) : SlotOp := vec3 h a b e (aluLatency h.ty) fun c => laneFma h.ty false true (c.rounding h)
def execVfms (h : VHead) (a b e : VSrc) (s : State) : Host.Outcome State Fault Refusal := issueSlot (.vfms h a b e) (vfmsOp h a b e) s

/-- VFNMA (R380). -/
def vfnmaOp (h : VHead) (a b e : VSrc) : SlotOp := vec3 h a b e (aluLatency h.ty) fun c => laneFma h.ty true false (c.rounding h)
def execVfnma (h : VHead) (a b e : VSrc) (s : State) : Host.Outcome State Fault Refusal := issueSlot (.vfnma h a b e) (vfnmaOp h a b e) s

/-- VMIN (R380). -/
def vminOp (h : VHead) (a b : VSrc) : SlotOp := vec2 h a b (aluLatency h.ty) fun _ => laneMinMax h.ty false
def execVmin (h : VHead) (a b : VSrc) (s : State) : Host.Outcome State Fault Refusal := issueSlot (.vmin h a b) (vminOp h a b) s

/-- VMAX (R380). -/
def vmaxOp (h : VHead) (a b : VSrc) : SlotOp := vec2 h a b (aluLatency h.ty) fun _ => laneMinMax h.ty true
def execVmax (h : VHead) (a b : VSrc) (s : State) : Host.Outcome State Fault Refusal := issueSlot (.vmax h a b) (vmaxOp h a b) s

/-- VABS (R380). -/
def vabsOp (h : VHead) (a : VSrc) : SlotOp := vec1 h a (lat 2) fun _ => laneAbs h.ty
def execVabs (h : VHead) (a : VSrc) (s : State) : Host.Outcome State Fault Refusal := issueSlot (.vabs h a) (vabsOp h a) s

/-- VNEG (R380). -/
def vnegOp (h : VHead) (a : VSrc) : SlotOp := vec1 h a (lat 2) fun _ => laneNeg h.ty
def execVneg (h : VHead) (a : VSrc) (s : State) : Host.Outcome State Fault Refusal := issueSlot (.vneg h a) (vnegOp h a) s

/-- VABD (R380). -/
def vabdOp (h : VHead) (a b : VSrc) : SlotOp := vec2 h a b (aluLatency h.ty) fun c => laneAbd h.ty (c.rounding h)
def execVabd (h : VHead) (a b : VSrc) (s : State) : Host.Outcome State Fault Refusal := issueSlot (.vabd h a b) (vabdOp h a b) s

/-- VCMP's lanes with their flags. -/
def vcmpLanes (c : Ctx) (ty : Ty) (k : VCond) (a b : VSrc) : List (Bool × BitVec 5) :=
  (c.vlanes ty c.width a).zipWith (laneCmp ty k) (c.vlanes ty c.width b)

/-- VCMP (R385). -/
def vcmpOp (h : MHead) (ty : Ty) (k : VCond) (a b : VSrc) : SlotOp where
  own := vecOwn h.slot [a, b] .off
  need := noNeed
  effect := fun s key c =>
    let rs := vcmpLanes c ty k a b
    let on := c.onMask h.p c.lanes
    s.deliverMask key h.slot (aluLatency ty c) h c (rs.map (·.1))
      (laneResults on c.width (rs.map fun r => (0, r.2))).2
def execVcmp (h : MHead) (ty : Ty) (k : VCond) (a b : VSrc) (s : State) : Host.Outcome State Fault Refusal := issueSlot (.vcmp h ty k a b) (vcmpOp h ty k a b) s

/-- VSEL (R399): lane on takes vA's lane, off vB's. -/
def vselOp (h : VHead) (a b : VSrc) : SlotOp :=
  vecOp h [a, b] (lat 2) fun c =>
    wholeOut c (mixRow c.width (c.onMask h.p c.lanes) (c.vector h.ty c.width a) (c.vector h.ty c.width b)) 0
def execVsel (h : VHead) (a b : VSrc) (s : State) : Host.Outcome State Fault Refusal := issueSlot (.vsel h a b) (vselOp h a b) s

/-- VAND (R382). -/
def vandOp (h : VHead) (a b : VSrc) : SlotOp := vec2 h a b (lat 2) fun _ x y => (x &&& y, 0)
def execVand (h : VHead) (a b : VSrc) (s : State) : Host.Outcome State Fault Refusal := issueSlot (.vand h a b) (vandOp h a b) s

/-- VOR (R382). -/
def vorOp (h : VHead) (a b : VSrc) : SlotOp := vec2 h a b (lat 2) fun _ x y => (x ||| y, 0)
def execVor (h : VHead) (a b : VSrc) (s : State) : Host.Outcome State Fault Refusal := issueSlot (.vor h a b) (vorOp h a b) s

/-- VXOR (R382). -/
def vxorOp (h : VHead) (a b : VSrc) : SlotOp := vec2 h a b (lat 2) fun _ x y => (x ^^^ y, 0)
def execVxor (h : VHead) (a b : VSrc) (s : State) : Host.Outcome State Fault Refusal := issueSlot (.vxor h a b) (vxorOp h a b) s

/-- VANDN (R382). -/
def vandnOp (h : VHead) (a b : VSrc) : SlotOp := vec2 h a b (lat 2) fun c x y => (x &&& (2 ^ c.width - 1 - y), 0)
def execVandn (h : VHead) (a b : VSrc) (s : State) : Host.Outcome State Fault Refusal := issueSlot (.vandn h a b) (vandnOp h a b) s

/-- VNOT (R382). -/
def vnotOp (h : VHead) (a : VSrc) : SlotOp := vec1 h a (lat 2) fun c x => (2 ^ c.width - 1 - x, 0)
def execVnot (h : VHead) (a : VSrc) (s : State) : Host.Outcome State Fault Refusal := issueSlot (.vnot h a) (vnotOp h a) s

/-- VSHL (R382). -/
def vshlOp (h : VHead) (a b : VSrc) : SlotOp := vec2 h a b (lat 2) fun c x k => (laneShl c.width x k, 0)
def execVshl (h : VHead) (a b : VSrc) (s : State) : Host.Outcome State Fault Refusal := issueSlot (.vshl h a b) (vshlOp h a b) s

/-- VSHR (R382). -/
def vshrOp (h : VHead) (a b : VSrc) : SlotOp := vec2 h a b (lat 2) fun c x k => (laneShr c.width x k, 0)
def execVshr (h : VHead) (a b : VSrc) (s : State) : Host.Outcome State Fault Refusal := issueSlot (.vshr h a b) (vshrOp h a b) s

/-- VSAR (R382). -/
def vsarOp (h : VHead) (a b : VSrc) : SlotOp := vec2 h a b (lat 2) fun c x k => (laneSar c.width x k, 0)
def execVsar (h : VHead) (a b : VSrc) (s : State) : Host.Outcome State Fault Refusal := issueSlot (.vsar h a b) (vsarOp h a b) s

/-- VCLMUL (R384). -/
def vclmulOp (hi : Bool) (h : VHead) (a b : VSrc) : SlotOp :=
  vec2 h a b (lat 3) fun c x y =>
    (if hi then clmul x y c.width / 2 ^ c.width else clmul x y c.width % 2 ^ c.width, 0)
def execVclmul (hi : Bool) (h : VHead) (a b : VSrc) (s : State) : Host.Outcome State Fault Refusal := issueSlot (.vclmul hi h a b) (vclmulOp hi h a b) s

/-- VPOPC (R384). -/
def vpopcOp (h : VHead) (a : VSrc) : SlotOp := vec1 h a (lat 2) fun c x => (popCount x c.width, 0)
def execVpopc (h : VHead) (a : VSrc) (s : State) : Host.Outcome State Fault Refusal := issueSlot (.vpopc h a) (vpopcOp h a) s

/-- VCLZ (R384). -/
def vclzOp (h : VHead) (a : VSrc) : SlotOp := vec1 h a (lat 2) fun c x => (leadingZeros c.width x, 0)
def execVclz (h : VHead) (a : VSrc) (s : State) : Host.Outcome State Fault Refusal := issueSlot (.vclz h a) (vclzOp h a) s

/-! ## Conversion -/

/-- VCVT's results: conversion i reads position i at the source width and writes position i at the destination width;
positions n and above become zero (R387). -/
def vcvtOut (src : Ty) (h : VHead) (a : VSrc) (c : Ctx) : VOut :=
  let on := c.onMask h.p c.lanes
  let r := laneResults on h.ty.bits (((lanesOf src.bits (c.vectorOf h.ty src src.bits a)).take c.lanes).map (convert (c.rounding h) h.ty src))
  ⟨r.1, on ||| ~~~(maskLow c.lanes), h.ty.bits, on, r.2⟩

/-- VCVT (R387). -/
def vcvtOp (src : Ty) (h : VHead) (a : VSrc) : SlotOp := vecOp h [a] (lat 3) (vcvtOut src h a)
def execVcvt (src : Ty) (h : VHead) (a : VSrc) (s : State) : Host.Outcome State Fault Refusal := issueSlot (.vcvt src h a) (vcvtOp src h a) s

/-- The identifier of VQTXB and VDQTXB: allotment, state, format (18 R377 step 2; R388, R402). -/
def txbTensor (sl : Slot) (t : Ty) (tn : Nat) (c : Ctx) : Chk :=
  if c.pk.tns ≤ tn then trapOf 0x03 3 sl
  else
    match (c.tensor tn).st with
    | .unallocated | .bad => trapOf 0x05 1 sl
    | .pending => .wait 12
    | .bound => Chk.need ((c.tensor tn).desc.fmt = t) (trapOf 0x0C 0 sl)

/-- The own checks of R377 with a tensor identifier. VQTXB, which takes a format and a GAP from it, makes no scale-layout check: R402 says that
SLAY governs only where the pairs are stored, and not whether R159's checks apply (DESIGN CHOICE, log entry 26). -/
def txbOwn (sl : Slot) (t : Ty) (tn : Nat) (srcs : Ctx → List VSrc) (dst : VDst) (_ : State) (_ : Nat) (c : Ctx) : Chk :=
  (c.allotChk sl (srcs c) dst).and ((txbTensor sl t tn c).and ((c.handover sl (srcs c)).and (c.headsChk sl (srcs c))))

/-- Sources that VQTXB reads (R402). -/
def vqtxbSrcs (h : VHead) (a b : VSrc) (c : Ctx) : List VSrc := if vqtxbReads2 c.acct h.ty then [a, b] else [a]

/-- Blocks of 32. -/
def blocksOf {α : Type} (l : List α) : Nat → List (List α)
  | 0 => []
  | n + 1 => l.take 32 :: blocksOf (l.drop 32) n

/-- The row in push form that VQTXB writes, with its flags (R402; 07 R157). -/
def vqtxbRow (src : Ty) (tn : Nat) (h : VHead) (a b : VSrc) (c : Ctx) : Row × BitVec 5 :=
  let n := c.lanes
  let on := c.onMask h.p n
  let lanes (v : VSrc) : List Nat := (lanesOf c.width (c.vectorOf h.ty src c.width v)).take n
  let xs := lanes a ++ (if vqtxbReads2 c.acct h.ty then lanes b else [])
  let xs := xs.take (128 * h.ty.kd)
  let vals := (List.range xs.length).zipWith (fun k x => (decodeF src x, bit on (k % n))) xs
  let bs := (blocksOf vals (xs.length / 32)).map (quantBlock h.ty (c.tensor tn).desc.gap)
  let data := packNat h.ty.bits (bs.flatMap (·.1))
  let pairs := packNat 8 (bs.flatMap fun q => [q.2.1.1, q.2.1.2])
  (BitVec.ofNat 4096 (data + pairs * 2 ^ 2048), bs.foldl (fun f q => f ||| q.2.2) 0)

/-- VQTXB (R402). -/
def vqtxbOp (src : Ty) (tn : Nat) (h : VHead) (a b : VSrc) : SlotOp where
  own := txbOwn h.slot h.ty tn (vqtxbSrcs h a b) h.d
  need := vecNeed h.d
  effect := fun s key c =>
    let r := vqtxbRow src tn h a b c
    s.deliver key h.slot 6 h.d (wholeOut c r.1 r.2)
def execVqtxb (src : Ty) (tn : Nat) (h : VHead) (a b : VSrc) (s : State) : Host.Outcome State Fault Refusal := issueSlot (.vqtxb src tn h a b) (vqtxbOp src tn h a b) s

/-- Element k of a row in push form, converted (R388; 07 R156). -/
def dequant (rm : RMode) (dst src : Ty) (row k : Nat) : FRes :=
  if 128 * src.kd ≤ k then (0, 0)
  else
    match txbValue src (rowPair row (k / 32)) (packed src (row % 2 ^ 2048) k) with
    | .nan _ => (defaultNan dst, flagNV)
    | v => convF rm dst v

/-- VDQTXB (R388). -/
def vdqtxbOp (src : Ty) (tn : Nat) (h : VHead) (a k : VSrc) : SlotOp where
  own := txbOwn h.slot src tn (fun _ => [a, k]) h.d
  need := vecNeed h.d
  effect := fun s key c =>
    s.deliver key h.slot 4 h.d (writeOut h c fun c =>
      let k0 := (c.vlanes h.ty c.width k).headD 0
      (List.range c.lanes).map fun i => dequant (c.rounding h) h.ty src (c.vector h.ty c.width a).toNat (k0 + i))
def execVdqtxb (src : Ty) (tn : Nat) (h : VHead) (a k : VSrc) (s : State) : Host.Outcome State Fault Refusal := issueSlot (.vdqtxb src tn h a k) (vdqtxbOp src tn h a k) s

/-! ## Transcendental functions -/

/-- VRCP (R389). -/
def vrcpOp (h : VHead) (a : VSrc) : SlotOp := vec1 h a (lat 10) fun c => ftrans .rcp h.ty (c.rounding h)
def execVrcp (h : VHead) (a : VSrc) (s : State) : Host.Outcome State Fault Refusal := issueSlot (.vrcp h a) (vrcpOp h a) s

/-- VRSQ (R389). -/
def vrsqOp (h : VHead) (a : VSrc) : SlotOp := vec1 h a (lat 10) fun c => ftrans .rsq h.ty (c.rounding h)
def execVrsq (h : VHead) (a : VSrc) (s : State) : Host.Outcome State Fault Refusal := issueSlot (.vrsq h a) (vrsqOp h a) s

/-- VSQRT (R389). -/
def vsqrtOp (h : VHead) (a : VSrc) : SlotOp := vec1 h a (lat 10) fun c => ftrans .sqrt h.ty (c.rounding h)
def execVsqrt (h : VHead) (a : VSrc) (s : State) : Host.Outcome State Fault Refusal := issueSlot (.vsqrt h a) (vsqrtOp h a) s

/-- VEXP2 (R389). -/
def vexp2Op (h : VHead) (a : VSrc) : SlotOp := vec1 h a (lat 10) fun c => ftrans .exp2 h.ty (c.rounding h)
def execVexp2 (h : VHead) (a : VSrc) (s : State) : Host.Outcome State Fault Refusal := issueSlot (.vexp2 h a) (vexp2Op h a) s

/-- VLOG2 (R389). -/
def vlog2Op (h : VHead) (a : VSrc) : SlotOp := vec1 h a (lat 10) fun c => ftrans .log2 h.ty (c.rounding h)
def execVlog2 (h : VHead) (a : VSrc) (s : State) : Host.Outcome State Fault Refusal := issueSlot (.vlog2 h a) (vlog2Op h a) s

/-- VTANH (R389). -/
def vtanhOp (h : VHead) (a : VSrc) : SlotOp := vec1 h a (lat 10) fun c => ftrans .tanh h.ty (c.rounding h)
def execVtanh (h : VHead) (a : VSrc) (s : State) : Host.Outcome State Fault Refusal := issueSlot (.vtanh h a) (vtanhOp h a) s

/-! ## Reductions and scans (07 R164) -/

/-- An operation of VSUM, VMAXR and VSCAN on two lanes. -/
def scanFn (f : ScanFn) (t : Ty) (w : Nat) (rm : RMode) (a b : Nat) : FRes :=
  match f with
  | .add => if t.isF then fadd t rm false a b else intRes w (a + b : Nat)
  | .xor => (a ^^^ b, 0)
  | .max => if t = .b then (Nat.max a b, 0) else laneMinMax t true a b
  | .min => if t = .b then (Nat.min a b, 0) else laneMinMax t false a b

/-- What a lane that is off enters as (R398). -/
def scanIdentity (f : ScanFn) (t : Ty) (w : Nat) : Nat :=
  match f with
  | .add => if t.isF then withSign t true 0 else 0
  | .xor => 0
  | .max => if t.isF then withSign t true (infBits t) else if t.signed then 2 ^ (w - 1) else 0
  | .min => if t.isF then infBits t else if t.signed then 2 ^ (w - 1) - 1 else 2 ^ w - 1

/-- One level of the tree: neighbours combined, lower lane on the left. -/
def treeLevel (op : Nat → Nat → FRes) : List Nat → List Nat × BitVec 5
  | a :: b :: rest =>
    let r := op a b
    let t := treeLevel op rest
    (r.1 :: t.1, r.2 ||| t.2)
  | l => (l, 0)

/-- k levels of the tree. -/
def tree (op : Nat → Nat → FRes) : Nat → List Nat → List Nat × BitVec 5
  | 0, l => (l, 0)
  | k + 1, l =>
    let r := treeLevel op l
    let t := tree op k r.1
    (t.1, r.2 ||| t.2)

/-- One step of the scan at distance d. -/
def scanStep (op : Nat → Nat → FRes) (d : Nat) (l : List Nat) : List Nat × BitVec 5 :=
  let r := (l.drop d).zipWith (fun hi lo => op lo hi) l
  (l.take d ++ r.map (·.1), r.foldl (fun f x => f ||| x.2) 0)

/-- Steps at distances d, 2d, ... -/
def scan (op : Nat → Nat → FRes) : Nat → Nat → List Nat → List Nat × BitVec 5
  | 0, _, l => (l, 0)
  | k + 1, d, l =>
    let r := scanStep op d l
    let t := scan op k (2 * d) r.1
    (t.1, r.2 ||| t.2)

/-- Operand lanes with the identity where off. -/
def scanLanes (f : ScanFn) (h : VHead) (a : VSrc) (c : Ctx) : List Nat :=
  let on := c.onMask h.p c.lanes
  (List.range c.lanes).zipWith (fun i x => if bit on i then x else scanIdentity f h.ty c.width) (c.vlanes h.ty c.width a)

/-- The tree's result in lane 0, zero above (R398). -/
def reduceOut (f : ScanFn) (h : VHead) (a : VSrc) (c : Ctx) : VOut :=
  let r := tree (scanFn f h.ty c.width (c.rounding h)) (Nat.log2 c.lanes) (scanLanes f h a c)
  wholeOut c (BitVec.ofNat 4096 (r.1.headD 0)) r.2

/-- VSUM (R398). -/
def vsumOp (h : VHead) (a : VSrc) : SlotOp := vecOp h [a] (lat 8) (reduceOut .add h a)
def execVsum (h : VHead) (a : VSrc) (s : State) : Host.Outcome State Fault Refusal := issueSlot (.vsum h a) (vsumOp h a) s

/-- VMAXR (R398). -/
def vmaxrOp (h : VHead) (a : VSrc) : SlotOp := vecOp h [a] (lat 8) (reduceOut .max h a)
def execVmaxr (h : VHead) (a : VSrc) (s : State) : Host.Outcome State Fault Refusal := issueSlot (.vmaxr h a) (vmaxrOp h a) s

/-- A NaN as a result delivers it (07 R148). -/
def plainNan (t : Ty) (x : Nat) : Nat :=
  if !t.isF then x
  else match decodeF t x with
    | .nan _ => defaultNan t
    | _ => x

/-- VSCAN (R398): lane 0 of the scan has met no operation, and a NaN there is the default NaN all the same. -/
def vscanOp (f : ScanFn) (h : VHead) (a : VSrc) : SlotOp :=
  vecOp h [a] (lat 8) fun c =>
    let r := scan (scanFn f h.ty c.width (c.rounding h)) (Nat.log2 c.lanes) 1 (scanLanes f h a c)
    wholeOut c (ofLanes c.width (r.1.map (plainNan h.ty))) r.2
def execVscan (f : ScanFn) (h : VHead) (a : VSrc) (s : State) : Host.Outcome State Fault Refusal := issueSlot (.vscan f h a) (vscanOp f h a) s

end Sys2Proof.Machine
end

