-- ==== Sys2Proof/Machine/VectorMove.lean ====
section
/-! DEFINITION. Vector lane movement, packing, indices and random numbers (18 R383, R386, R393, R399 to R401, R403 to R405). -/

namespace Sys2Proof.Machine

/-- Lane k of a list of lanes. -/
def laneAt (l : List Nat) (k : Nat) : Nat := l.getD k 0

/-- VPERM (R401). -/
def vpermOp (h : VHead) (a b : VSrc) : SlotOp :=
  vecOp h [a, b] (lat 4) fun c => writeOut h c fun c =>
    let src := c.vlanes h.ty c.width a
    (c.vlanes h.ty c.width b).map fun i => (laneAt src (i % c.lanes), 0)
def execVperm (h : VHead) (a b : VSrc) (s : State) : Host.Outcome State Fault Refusal := issueSlot (.vperm h a b) (vpermOp h a b) s

/-- VBCAST (R383). -/
def vbcastOp (k : Nat) (h : VHead) (a : VSrc) : SlotOp :=
  vecOp h [a] (lat 2) fun c => writeOut h c fun c => List.replicate c.lanes (laneAt (c.vlanes h.ty c.width a) k, 0)
def execVbcast (k : Nat) (h : VHead) (a : VSrc) (s : State) : Host.Outcome State Fault Refusal := issueSlot (.vbcast k h a) (vbcastOp k h a) s

/-- VINS (R383). -/
def vinsOp (k : Nat) (h : VHead) (a b : VSrc) : SlotOp :=
  vecOp h [a, b] (lat 2) fun c => writeOut h c fun c =>
    ((c.vlanes h.ty c.width a).set k (laneAt (c.vlanes h.ty c.width b) 0)).map fun x => (x, 0)
def execVins (k : Nat) (h : VHead) (a b : VSrc) (s : State) : Host.Outcome State Fault Refusal := issueSlot (.vins k h a b) (vinsOp k h a b) s

/-- VEXT's 64 bits (R383). -/
def vextWord (ty : Ty) (w x : Nat) : Word := if ty.isI then BitVec.ofInt 64 (signedOf w x) else BitVec.ofNat 64 x

/-- VEXT (R383). -/
def vextOp (k : Nat) (h : VHead) (a : VSrc) : SlotOp :=
  vecOp h [a] (lat 2) fun c => wholeOut c ((vextWord h.ty c.width (laneAt (c.vlanes h.ty c.width a) k)).setWidth 4096) 0
def execVext (k : Nat) (h : VHead) (a : VSrc) (s : State) : Host.Outcome State Fault Refusal := issueSlot (.vext k h a) (vextOp k h a) s

/-- For each lane, how many lanes below it are on. -/
def countsBelow : List Bool → Nat → List Nat
  | [], _ => []
  | b :: rest, k => k :: countsBelow rest (if b then k + 1 else k)

/-- VIOTA (R393). -/
def viotaOp (h : VHead) : SlotOp :=
  vecOp h [] (lat 2) fun c => writeOut h c fun c =>
    (countsBelow (onBits (c.onMask h.p c.lanes) c.lanes) 0).map fun k => (Nat.min k (2 ^ c.width - 1), 0)
def execViota (h : VHead) (s : State) : Host.Outcome State Fault Refusal := issueSlot (.viota h) (viotaOp h) s

/-! ## VRNG (R403, R404) -/

def rotl32 (x : BitVec 32) (k : Nat) : BitVec 32 := x.rotateLeft k

/-- Rounds r to r + n - 1 of rng32. -/
def rngRounds (k0 k1 : BitVec 32) : Nat → Nat → BitVec 32 × BitVec 32 × BitVec 32 × BitVec 32 →
    BitVec 32 × BitVec 32 × BitVec 32 × BitVec 32
  | 0, _, x => x
  | n + 1, r, (x0, x1, x2, x3) =>
    let kr := (if r % 2 = 0 then k0 else k1) + BitVec.ofNat 32 (r * 0x9E3779B9)
    let x0 := x0 + x1 + kr
    let x3 := rotl32 (x3 ^^^ x0) 16
    let x2 := x2 + x3
    let x1 := rotl32 (x1 ^^^ x2) 12
    rngRounds k0 k1 n (r + 1) (x1, x2, x3, x0)

def rng32 (counter : Nat) (key : Word) : BitVec 32 :=
  let w (i : Nat) : BitVec 32 := BitVec.ofNat 32 (counter / 2 ^ (32 * i))
  let x := rngRounds (key.setWidth 32) ((key >>> 32).setWidth 32) 4 0 (w 0, w 1, w 2, w 3)
  (x.1 + x.2.2.1) ^^^ (x.2.1 + x.2.2.2)

/-- The whole scalar that a source of VRNG names. -/
def Ctx.wholeScalar (c : Ctx) : VSrc → Word
  | .scalar n => c.readS n
  | _ => 0

/-- VRNG (R403). -/
def vrngOp (h : VHead) (l hi k : VSrc) : SlotOp :=
  vecOp h [l, hi, k] (lat 6) fun c => writeOut h c fun c =>
    let base := (c.wholeScalar hi).toNat * 2 ^ 64 + (c.wholeScalar l).toNat
    (List.range c.lanes).map fun i => ((rng32 ((base + i) % 2 ^ 128) (c.wholeScalar k)).toNat % 2 ^ c.width, 0)
def execVrng (h : VHead) (l hi k : VSrc) (s : State) : Host.Outcome State Fault Refusal := issueSlot (.vrng h l hi k) (vrngOp h l hi k) s

/-- VMOV (R399). -/
def vmovOp (h : VHead) (a : VSrc) : SlotOp := vec1 h a (lat 2) fun _ x => (x, 0)
def execVmov (h : VHead) (a : VSrc) (s : State) : Host.Outcome State Fault Refusal := issueSlot (.vmov h a) (vmovOp h a) s

/-- VSLIDE (R405). -/
def vslideOp (d : Int) (h : VHead) (a b : VSrc) : SlotOp :=
  vecOp h [a, b] (lat 4) fun c => writeOut h c fun c =>
    let x := c.vlanes h.ty c.width a
    let y := c.vlanes h.ty c.width b
    (List.range c.lanes).map fun (i : Nat) =>
      let p : Int := (i : Int) - d
      (if 0 ≤ p ∧ p < c.lanes then laneAt x p.toNat else laneAt y (p % c.lanes).toNat, 0)
def execVslide (d : Int) (h : VHead) (a b : VSrc) (s : State) : Host.Outcome State Fault Refusal := issueSlot (.vslide d h a b) (vslideOp d h a b) s

/-- VPACK on one lane (R400). -/
def packLane (sat : Bool) (dst src : Ty) (x : Nat) : Nat :=
  wrap dst.bits (if sat then clampInt dst (intValue src x) else intValue src x)

/-- A source's elements of another type, at the width of CTL.ACCT (R400). -/
def Ctx.widthLanes (c : Ctx) (ty src : Ty) (v : VSrc) : List Nat := lanesOf c.width (c.vectorOf ty src c.width v)

/-- VPACK (R400). -/
def vpackOp (sat : Bool) (src : Ty) (h : VHead) (a b : VSrc) : SlotOp :=
  vecOp h [a, b] (lat 3) fun c =>
    wholeOut c (ofLanes h.ty.bits ((c.widthLanes h.ty src a ++ c.widthLanes h.ty src b).map (packLane sat h.ty src))) 0
def execVpack (sat : Bool) (src : Ty) (h : VHead) (a b : VSrc) (s : State) : Host.Outcome State Fault Refusal := issueSlot (.vpack sat src h a b) (vpackOp sat src h a b) s

/-- VUNPK (R400). -/
def vunpkOp (hi : Bool) (src : Ty) (h : VHead) (a : VSrc) : SlotOp :=
  vecOp h [a] (lat 3) fun c =>
    let xs := ((lanesOf src.bits (c.vectorOf h.ty src src.bits a)).drop (if hi then c.lanes else 0)).take c.lanes
    wholeOut c (ofLanes c.width (xs.map fun x => wrap c.width (intValue src x))) 0
def execVunpk (hi : Bool) (src : Ty) (h : VHead) (a : VSrc) (s : State) : Host.Outcome State Fault Refusal := issueSlot (.vunpk hi src h a) (vunpkOp hi src h a) s

/-- VCMPR (R386): its message carries as many valid lanes as were on. -/
def vcmprOp (h : VHead) (a : VSrc) : SlotOp :=
  vecOp h [a] (lat 4) fun c =>
    let on := c.onMask h.p c.lanes
    let xs := ((List.range c.lanes).zip (c.vlanes h.ty c.width a)).filter fun p => bit on p.1
    { wholeOut c (ofLanes c.width (xs.map (·.2))) 0 with valid := maskLow xs.length }
def execVcmpr (h : VHead) (a : VSrc) (s : State) : Host.Outcome State Fault Refusal := issueSlot (.vcmpr h a) (vcmprOp h a) s

end Sys2Proof.Machine
end

