-- ==== Sys2Proof/Machine/MaskOps.lean ====
section
/-! DEFINITION. Mask instructions (17 R348 to R351, R357). -/

namespace Sys2Proof.Machine

/-- A mask logic instruction over its lane function (R349). -/
def maskOp (h : MHead) (f : Ctx → Nat → Bool) : SlotOp where
  own := noCheck
  need := noNeed
  effect := fun s key c => s.deliverMask key h.slot 2 h c ((List.range c.lanes).map (f c)) 0

/-- MAND (R349). -/
def mandOp (h : MHead) (a b : Nat) : SlotOp := maskOp h fun c i => bit (c.readM a) i && bit (c.readM b) i
def execMand (h : MHead) (a b : Nat) (s : State) : Host.Outcome State Fault Refusal := issueSlot (.mand h a b) (mandOp h a b) s

/-- MOR (R349). -/
def morOp (h : MHead) (a b : Nat) : SlotOp := maskOp h fun c i => bit (c.readM a) i || bit (c.readM b) i
def execMor (h : MHead) (a b : Nat) (s : State) : Host.Outcome State Fault Refusal := issueSlot (.mor h a b) (morOp h a b) s

/-- MXOR (R349). -/
def mxorOp (h : MHead) (a b : Nat) : SlotOp := maskOp h fun c i => bit (c.readM a) i ^^ bit (c.readM b) i
def execMxor (h : MHead) (a b : Nat) (s : State) : Host.Outcome State Fault Refusal := issueSlot (.mxor h a b) (mxorOp h a b) s

/-- MNOT (R349). -/
def mnotOp (h : MHead) (a : Nat) : SlotOp := maskOp h fun c i => !bit (c.readM a) i
def execMnot (h : MHead) (a : Nat) (s : State) : Host.Outcome State Fault Refusal := issueSlot (.mnot h a) (mnotOp h a) s

/-- MSET (R357). -/
def msetOp (h : MHead) (n : Nat) : SlotOp := maskOp h fun _ i => i < n
def execMset (h : MHead) (n : Nat) (s : State) : Host.Outcome State Fault Refusal := issueSlot (.mset h n) (msetOp h n) s

/-- MPOPC and MFIRST: a count in every lane that is on, saturated (R351). -/
def maskCountOp (h : VHead) (f : Ctx → Nat) : SlotOp :=
  vecOp h [] (lat 2) fun c => writeOut h c fun c => List.replicate c.lanes (Nat.min (f c) (2 ^ c.width - 1), 0)

/-- MPOPC (R351). -/
def mpopcOp (h : VHead) (a : Nat) : SlotOp :=
  maskCountOp h fun c => ((onBits (c.readM a) c.lanes).filter id).length
def execMpopc (h : VHead) (a : Nat) (s : State) : Host.Outcome State Fault Refusal := issueSlot (.mpopc h a) (mpopcOp h a) s

/-- MFIRST (R351). -/
def mfirstOp (h : VHead) (a : Nat) : SlotOp :=
  maskCountOp h fun c => ((List.range c.lanes).find? (bit (c.readM a))).getD c.lanes
def execMfirst (h : VHead) (a : Nat) (s : State) : Host.Outcome State Fault Refusal := issueSlot (.mfirst h a) (mfirstOp h a) s

end Sys2Proof.Machine
end

