-- ==== Sys2Proof/Machine/Control.lean ====
section
/-! DEFINITION. Control transfers and hardware loops (16 R318, R319, R342 to R345; 17 R364), TRAP (R376),
and the header's actions (05 R96, R97; 02 R22). -/

namespace Sys2Proof.Machine

/-- P + 64 * k as a virtual address (R319). -/
def bundleAt (pc : Word) (k : Int) : Int := vaOf pc + 64 * k

def pcOf (va : Int) : Word := BitVec.ofInt 64 va

def setNext (va : Int) (c : Ctx) : Ctx := { c with next := some (pcOf va) }

/-! ## Relative branches -/

/-- A target beyond the valid range raises CANON, taken or not (R319). -/
def branchOwn (off : BitVec 32) (_ : State) (_ : Nat) (c : Ctx) : Chk :=
  Chk.need (vaValid (bundleAt c.pc off.toInt) 1) (trapAt 0x07 1 .s (pcOf (bundleAt c.pc off.toInt)))

/-- Whether a condition of BRC holds (R318). -/
def zcondHolds (a : Word) : ZCond → Bool
  | .eqz => a = 0
  | .nez => a != 0
  | .ltz => a.msb
  | .gez => !a.msb
  | .gtz => !a.msb && a != 0
  | .lez => a.msb || a = 0

/-- BR (R319). -/
def brOp (off : BitVec 32) : SlotOp where
  own := branchOwn off
  need := noNeed
  effect := fun s key c => s.mapCtx key (setNext (bundleAt c.pc off.toInt))
def execBr (off : BitVec 32) (s : State) : Host.Outcome State Fault Refusal := issueSlot (.br off) (brOp off) s

/-- BRC (R319): the BRANCH packet comes whether or not the branch is taken. -/
def brcOp (k : ZCond) (a : SSrc) (off : BitVec 32) : SlotOp where
  own := branchOwn off
  need := noNeed
  effect := fun s key c =>
    let target := bundleAt c.pc off.toInt
    if zcondHolds (c.scalar a) k then
      (s.mapCtx key (setNext target)).trace key (pktBranch (key % 4) true (pcOf target))
    else s.trace key (pktBranch (key % 4) false 0)
def execBrc (k : ZCond) (a : SSrc) (off : BitVec 32) (s : State) : Host.Outcome State Fault Refusal :=
  issueSlot (.brc k a off) (brcOp k a off) s

/-- BL (R319): s63 takes the return address at t + 1, without the latch (R134). -/
def blOp (off : BitVec 32) : SlotOp where
  own := branchOwn off
  need := noNeed
  effect := fun s key c =>
    (s.mapCtx key (setNext (bundleAt c.pc off.toInt))).produce key .s 1 (.scalar 63) false 0
      ((pcOf (bundleAt c.pc 1)).setWidth 4096) 0
def execBl (off : BitVec 32) (s : State) : Host.Outcome State Fault Refusal := issueSlot (.bl off) (blOp off) s

/-- RET (R364). -/
def retOp : SlotOp where
  own := fun _ _ c =>
    (Chk.need (isCanonical (c.readS 63)) (trapAt 0x07 1 .s (c.readS 63))).and
      (Chk.need (field (c.readS 63) 5 0 = 0) (trapAt 0x07 6 .s (c.readS 63)))
  need := noNeed
  effect := fun s key c =>
    (s.mapCtx key fun x => { x with next := some (c.readS 63) }).trace key (pktBranch (key % 4) true (c.readS 63))
def execRet (s : State) : Host.Outcome State Fault Refusal := issueSlot .ret retOp s

/-! ## Loops -/

/-- loop_end(A): loop back, or pop the entries that end at A (R345). Each loop-back is an iteration boundary. -/
def loopEnd (a : Word) : List LoopEnt → List LoopEnt × Option Word
  | [] => ([], none)
  | e :: rest =>
    if e.last ≠ a then (e :: rest, none)
    else if 1 < e.trip then ({ e with trip := e.trip - 1, index := e.index + 1 } :: rest, some e.first)
    else
      let r := loopEnd a rest
      (r.1, some (r.2.getD (pcOf (bundleAt a 1))))

/-- LOOP's checks for a trip count that is not zero (R343). -/
def loopOwn (n : Ctx → Word) (last : Nat) (_ : State) (_ : Nat) (c : Ctx) : Chk :=
  if n c = 0 then .ok
  else
    (Chk.need (c.loops.length < 6) (trapOf 0x12 1 .s)).and
      (Chk.need (match c.loops with
        | [] => true
        | e :: _ => e.last != c.pc && bundleAt c.pc last ≤ vaOf e.last) (trapOf 0x0C 0 .s))

/-- LOOP's effect (R343). -/
def loopEffect (n : Ctx → Word) (last : Nat) (s : State) (key : Nat) (c : Ctx) : State :=
  if n c = 0 then s.mapCtx key (setNext (bundleAt c.pc (last + 1)))
  else s.mapCtx key fun x =>
    { x with loops := ⟨pcOf (bundleAt c.pc 1), pcOf (bundleAt c.pc last), n c, 0⟩ :: x.loops }

/-- LOOP, immediate count. -/
def loopImmOp (n last : Nat) : SlotOp where
  own := loopOwn (fun _ => BitVec.ofNat 64 n) last
  need := noNeed
  effect := loopEffect (fun _ => BitVec.ofNat 64 n) last
def execLoopImm (n last : Nat) (s : State) : Host.Outcome State Fault Refusal := issueSlot (.loopImm n last) (loopImmOp n last) s

/-- LOOP, count in a scalar operand. -/
def loopRegOp (a : SSrc) (last : Nat) : SlotOp where
  own := loopOwn (fun c => c.scalar a) last
  need := noNeed
  effect := loopEffect (fun c => c.scalar a) last
def execLoopReg (a : SSrc) (last : Nat) (s : State) : Host.Outcome State Fault Refusal :=
  issueSlot (.loopReg a last) (loopRegOp a last) s

/-- The context after LOOPX: the innermost entry is gone and loop_end applies to the rest (R344). -/
def loopLeave (c : Ctx) : Ctx :=
  match c.loops with
  | [] => c
  | e :: rest =>
    let r := loopEnd e.last rest
    { c with loops := r.1, next := some (r.2.getD (pcOf (bundleAt e.last 1))) }

/-- LOOPX (R344). -/
def loopxOp : SlotOp where
  own := fun _ _ c => Chk.need (!c.loops.isEmpty) (trapOf 0x12 2 .s)
  need := noNeed
  effect := fun s key c =>
    let c' := loopLeave c
    (s.mapCtx key loopLeave).trace key (pktBranch (key % 4) true (c'.next.getD 0))
def execLoopx (s : State) : Host.Outcome State Fault Refusal := issueSlot .loopx loopxOp s

/-! ## TRAP -/

/-- TRAP (R376): cause SWT, precise on its bundle. -/
def trapOp (code : BitVec 16) : SlotOp where
  own := fun _ _ _ => .trap ⟨0x10, 0, .s, 0⟩ code
  need := noNeed
  effect := fun s _ _ => s
def execTrap (code : BitVec 16) (s : State) : Host.Outcome State Fault Refusal := issueSlot (.trap code) (trapOp code) s

/-! ## Header actions -/

def popHeads (heads : BitVec 8) : List Nat := (List.range 8).filter fun q => bit heads q

/-- POP's check of its heads, SLOT 15 (R96). -/
def popOwn (heads : BitVec 8) (c : Ctx) : Chk := Chk.need ((popHeads heads).all c.headOk) (trapOf 0x03 5 .none)

/-- The checks of R39 on the heads that POP names. -/
def popReady (heads : BitVec 8) (c : Ctx) : Chk := (popHeads heads).foldr (fun q r => (c.headChk .none q).and r) .ok

/-- Each head advances once and its credit returns (R39, R40). -/
def State.popAll (s : State) (key : Nat) (heads : BitVec 8) : State :=
  (popHeads heads).foldl (fun s q =>
    match s.ctx? key with
    | none => s
    | some c => (s.mapCtx key fun c => c.popHead q).returnCredit c q) s

def popOp (heads : BitVec 8) : SlotOp where
  own := fun _ _ c => (popOwn heads c).and (popReady heads c)
  need := noNeed
  effect := fun s key _ => s.popAll key heads
def execPop (heads : BitVec 8) (s : State) : Host.Outcome State Fault Refusal := issueSlot (.pop heads) (popOp heads) s

/-- HOLD: n idle cycles after the bundle (02 R22). -/
def holdOp (n : Nat) : SlotOp where
  own := noCheck
  need := noNeed
  effect := fun s key _ => s.mapCtx key fun c => { c.advance n with idleTill := s.clock + n + 1 }
def execHold (n : Nat) (s : State) : Host.Outcome State Fault Refusal := issueSlot (.hold n) (holdOp n) s

/-- BRK: a breakpoint trap before the bundle issues, once an RTE has not just returned to it (R97). -/
def brkOp : SlotOp where
  own := fun _ _ c => Chk.need c.skipBrk (trapOf 0x0F 0 .none)
  need := noNeed
  effect := fun s _ _ => s
def execBrk (s : State) : Host.Outcome State Fault Refusal := issueSlot .brk brkOp s

/-- MARK: a MARK packet when the bundle issues (R97). -/
def markOp : SlotOp where
  own := noCheck
  need := noNeed
  effect := fun s key c => s.trace key (pktMark (key % 4) c.lcc)
def execMark (s : State) : Host.Outcome State Fault Refusal := issueSlot .mark markOp s

end Sys2Proof.Machine
end

