-- ==== Sys2Proof/Machine/System.lean ====
section
/-! DEFINITION. Staging registers, spill store and control registers (06 R136, R139, R141 to R145; 16 R335, R336; 17 R370,
R373 to R375). -/

namespace Sys2Proof.Machine

/-- STG (R373): lands at t + 1, without the latch. -/
def stgOp (e : Nat) (a : SSrc) : SlotOp where
  own := noCheck
  need := noNeed
  effect := fun s key c => s.produce key .s 1 (.stage e) false 0 ((c.scalar a).setWidth 4096) 0
def execStg (e : Nat) (a : SSrc) (s : State) : Host.Outcome State Fault Refusal := issueSlot (.stg e a) (stgOp e a) s

/-- GTS (R336). -/
def gtsOp (d : SDst) (e : Nat) : SlotOp := scalarOp d 1 fun c => (c.readE e, 0)
def execGts (d : SDst) (e : Nat) (s : State) : Host.Outcome State Fault Refusal := issueSlot (.gts d e) (gtsOp d e) s

/-- The spill store at program level, the trap scratch in trap time (R370; 13 R267). -/
def Ctx.spillWord (c : Ctx) (i : Nat) : Word := if c.tm then c.scratch.read 0 i else c.spill.read 0 i

/-- Bounds of SPL and SPS (R370). -/
def spillOwn (i : Nat) (_ : State) (_ : Nat) (c : Ctx) : Chk :=
  Chk.need (if c.tm then i < 512 else i * 8 < c.pk.spill * 64) (trapOf 0x03 6 .s)

/-- SPL (R370). -/
def splOp (d : SDst) (i : Nat) : SlotOp := { scalarOp d 1 (fun c => (c.spillWord i, 0)) with own := spillOwn i }
def execSpl (d : SDst) (i : Nat) (s : State) : Host.Outcome State Fault Refusal := issueSlot (.spl d i) (splOp d i) s

/-- SPS (R370). -/
def spsOp (a : SSrc) (i : Nat) : SlotOp where
  own := spillOwn i
  need := noNeed
  effect := fun s key c => s.produce key .s 1 (.spill i) false 0 ((c.scalar a).setWidth 4096) 0
def execSps (a : SSrc) (i : Nat) (s : State) : Host.Outcome State Fault Refusal := issueSlot (.sps a i) (spsOp a i) s

/-- SYSR (R374). -/
def sysrOp (d : SDst) (i : Nat) : SlotOp := scalarOp d 1 fun c => (c.readCtl i, 0)
def execSysr (d : SDst) (i : Nat) (s : State) : Host.Outcome State Fault Refusal := issueSlot (.sysr d i) (sysrOp d i) s

/-- SYSW (R374, R375): a value that the register does not allow traps; the write takes effect at the start of t + 1. -/
def syswOp (i : Nat) (a : SSrc) : SlotOp where
  own := fun _ _ c => Chk.need (ctlAccepts i (c.scalar a)) (trapOf 0x0D 0 .s)
  need := noNeed
  effect := fun s key c => s.produce key .s 1 (.ctl i) false 0 ((c.scalar a).setWidth 4096) 0
def execSysw (i : Nat) (a : SSrc) (s : State) : Host.Outcome State Fault Refusal := issueSlot (.sysw i a) (syswOp i a) s

/-- FLGCLR (R335): the clear is applied at the start of t + 1. -/
def flgclrOp (sets : BitVec 5) : SlotOp where
  own := noCheck
  need := noNeed
  effect := fun s key _ => s.produce key .s 1 (.flgclr sets) false 0 0 0
def execFlgclr (sets : BitVec 5) (s : State) : Host.Outcome State Fault Refusal := issueSlot (.flgclr sets) (flgclrOp sets) s

end Sys2Proof.Machine
end

