-- ==== Sys2Proof/Machine/Tensor.lean ====
section
/-! DEFINITION. Tensor identifiers in use: element addresses (07 R162), scale pairs (R158, R159), the Mantle's owners (12 R252,
R253), the checks of elements (08 R169, R181), and the pieces that an access is cut into (R188). -/

namespace Sys2Proof.Machine

/-! ## Addresses of elements -/

/-- BASE as an address: a handle offset, a Mantle displacement, or a sign-extended virtual address (R160; 00 R426). -/
def TDesc.baseAddr (t : TDesc) : Int := if t.handle.isSome || t.mb then t.base else vaOf (canonical56 t.base)

def TDesc.scaleAddr (t : TDesc) : Int := vaOf (canonical56 t.sbase)

/-- VERADDR's word; none where the descriptor gives 0. -/
def TDesc.versionAddr (t : TDesc) : Option Word := if t.veraddr = 0 then none else some (canonical56 t.veraddr)

def TDesc.extent (t : TDesc) (d : Nat) : Nat := if d < t.rank then t.x.getD d 0 else 1

def TDesc.stride (t : TDesc) (d : Nat) : Int := if d < t.rank then t.str.getD d 0 else 0

/-- Where an element stands: the byte of its first bit, that bit, and its Mantle owner. In a handle-backed tensor
the byte is an offset in the handle. -/
structure Elem where
  addr  : Int
  bit   : Nat
  owner : Option (Nat × Nat)
  deriving DecidableEq, Repr

def idxAt (l : List Nat) (d : Nat) : Nat := l.getD d 0

/-- The offset in elements (R162). -/
def TDesc.offset (t : TDesc) (i : List Nat) : Int := (List.range t.rank).foldl (fun a d => a + (idxAt i d : Int) * t.stride d) 0

/-- The element at a bit offset from a byte. -/
def elemFrom (base : Int) (bits : Nat) (off : Int) (owner : Option (Nat × Nat)) : Elem :=
  ⟨base + off * bits / 8, (off * bits % 8).toNat, owner⟩

/-- Owner coordinate and local index along a dimension of a Mantle entry (R253). -/
def MEnt.splitIndex (e : MEnt) (d i : Nat) : Nat × Nat :=
  let b := e.b.getD d 0
  let p := e.p.getD d 1
  match e.split.getD d 0 with
  | 1 => (i / b, i % b)
  | 2 => (i / b % p, i / (b * p) * b + i % b)
  | _ => (0, i)

/-- The element of a Mantle-bound tensor at its owner (R253). -/
def MEnt.resolve (e : MEnt) (t : TDesc) (i : List Nat) : Elem :=
  let r := (List.range e.rank).foldl (fun (a : Nat × Nat × Int) d =>
    let p := e.splitIndex d (idxAt i d)
    (a.1 + p.1 * a.2.1, a.2.1 * e.p.getD d 1, a.2.2 + (p.2 : Int) * (e.lstr.getD d 0 : Nat))) (0, 1, 0)
  elemFrom (vaOf (e.obase.getD r.1 0) + t.base) t.fmt.bits r.2.2 (some (e.peern.getD r.1 255, e.odie.getD r.1 0))

/-- Where an element stands (R162, R253). -/
def TDesc.elem (t : TDesc) (m : Option MEnt) (i : List Nat) : Elem :=
  match m with
  | some e => e.resolve t i
  | none => elemFrom t.baseAddr t.fmt.bits (t.offset i) none

/-- Bytes that an element of the tensor touches. -/
def TDesc.elemBytes (t : TDesc) (e : Elem) : Nat := (e.bit + t.fmt.bits + 7) / 8

/-- Every index lies below its extent (R162). -/
def TDesc.inExtents (t : TDesc) (i : List Nat) : Bool := (List.range 6).all fun d => idxAt i d < t.extent d

/-! ## Scale pairs -/

/-- Indices lo to 5 flattened row-major, the highest outermost (R158). -/
def TDesc.flatten (t : TDesc) (i : List Nat) (lo : Nat) : Nat :=
  ((List.range 6).reverse.filter (lo ≤ ·)).foldl (fun a d => a * t.extent d + idxAt i d) 0

/-- Address of the pair of the block that holds an element (R158). -/
def TDesc.pairAddr (t : TDesc) (i : List Nat) : Int :=
  if t.linear then t.scaleAddr + 2 * ((idxAt i 0 + t.extent 0 * t.flatten i 1) / 32 : Nat)
  else
    let tcols := t.extent 0 / 128
    let trows := t.extent 1 / 128
    let tile := idxAt i 0 / 128 + tcols * (idxAt i 1 / 128 + trows * t.flatten i 2)
    let row := idxAt i 1 % 128
    let j := idxAt i 0 % 128 / 32
    t.scaleAddr + (1024 * tile + 256 * ((j + row) % 4) + 2 * row : Nat)

/-- R159 for an access to n elements from i0 along dimension 0. -/
def TDesc.scaleOk (t : TDesc) (i0 n : Nat) : Bool :=
  (if t.linear then t.extent 0 % 32 = 0 && t.scaleAddr % 64 = 0
   else 2 ≤ t.rank && t.extent 0 % 128 = 0 && t.extent 1 % 128 = 0 && t.scaleAddr % 1024 = 0)
  && t.stride 0 = 1 && ((List.range 6).all fun d => d = 0 || t.stride d % 32 = 0) && i0 % 32 = 0 && n % 32 = 0

/-! ## Checks of a use -/

/-- The Mantle entry of an identifier (R249). -/
def State.mantleOf (s : State) (t : TDesc) : Option MEnt := if t.mb then some (s.mantle.read .reset t.ment) else none

/-- R252's comparison of the identifier with its entry. -/
def mantleFits (tenant : Nat) (t : TDesc) (e : MEnt) : Bool :=
  e.rank != 0 && e.tenant = some tenant && e.rank = t.rank
    && ((List.range t.rank).all fun d => e.x.getD d 0 = t.extent d && t.stride d = (e.lstr.getD d 0 : Nat))
    && (!t.fmt.isTxb || e.split.getD 0 0 = 0 || e.b.getD 0 0 % 32 = 0)

def State.mantleOk (s : State) (c : Ctx) (t : TDesc) : Bool :=
  match s.mantleOf t with
  | none => true
  | some e => mantleFits c.tenant t e

/-- A handle in use: its state (08 R166). -/
def Ctx.handleChk (c : Ctx) (sl : Slot) (h : Nat) : Chk :=
  if c.pk.handles ≤ h then trapOf 0x03 2 sl
  else
    match (c.handle h).st with
    | .unallocated | .bad => trapOf 0x04 1 sl
    | .pending => .wait 12
    | .bound => .ok

/-- A tensor identifier in use: allotment, state, the Mantle, and the state of its handle (R161; 12 R252; 08 R166). -/
def State.tensorChk (s : State) (c : Ctx) (sl : Slot) (tn : Nat) : Chk :=
  if c.pk.tns ≤ tn then trapOf 0x03 3 sl
  else
    match (c.tensor tn).st with
    | .unallocated | .bad => trapOf 0x05 1 sl
    | .pending => .wait 12
    | .bound =>
      let t := (c.tensor tn).desc
      (Chk.need (s.mantleOk c t) (trapOf 0x05 4 sl)).and
        (match t.handle with
          | some h => c.handleChk sl h
          | none => .ok)

/-- An instruction that names an identifier bound to the Mantle waits for the context's own SHMAPs (12 R251). -/
def State.shmapChk (s : State) (key : Nat) (c : Ctx) (mb : Bool) : Chk :=
  Chk.need (!mb || !((s.ctxAccs key c).any fun a => a.op.isShmap)) (.wait 12)

/-- The same for an engine command, whose identifiers may be PENDING. -/
def State.shmapsChk (s : State) (key : Nat) (c : Ctx) (tns : List Nat) : Chk :=
  s.shmapChk key c (tns.any fun tn => (c.tensor tn).st = .pending || (c.tensor tn).desc.mb)

/-- Bounds and alignment of an element in a handle: detail 2 or 3 of a handle fault (08 R169). -/
def TDesc.handleFault (t : TDesc) (size : Nat) (e : Elem) : Option Nat :=
  if e.addr < 0 ∨ (size : Int) < e.addr + t.elemBytes e then some 2
  else if !t.fmt.isTxb && e.addr % (t.fmt.bits / 8 : Nat) != 0 then some 3
  else none

/-- Range and alignment of an element in virtual memory (08 R181). -/
def TDesc.virtFault (t : TDesc) (e : Elem) : Option AFault :=
  if !vaValid e.addr (t.elemBytes e) then some faultCanon
  else if !t.fmt.isTxb && e.addr % (t.fmt.bits / 8 : Nat) != 0 then some faultAlign
  else none

/-- Elements that an engine moves together: a whole block of a TXB tensor. -/
def TDesc.copyStep (t : TDesc) : Nat := if t.fmt.isTxb then 32 else 1
def TDesc.copyBytes (t : TDesc) : Nat := t.copyStep * t.fmt.bits / 8

/-- The first fault of some groups of elements of a tensor that a handle of a size backs, each named by the indices of its first element
(08 R169). -/
def TDesc.groupsFault (t : TDesc) (size : Nat) (l : List (List Nat)) : Option Nat :=
  l.findSome? fun i =>
    let a := (t.elem none i).addr
    if a < 0 ∨ (size : Int) < a + t.copyBytes then some 2
    else if !t.fmt.isTxb && a % (t.copyBytes : Int) != 0 then some 3
    else none

/-- That check where a handle backs the tensor. -/
def TDesc.groupsChk (t : TDesc) (c : Ctx) (sl : Slot) (l : List (List Nat)) : Chk :=
  match t.handle with
  | some h => match t.groupsFault (c.handle h).desc.size l with
    | some d => trapOf 0x04 d sl
    | none => .ok
  | none => .ok

/-- A fault that is logged to firmware when it is an OWNER refusal (R180). -/
def State.logFault (s : State) (f : AFault) (pa : Nat) : State := s.logOwner (.fault f) pa

/-! ## Pieces -/

/-- A run of bytes of an access: its place in the row, its address, owner and length, and the lane it begins with. -/
structure Piece where
  lane  : Nat
  pos   : Nat
  va    : Int
  owner : Option (Nat × Nat)
  len   : Nat
  deriving DecidableEq, Repr

/-- Whether one piece continues another within a granule (R188). -/
def Piece.joins (a b : Piece) : Bool :=
  a.va + a.len = b.va && a.pos + a.len = b.pos && a.owner = b.owner && a.va / 4096 = (b.va + b.len - 1) / 4096

/-- Pieces joined into parts where they follow one another. -/
def joinPieces : List Piece → List Piece
  | [] => []
  | p :: rest =>
    match joinPieces rest with
    | [] => [p]
    | q :: more => if p.joins q then { p with len := p.len + q.len } :: more else p :: q :: more

/-- A run cut at granules. -/
def cutPiece (p : Piece) : List Piece :=
  (parts p.va p.len).map fun r => { p with pos := p.pos + (r.1 - p.va).toNat, va := r.1, len := r.2 }

/-- Pieces cut at granules and joined again. -/
def toParts (l : List Piece) : List Piece := joinPieces (l.flatMap cutPiece)

/-- The kind of a slot access for translation; tensor-qualified writes are marked apart (R180). -/
def State.locatePiece (s : State) (w : Who) (k : AKind) (tq : Bool) (p : Piece) : XRes :=
  s.translateOwner w k tq p.owner p.va p.len

/-- The results of translating parts. -/
structure Located where
  reads  : List RPiece
  nonres : List Piece
  faults : List (Piece × AFault)
  poison : Bool
  deriving DecidableEq, Repr

/-- Translate the parts of a read (R180, R182). -/
def State.locateReads (s : State) (w : Who) (k : AKind) (ps : List Piece) : Located :=
  ps.foldr (fun p r =>
    match s.locatePiece w k false p with
    | .ok l => { r with reads := ⟨p.lane, p.pos, p.va, p.owner, p.len, l, s.mapsBy w p.owner p.va⟩ :: r.reads }
    | .nonres => { r with nonres := p :: r.nonres }
    | .fault f => { r with faults := (p, f) :: r.faults }
    | .poison _ => { r with poison := true }
    | .held => r) ⟨[], [], [], false⟩

/-- TLB entries that parts bring in. -/
def State.fillTlb (s : State) (w : Who) (ps : List Piece) : State :=
  ps.foldl (fun s p => if ownerHere p.owner then s.tlbFill w (va56 p.va) else s) s

/-- The reported fault: that of the lowest lane, or address where lanes agree (R188). -/
def firstFault (l : List (Piece × AFault)) : Option (Piece × AFault) :=
  l.foldl (fun m p => match m with
    | none => some p
    | some q => if p.1.lane < q.1.lane ∨ (p.1.lane = q.1.lane ∧ p.1.va < q.1.va) then some p else some q) none

/-- The lanes of w bits that a piece covers, as a mask. -/
def Piece.laneMask (p : Piece) (w : Nat) : Mask :=
  let lo := p.pos * 8 / w
  let n := p.len * 8 / w
  maskLow (lo + n) &&& ~~~(maskLow lo)

end Sys2Proof.Machine
end

