-- ==== Sys2Proof/Machine/Matrix.lean ====
section
/-! DEFINITION. The matrix slot's commands: pushes with their column sums (07 R163; 10 R210 to R213, R220), virtual rows and
MUNF (R218, R219), MWLD (R215 to R217), MACZ (17 R347), MLEASE and MREL (17 R352). -/

namespace Sys2Proof.Machine

/-! ## Column sums (07 R163; 10 R213) -/

/-- a * w as a term: 0 times an infinity is a NaN. -/
def termMul (a w : FVal) : FVal :=
  match a, w with
  | .nan _, _ | _, .nan _ => .nan false
  | .fin n m e, .fin k m' e' => .fin (n ^^ k) (m * m') (e + e')
  | _, _ => if a.isZero || w.isZero then .nan false else .inf (a.neg ^^ w.neg)

/-- a + w or a - w, exact; opposite infinities give a NaN, and an exact zero is +0 unless both terms are -0. -/
def termAdd (minus : Bool) (a w : FVal) : FVal :=
  match a, w with
  | .nan _, _ | _, .nan _ => .nan false
  | .inf n, .inf k => if n = (k ^^ minus) then .inf n else .nan false
  | .inf n, _ => .inf n
  | _, .inf k => .inf (k ^^ minus)
  | .fin n m e, .fin k m' e' =>
    let k := k ^^ minus
    let lo := if e < e' then e else e'
    let v : Int := (m * 2 ^ (e - lo).toNat : Nat)
    let v' : Int := (m' * 2 ^ (e' - lo).toNat : Nat)
    let s := (if n then -v else v) + (if k then -v' else v')
    .fin (if s = 0 then n && k else s < 0) s.natAbs lo

/-- |a - w|. -/
def termDist (a w : FVal) : FVal :=
  match termAdd true a w with
  | .inf _ => .inf false
  | .fin _ m e => .fin false m e
  | v => v

/-- The exact sum of a group, rounded once to F32 (R163). -/
def groupSum (ts : List FVal) : FRes :=
  let pos := ts.any fun t => t.isInf && !t.neg
  let neg := ts.any fun t => t.isInf && t.neg
  if ts.any FVal.isNan || (pos && neg) then (defaultNan .f32, flagNV)
  else if pos || neg then (withSign .f32 neg (infBits .f32), 0)
  else
    let lo := ts.foldl (fun a t => match t with
      | .fin _ _ e => if e < a then e else a
      | _ => a) (1000 : Int)
    let s := ts.foldl (fun (a : Int) t => match t with
      | .fin n m e => let v : Int := (m * 2 ^ (e - lo).toNat : Nat); a + if n then -v else v
      | _ => a) 0
    if s = 0 then (withSign .f32 (ts.all FVal.neg) 0, 0) else roundF .f32 .nearest (s < 0) s.natAbs lo

/-- Consecutive groups of 32. -/
def groupsOf {α : Type} : Nat → List α → List (List α)
  | 0, _ => []
  | n + 1, l => l.take 32 :: groupsOf n (l.drop 32)

/-- The additions of R163 in group order, from an accumulator where there is one. -/
def addGroups (start : Option Nat) (gs : List Nat) : FRes :=
  match start, gs with
  | none, g :: rest => rest.foldl (fun (v : FRes) x => let r := fadd .f32 .nearest false v.1 x; (r.1, v.2 ||| r.2)) (g, 0)
  | some a, gs => gs.foldl (fun (v : FRes) x => let r := fadd .f32 .nearest false v.1 x; (r.1, v.2 ||| r.2)) (a, 0)
  | none, [] => (0, 0)

/-- Order of exact values: negative zero lies below positive zero (DEDUCED, log entry 13). -/
def fvalLess (a b : FVal) : Bool :=
  match a, b with
  | .inf n, .inf k => n && !k
  | .inf n, _ => n
  | _, .inf k => !k
  | .fin n m e, .fin k m' e' =>
    let lo := if e < e' then e else e'
    let v : Int := (m * 2 ^ (e - lo).toNat : Nat)
    let v' : Int := (m' * 2 ^ (e' - lo).toNat : Nat)
    let x := if n then -v else v
    let y := if k then -v' else v'
    x < y || (x = y && n && !k)
  | _, _ => false

/-- The greater value; a NaN among them wins. -/
def fvalMax (a b : FVal) : FVal := if a.isNan || b.isNan then .nan false else if fvalLess a b then b else a

def FVal.code : FVal → Nat × Bool × Nat × Int
  | .nan _ => (0, false, 0, 0)
  | .inf n => (1, n, 0, 0)
  | .fin n m e => (2, n, m, e)

def FVal.ofCode : Nat × Bool × Nat × Int → FVal
  | (0, _, _, _) => .nan false
  | (1, n, _, _) => .inf n
  | (_, n, m, e) => .fin n m e

/-- A chosen value rounded once to F32; a NaN raises NV (R163). -/
def cselRound (v : FVal) : FRes := if v.isNan then (defaultNan .f32, flagNV) else convF .nearest .f32 v

def maxOf (l : List FVal) : FVal := (l.drop 1).foldl fvalMax (l.headD (.fin false 0 0))
def maxInt (l : List Int) : Int := (l.drop 1).foldl (fun a b => if a < b then b else a) (l.headD 0)

/-- What a push holds apart from its accumulator, with its flags, in floating point (R163; 13 R276). -/
def floatPush (cell : Cell) (kd : Nat) (acc : Bool) (a : List FVal) (cols : List (List FVal)) : Push × BitVec 5 :=
  match cell with
  | .csel =>
    let ms := cols.map fun w => maxOf (a.zipWith (termAdd false) w)
    if acc then (.csel (ms.map FVal.code), 0)
    else
      let rs := ms.map cselRound
      (.row (ofLanes 32 (rs.map (·.1))), rs.foldl (fun f r => f ||| r.2) 0)
  | _ =>
    let term := if cell = .mac then termMul else termDist
    let gs := cols.map fun w => (groupsOf (4 * kd) (a.zipWith term w)).map groupSum
    let fl := gs.foldl (fun f c => c.foldl (fun f r => f ||| r.2) f) 0
    if acc then (.groups (gs.map fun c => c.map (·.1)), fl)
    else
      let rs := gs.map fun c => addGroups none (c.map (·.1))
      (.row (ofLanes 32 (rs.map (·.1))), rs.foldl (fun f r => f ||| r.2) fl)

/-- The same with accumulator type I32 (R213). -/
def intPush (cell : Cell) (acc : Bool) (a : List Int) (cols : List (List Int)) : Push :=
  match cell with
  | .csel =>
    let ms := cols.map fun w => maxInt (a.zipWith (· + ·) w)
    if acc then .cselInt ms else .row (ofLanes 32 (ms.map (wrap 32)))
  | _ =>
    let term (x y : Int) : Int := if cell = .mac then x * y else ((x - y).natAbs : Nat)
    let ss := cols.map fun w => (a.zipWith term w).foldl (· + ·) 0
    if acc then .isum ss else .row (ofLanes 32 (ss.map (wrap 32)))

/-- A push completed with the accumulator row as it stands at landing (R220; 13 R276). -/
def Push.finish (p : Push) (acc : Row) : Row × BitVec 5 :=
  let accs := lanesOf 32 acc
  let ofRes (rs : List FRes) : Row × BitVec 5 := (ofLanes 32 (rs.map (·.1)), rs.foldl (fun f r => f ||| r.2) 0)
  match p with
  | .row r => (r, 0)
  | .groups g => ofRes (g.zipWith (fun c a => addGroups (some a) c) accs)
  | .csel m => ofRes (m.zipWith (fun c a => cselRound (fvalMax (decodeF .f32 a) (.ofCode c))) accs)
  | .cselInt m => (ofLanes 32 (m.zipWith (fun v a => wrap 32 (if signedOf 32 a < v then v else signedOf 32 a)) accs), 0)
  | .isum m => (ofLanes 32 (m.zipWith (fun (v : Int) (a : Nat) => wrap 32 (v + a)) accs), 0)

/-! ## Weight buffers (10 R214) -/

/-- Data of column c: bytes 256c to 256c+255 of the image. -/
def WBuf.column (w : WBuf) (c : Nat) : Nat := w.image.toNat / 2 ^ (2048 * c) % 2 ^ 2048

/-- The pair of weight block b of column c. -/
def WBuf.pair (w : WBuf) (kd c b : Nat) : Nat × Nat :=
  let a := 2 * (c * 4 * kd + b)
  (w.scales.toNat / 2 ^ (8 * a) % 256, w.scales.toNat / 2 ^ (8 * (a + 1)) % 256)

/-- A push of A data under its pairs against a buffer (R163, R212, R213). -/
def pushOf (cell : Cell) (f : PushFmt) (acct : Ty) (acc : Bool) (data : Nat) (pair : Nat → Nat × Nat) (w : WBuf) : Push × BitVec 5 :=
  if acct = .i32 then
    let a := intVals f data pair
    let cols := (List.range 128).map fun c => intVals f (w.column c) (w.pair f.kd c)
    let nv := a.any (·.2) || cols.any fun l => l.any (·.2)
    (intPush cell acc (a.map (·.1)) (cols.map fun l => l.map (·.1)), if nv then flagNV else 0)
  else
    floatPush cell f.kd acc (floatVals f data pair) ((List.range 128).map fun c => floatVals f (w.column c) (w.pair f.kd c))

/-- Latency of a push (R210). -/
def pushLatency (f : PushFmt) (virt : Bool) : Nat :=
  (match f with
    | .bf16 | .f16 => 140
    | .txb8 | .txb6 => 142
    | .txb4 => 144
    | .i8 => 132) + if virt then 8 else 0

/-! ## Virtual rows (10 R219) -/

/-- Byte of element k of the virtual row for output position (oy, ox) and chunk j, before OFFB; none where it reads as 0. -/
def Unfold.element (u : Unfold) (n oy ox j k : Nat) : Option Nat :=
  let kappa := n * j + k
  let ch := kappa % u.c
  let kx := kappa / u.c % u.kw
  let ky := kappa / (u.c * u.kw)
  let iy : Int := ((oy * u.sy + ky * u.dy : Nat) : Int) - (u.py : Nat)
  let ix : Int := ((ox * u.sx + kx * u.dx : Nat) : Int) - (u.px : Nat)
  if u.kh ≤ ky ∨ iy < 0 ∨ (u.ih : Int) ≤ iy ∨ ix < 0 ∨ (u.iw : Int) ≤ ix then none
  else some ((iy.toNat * u.iw + ix.toNat) * u.c + ch)

/-- An element of the unfolding source. Bytes that no longer lie in a bound TILE handle have no stated value and are free
(log entry 4). -/
def Ctx.unfolded (c : Ctx) (free : Nat) (u : Unfold) (f : PushFmt) (oy ox j k : Nat) : Nat :=
  let b := f.ty.bits / 8
  match u.element (128 * f.kd) oy ox j k with
  | none => 0
  | some i =>
    let h := c.handle u.h
    let a := u.offb + i * b
    if h.st = .bound && h.desc.level = .tile && a + b ≤ h.desc.size then numOf (h.read a b)
    else (Config.freeWord (free + k)).toNat % 2 ^ f.ty.bits

/-- The data of a virtual row. -/
def Ctx.virtualRow (c : Ctx) (free : Nat) (u : Unfold) (f : PushFmt) (x : Nat) : Nat :=
  let e := c.readE 24
  packNat f.ty.bits ((List.range (128 * f.kd)).map fun k => c.unfolded free u f (field e 31 0) x (field e 63 32) k)

/-! ## Pushes (17 R353 to R355) -/

/-- Need of a matrix command (03 R62). -/
def matrixNeed (_ : State) (_ : Nat) (_ : Ctx) : Need := { Need.none with lease := some true }

/-- Step 5 of R354. -/
def bufferChk (c : Ctx) (wb : Bool) (f : PushFmt) : Chk :=
  Chk.need ((c.wbuf (if wb then 1 else 0)).fmt = some f) (trapOf 0x0C 0 .mx)

def rowsOwn (c : Ctx) (l : List Nat) : Chk := Chk.need (l.all (· < c.pk.rows)) (trapOf 0x03 1 .mx)

/-- MMA on an A row (R355). -/
def mmaOp (cell : Cell) (wb : Bool) (src dst : Nat) (acc : Bool) (f : PushFmt) : SlotOp where
  own := fun _ _ c => (rowsOwn c [dst, src]).and (bufferChk c wb f)
  need := matrixNeed
  effect := fun s key c =>
    let row := (c.readRow src).toNat
    let p := pushOf cell f c.acct acc row (rowPair row) (c.wbuf (if wb then 1 else 0))
    (s.produce key .mx (pushLatency f false) (.mx dst p.1) false 0 0 p.2).leaseCount key
def execMma (cell : Cell) (wb : Bool) (src dst : Nat) (acc : Bool) (f : PushFmt) (s : State) : Host.Outcome State Fault Refusal :=
  issueSlot (.mma cell wb src dst acc f) (mmaOp cell wb src dst acc f) s

/-- Step 6 of R354. -/
def virtualChk (c : Ctx) (f : PushFmt) : Chk :=
  match c.unf with
  | none => trapOf 0x04 1 .mx
  | some u => Chk.need (128 * f.kd * field (c.readE 24) 63 32 < u.kh * u.kw * u.c) (trapOf 0x04 1 .mx)

/-- MMA on a virtual row (R219, R355). -/
def mmaVirtualOp (cell : Cell) (wb : Bool) (x dst : Nat) (acc : Bool) (f : PushFmt) : SlotOp where
  own := fun _ _ c => (rowsOwn c [dst]).and ((bufferChk c wb f).and (virtualChk c f))
  need := matrixNeed
  effect := fun s key c =>
    match c.unf with
    | none => s
    | some u =>
      let p := pushOf cell f c.acct acc (c.virtualRow s.free u f x) (fun _ => (0, 0)) (c.wbuf (if wb then 1 else 0))
      (({ s with free := s.free + 128 * f.kd }).produce key .mx (pushLatency f true) (.mx dst p.1) false 0 0 p.2).leaseCount key
def execMmaVirtual (cell : Cell) (wb : Bool) (x dst : Nat) (acc : Bool) (f : PushFmt) (s : State) :
    Host.Outcome State Fault Refusal := issueSlot (.mmaVirtual cell wb x dst acc f) (mmaVirtualOp cell wb x dst acc f) s

/-- MACZ (R347). -/
def maczOp (d n : Nat) : SlotOp where
  own := fun _ _ c => rowsOwn c [d + n - 1]
  need := matrixNeed
  effect := fun s key _ => (s.produce key .mx 2 (.macz d n) false 0 0 0).leaseCount key
def execMacz (d n : Nat) (s : State) : Host.Outcome State Fault Refusal := issueSlot (.macz d n) (maczOp d n) s

/-! ## MUNF (10 R218; 17 R358) -/

def Unfold.inRange (u : Unfold) : Bool := [u.c, u.iw, u.ih, u.dx, u.dy, u.sx, u.sy, u.kw, u.kh].all (0 < ·)

/-- Whether granule g of a handle with fills is FILLED; a handle without fill is always so (08 R170). -/
def Handle.granFilled (h : Handle) (g : Nat) : Bool := !(h.desc.bmode != 0) || h.filled.read false g

/-- Granules of 4 KiB that a run of bytes of a handle meets. -/
def granulesOf (off n : Nat) : List Nat := if n = 0 then [] else (List.range ((off + n - 1) / 4096 + 1 - off / 4096)).map (off / 4096 + ·)

/-- Handle checks of R218 on the bound handle. -/
def unfoldFits (h : Handle) (u : Unfold) (b : Nat) : Chk :=
  let n := u.ih * u.iw * u.c * b
  (Chk.need (h.desc.level = .tile) (trapOf 0x04 1 .mx)).and <|
  (Chk.need (u.offb % b = 0) (trapOf 0x04 3 .mx)).and <|
  (Chk.need (u.offb + n ≤ h.desc.size) (trapOf 0x04 2 .mx)).and <|
  Chk.need ((granulesOf u.offb n).all h.granFilled) (trapOf 0x04 1 .mx)

def munfOwn (h : Nat) (_ : State) (_ : Nat) (c : Ctx) : Chk :=
  let u := unfoldOf h (c.readE 20) (c.readE 21) (c.readE 22)
  (c.handleChk .mx h).and <|
  (Chk.need (field (c.readE 20) 63 48 = 0 && field (c.readE 22) 63 32 = 0) (trapOf 0x0D 0 .mx)).and <|
  (Chk.need u.inRange (trapOf 0x0C 0 .mx)).and <|
  unfoldFits (c.handle h) u c.unfoldBytes

/-- MUNF: the geometry travels to its landing at t + 4 (R222). -/
def munfOp (h : Nat) : SlotOp where
  own := munfOwn h
  need := matrixNeed
  effect := fun s key c =>
    let v := (c.readE 20).toNat + (c.readE 21).toNat * 2 ^ 64 + (c.readE 22).toNat * 2 ^ 128 + h * 2 ^ 192
    (s.produce key .mx 4 .unfold false 0 (BitVec.ofNat 4096 v) 0).leaseCount key
def execMunf (h : Nat) (s : State) : Host.Outcome State Fault Refusal := issueSlot (.munf h) (munfOp h) s

/-- The unfolding state that a landing MUNF leaves. -/
def unfoldLanding (v : Row) : Unfold :=
  unfoldOf (field v 199 192) (BitVec.ofNat 64 (field v 63 0)) (BitVec.ofNat 64 (field v 127 64)) (BitVec.ofNat 64 (field v 191 128))

/-! ## MWLD (10 R215 to R217; 17 R359) -/

/-- Allotment of the tokens that a command names (06 R140). -/
def tokensOwn (c : Ctx) (sl : Slot) (give : Nat) (a : After) : Chk :=
  Chk.need ((give :: [a.a0, a.a1, a.a2].filterMap id).all (· < c.pk.tokens)) (trapOf 0x03 4 sl)

/-- The origin that e16 and e17 name: (k0, c0, i2, i3, i4, i5). -/
def mwldOrigin (e16 e17 : Word) : List Nat :=
  [field e16 31 0, field e16 63 32, field e17 15 0, field e17 31 16, field e17 47 32, field e17 63 48]

/-- The push format of an element type (R210). -/
def pushFmtOf : Ty → Option PushFmt
  | .bf16 => some .bf16
  | .f16 => some .f16
  | .txb8 => some .txb8
  | .txb6 => some .txb6
  | .txb4 => some .txb4
  | .i8 => some .i8
  | _ => none

/-- The groups of elements of column c that MWLD reads: those within the extents (R215). -/
def TDesc.weightGroups (t : TDesc) (o : List Nat) (c : Nat) : List (List Nat) :=
  let at_ (k : Nat) : List Nat := (idxAt o 0 + k) :: (idxAt o 1 + c) :: o.drop 2
  let n := if t.inExtents (at_ 0) then Nat.min (128 * t.fmt.kd) (t.extent 0 - idxAt o 0) else 0
  (List.range (n / t.copyStep)).map fun i => at_ (i * t.copyStep)

/-- The checks of R215, and those of R169 on the elements that it reads of a handle. -/
def mwldChk (c : Ctx) (t : TDesc) : Chk :=
  let o := mwldOrigin (c.readE 16) (c.readE 17)
  let cmp := bit (c.readE 18) 0
  let image := c.readE 19
  (Chk.need (2 ≤ t.rank && (pushFmtOf t.fmt).isSome) (trapOf 0x05 3 .mx)).and <|
  (Chk.need (t.inExtents o) (trapOf 0x05 2 .mx)).and <|
  (Chk.need (idxAt o 0 % 32 = 0) (trapOf 0x05 3 .mx)).and <|
  (Chk.need (field (c.readE 18) 63 1 = 0) (trapOf 0x0D 0 .mx)).and <|
  (Chk.need (!cmp || isCanonical image) (trapAt 0x07 1 .mx image)).and <|
  (Chk.need (!cmp || field image 5 0 = 0) (trapAt 0x07 6 .mx image)).and <|
  (Chk.need (!t.fmt.isTxb || t.scaleOk (idxAt o 0) 32) (trapOf 0x06 0 .mx)).and <|
  if cmp then .ok else t.groupsChk c .mx ((List.range 128).flatMap (t.weightGroups o))

def mwldOwn (tn give : Nat) (a : After) (s : State) (key : Nat) (c : Ctx) : Chk :=
  (tokensOwn c .mx give a).and ((s.shmapsChk key c [tn]).and ((s.tensorChk c .mx tn).and (mwldChk c (c.tensor tn).desc)))

/-- MWLD: the buffer is pending from t + 130 until the data are here (R217). It takes none of the 48 reservations, which R35 gives to loads
and to results and does not name for it (DESIGN CHOICE, log entry 60). -/
def mwldOp (wb : Bool) (tn give : Nat) (a : After) : SlotOp where
  own := mwldOwn tn give a
  need := matrixNeed
  effect := fun s key c =>
    let b := if wb then 1 else 0
    let id := s.nextId
    let p : Pend := ⟨id, !c.tm, c.time, c.time + 130, .mx, c.pc, none, none, 0, none, some b, none, [], none, c.issued, none, true⟩
    let s := ({ s with nextId := id + 1 }).mapCtx key fun x => { x with pend := x.pend ++ [p] }
    let t := (c.tensor tn).desc
    (s.command key none give a [] (.mwld b t ((s.seen c).mantleOf t) (c.stage 16 19) id)).leaseCount key
def execMwld (wb : Bool) (tn give : Nat) (a : After) (s : State) : Host.Outcome State Fault Refusal :=
  issueSlot (.mwld wb tn give a) (mwldOp wb tn give a) s

/-! ## The lease (17 R352) -/

/-- MLEASE: waits until the lease is free or its own, and takes it without counting. -/
def mleaseOp : SlotOp where
  own := noCheck
  need := fun _ _ _ => { Need.none with lease := some false }
  effect := fun s key c =>
    match (s.tile (keyTile key)).lease with
    | some _ => s
    | none =>
      (s.mapTile (keyTile key) fun t =>
        { t with lease := some (key % 4), leaseLast := key % 4, leaseCount := 0, leaseAt := c.lcc }).trace key (pktLease (key % 4) true)
def execMlease (s : State) : Host.Outcome State Fault Refusal := issueSlot .mlease mleaseOp s

/-- MREL. -/
def mrelOp : SlotOp where
  own := noCheck
  need := noNeed
  effect := fun s key _ => s.leaseDrop key
def execMrel (s : State) : Host.Outcome State Fault Refusal := issueSlot .mrel mrelOp s

/-- LEASE_TIMEOUT: a holder that has issued nothing for more than 4096 clocks since it entered BLOCKED releases the lease to one that waits
(03 R62). -/
def leaseStale (s : State) (tile : Nat) : Bool :=
  match (s.tile tile).lease with
  | none => false
  | some k =>
    match s.ctx? (tile * 4 + k) with
    | none => false
    | some c => (c.blockedAt.any fun t => t + 4096 < s.clock)
        && (s.leaseWaiters tile).any fun p => p.1 != k

def execLeaseTimeout (tile : Nat) (s : State) : Host.Outcome State Fault Refusal :=
  .next (if leaseStale s tile then s.leaseRelease tile else s)

end Sys2Proof.Machine
end

