-- ==== Sys2Proof/Machine/Transpose.lean ====
section
/-! DEFINITION. The transposer (10 R223 to R225; 18 R408). -/

namespace Sys2Proof.Machine

/-- Schedule violation of an instruction in a state that R223 does not list. -/
def xpTrap : Chk := trapOf 0x02 2 .xp

/-- Element width of WCODE (R224). -/
def wcodeBits : Nat → Nat
  | 0 => 32
  | 1 => 16
  | _ => 8

/-- The configuration that e32 describes (R224). -/
def xposeOf (e : Word) : Xpose := { Xpose.empty with
  w := wcodeBits (field e 1 0), n := field e 15 8 + 1, j0 := field e 31 16, ncol := field e 47 32 + 1,
  otype := match field e 51 48 with
    | 0xA => some .f16
    | 0xB => some .bf16
    | _ => none }

/-- Reserved bits and codes of e32, and an N beyond 128 rows (R224). -/
def xcfgReserved (e : Word) : Bool :=
  field e 63 52 = 0 && field e 7 2 = 0 && field e 1 0 != 3 && [0, 0xA, 0xB].contains (field e 51 48) && field e 15 8 < 128

/-- What makes XCFG illegal (R224). -/
def xcfgLegal (e : Word) : Bool :=
  let x := xposeOf e
  x.j0 + x.ncol ≤ 4096 / x.w && x.n * x.ncol * x.w ≤ 131072 && (x.otype.isNone || x.w = 32)

/-- XCFG (R223, R224). -/
def xcfgOp : SlotOp where
  own := fun _ _ c =>
    (Chk.need (c.xpose.st = .empty) xpTrap).and <|
    (Chk.need (xcfgReserved (c.readE 32)) (trapOf 0x0D 0 .xp)).and <|
    Chk.need (xcfgLegal (c.readE 32)) (trapOf 0x0C 0 .xp)
  need := noNeed
  effect := fun s key c => s.mapCtx key fun x => { x with xpose := xposeOf (c.readE 32) }
def execXcfg (s : State) : Host.Outcome State Fault Refusal := issueSlot .xcfg xcfgOp s

/-- The lanes of a source that XPUSH keeps. -/
def Xpose.taken (x : Xpose) (r : Row) : Row := BitVec.ofNat 4096 (r.toNat / 2 ^ (x.w * x.j0) % 2 ^ (x.w * x.ncol))

/-- The transposer after a row is recorded: at an lc, in program time or in trap time, and at a count of both together (R223). -/
def Xpose.push (x : Xpose) (now : Lc) (prog : Bool) (comb : Nat) (r : Row) : Xpose :=
  let rows := x.rows ++ [x.taken r]
  if rows.length < x.n then { x with st := .filling, rows := rows } else { x with st := .draining, rows := rows, col := 0, tlast := now, tprog := prog, tcomb := comb }

/-- XPUSH (R225): it has no TYPE, so that LANE and a broadcast scalar take the width of CTL.ACCT (DEDUCED, log entry 15). -/
def xpushOp (a : VSrc) : SlotOp where
  own := fun s key c => (vecOwn .xp [a] .off s key c).and (Chk.need (c.xpose.st != .draining) xpTrap)
  need := noNeed
  effect := fun s key c => s.mapCtx key fun x => { x with xpose := x.xpose.push c.time (!c.tm) c.comb (c.vector .b c.width a) }
def execXpush (a : VSrc) (s : State) : Host.Outcome State Fault Refusal := issueSlot (.xpush a) (xpushOp a) s

/-- Column j: lane j of the recorded rows, narrowed where OTYPE says so, with its flags (R225). -/
def Xpose.column (x : Xpose) (j : Nat) : Row × BitVec 5 :=
  let xs := x.rows.map fun r => r.toNat / 2 ^ (x.w * j) % 2 ^ x.w
  match x.otype with
  | none => (ofLanes x.w xs, 0)
  | some t =>
    let rs := xs.map fun v => convF .nearest t (decodeF .f32 v)
    (ofLanes 16 (rs.map (·.1)), rs.foldl (fun f r => f ||| r.2) 0)

/-- The transposer after a column has gone. -/
def Xpose.pop (x : Xpose) : Xpose :=
  if x.col + 1 < x.ncol then { x with col := x.col + 1 } else { x with st := .empty, rows := [], col := 0 }

/-- Column j is ready from t_last + 11 + j (R223), the lc compared modulo 2^48 (02 R23). A program's lc are those of CTL.LCC, whatever traps come
between; where the push or the pop is a handler's, whose TLC starts at 0 at every trap, the count is that of both times together (DEDUCED, log entry
67). -/
def Ctx.columnReady (c : Ctx) : Bool :=
  if c.xpose.tprog && !c.tm then lcLe (c.xpose.tlast + BitVec.ofNat 48 (11 + c.xpose.col)) c.lcc else c.xpose.tcomb + 11 + c.xpose.col ≤ c.comb

/-- XPOP (R223). -/
def xpopOp (d : VDst) : SlotOp where
  own := fun s key c => (vecOwn .xp [] d s key c).and <|
    Chk.need (c.xpose.st = .draining && c.columnReady) xpTrap
  need := vecNeed d
  effect := fun s key c =>
    let r := c.xpose.column c.xpose.col
    let s := s.mapCtx key fun x => { x with xpose := x.xpose.pop }
    match d with
    | .row n => s.produce key .xp 1 (.row n 32) false (maskLow 128) r.1 r.2
    | .port q => (s.mapCtx key fun c => c.takeCredit d).produce key .xp 1 (.port q) false (maskLow c.xpose.n) r.1 r.2
    | .off => s
def execXpop (d : VDst) (s : State) : Host.Outcome State Fault Refusal := issueSlot (.xpop d) (xpopOp d) s

end Sys2Proof.Machine
end

