-- ==== Sys2Proof/Machine/LoadStore.lean ====
section
/-! DEFINITION. The load and store slots (16 R339, R340; 17 R371, R372; 18 R391 to R397) over TILE handles with their fills
(08 R168 to R172), windows (R173, R199) and virtual or Mantle-bound tensors (R180 to R188; 12 R253 to R255). -/

namespace Sys2Proof.Machine

/-! ## What an access touches -/

/-- The bytes of an access: pieces of a handle, whose `va` is an offset in it, and pieces of virtual memory. -/
structure Plan where
  h      : Option Nat
  chunks : List Piece
  virt   : List Piece
  deriving DecidableEq, Repr

/-- Pieces of LD and ST: one element at the handle's byte. -/
def scalarPlan (h addr n : Nat) : Plan := ⟨some h, [⟨0, 0, addr, none, n⟩], []⟩

/-- Pieces of VLD and VST: the lanes that are on, of w bits each, from a byte of the handle (R169; 18 R394). -/
def rowPlan (h addr w : Nat) (on : Mask) : Plan :=
  ⟨some h, joinPieces (((List.range (4096 / w)).filter (bit on)).map fun i => ⟨i, i * (w / 8), addr + (i * (w / 8) : Nat), none, w / 8⟩), []⟩

/-- Elements of a tensor, each with its lane. -/
def TDesc.lanePieces (t : TDesc) (m : Option MEnt) (items : List (Nat × List Nat)) : List Piece :=
  let b := t.fmt.bits / 8
  items.map fun p => let e := t.elem m p.2; ⟨p.1, p.1 * b, e.addr, e.owner, b⟩

/-- The blocks of a push-form row from an element (18 R396). -/
def TDesc.blockPieces (t : TDesc) (m : Option MEnt) (i : List Nat) : List Piece :=
  let bb := 4 * t.fmt.bits
  (List.range (4 * t.fmt.kd)).map fun j =>
    let e := t.elem m ((idxAt i 0 + 32 * j) :: i.drop 1)
    ⟨2 * j, j * bb, e.addr, e.owner, bb⟩

/-- The pairs of those blocks, at SBASE in virtual memory (R158). -/
def TDesc.pairPieces (t : TDesc) (i : List Nat) : List Piece :=
  (List.range (4 * t.fmt.kd)).map fun j => ⟨2 * j + 1, 256 + 2 * j, t.pairAddr ((idxAt i 0 + 32 * j) :: i.drop 1), none, 2⟩

/-- Pieces of a tensor access, in the handle or in virtual memory; pairs are virtual always. -/
def TDesc.plan (t : TDesc) (data pairs : List Piece) : Plan :=
  match t.handle with
  | some h => ⟨some h, data, pairs⟩
  | none => ⟨none, [], data ++ pairs⟩

/-! ## Checks -/

/-- Bounds then alignment of a handle access (R169): details 2 and 3. -/
def handleRunChk (sl : Slot) (size align base : Nat) (pl : Plan) : Chk :=
  if pl.chunks.isEmpty then .ok
  else
    (Chk.need (pl.chunks.all fun p => p.va + p.len ≤ (size : Int)) (trapOf 0x04 2 sl)).and
      (Chk.need (base % align = 0) (trapOf 0x04 3 sl))

/-- An element of a handle-backed tensor: detail 2 or 3 (R169). -/
def TDesc.chunkFault (t : TDesc) (size : Nat) (p : Piece) : Option Nat :=
  if p.va < 0 ∨ (size : Int) < p.va + p.len then some 2
  else if !t.fmt.isTxb && p.va % (p.len : Int) != 0 then some 3
  else none

/-- An element of virtual memory: CANON or ALIGN (R181). -/
def TDesc.pieceFault (t : TDesc) (p : Piece) : Option AFault :=
  if !vaValid p.va p.len then some faultCanon
  else if !t.fmt.isTxb && p.va % (p.len : Int) != 0 then some faultAlign
  else none

/-- Handle faults of a tensor access, by lane (R169). -/
def TDesc.chunkChk (t : TDesc) (c : Ctx) (sl : Slot) (pl : Plan) : Chk :=
  match pl.h with
  | none => .ok
  | some h => match pl.chunks.findSome? (t.chunkFault (c.handle h).desc.size) with
    | some d => trapOf 0x04 d sl
    | none => .ok

/-- CANON and ALIGN of a store are found at its own bundle (DEDUCED, log entry 16). -/
def TDesc.virtChk (t : TDesc) (sl : Slot) (pl : Plan) : Chk :=
  match pl.virt.findSome? fun p => (t.pieceFault p).map fun f => (p, f) with
  | some (p, f) => trapAt f.code f.detail sl (pcOf p.va)
  | none => .ok

/-- Format checks of the tensor forms (R391, R396): a TXB format takes no gather, predicate, mask register or LANE. -/
def tensorFormat (c : Ctx) (sl : Slot) (t : TDesc) (gather : Bool) (p : Pred) (mr : Nat) (srcs : List VSrc) : Chk :=
  Chk.need (if t.fmt.isTxb then !gather && p.mask = 0 && !p.inv && mr = 0 && !srcs.contains .lane else t.fmt.bits = c.width)
    (trapOf 0x0C 0 sl)

/-- The checks before the elements are looked at: allotments, identifier, format, handover, heads. -/
def tensorOwn (sl : Slot) (tn : Nat) (gather : Bool) (p : Pred) (mr : Nat) (srcs : List VSrc) (dst : VDst) (s : State) (key : Nat)
    (c : Ctx) : Chk :=
  let t := (c.tensor tn).desc
  (c.allotChk sl srcs dst).and <| (s.shmapChk key c t.mb).and <| (s.tensorChk c sl tn).and <|
    (tensorFormat c sl t gather p mr srcs).and <| (c.handover sl srcs).and (c.headsChk sl srcs)

/-! ## Indices -/

/-- Indices i0, i1, ... that the scalars from IS give (07 R162; 18 R396). -/
def Ctx.indices (c : Ctx) (is rank : Nat) : List Nat := (List.range rank).map fun d => (c.readS (is + rank - 1 - d)).toNat

/-- Lanes that are on, each with its indices along dimension 0. -/
def laneItems (on : Mask) (n : Nat) (i : List Nat) : List (Nat × List Nat) :=
  ((List.range n).filter (bit on)).map fun j => (j, (idxAt i 0 + j) :: i.drop 1)

/-- A linear index decomposed over the extents; none at or beyond their product (R391). -/
def TDesc.splitFrom (t : TDesc) : Nat → Nat → Nat → Option (List Nat)
  | 0, _, k => if k = 0 then some [] else none
  | f + 1, d, k => (t.splitFrom f (d + 1) (k / t.extent d)).map fun rest => k % t.extent d :: rest

def TDesc.split (t : TDesc) (k : Nat) : Option (List Nat) := t.splitFrom t.rank 0 k

/-- Lanes that are on with their decomposed indices; a lane beyond the extents has none. -/
def TDesc.gatherItems (t : TDesc) (on : Mask) (ks : List Nat) : List (Nat × Option (List Nat)) :=
  ((List.range ks.length).filter (bit on)).map fun j => (j, t.split (laneAt ks j))

def keepItems (l : List (Nat × Option (List Nat))) : List (Nat × List Nat) := l.filterMap fun p => p.2.map fun i => (p.1, i)

/-- The plan of VLDT and VSTT. -/
def State.linearPlan (s : State) (c : Ctx) (t : TDesc) (is : Nat) (on : Mask) : Plan :=
  let i := c.indices is t.rank
  let m := s.mantleOf t
  if t.fmt.isTxb then t.plan (t.blockPieces m i) (t.pairPieces i)
  else t.plan (t.lanePieces m (laneItems on c.lanes i)) []

/-- Index and scale checks of VLDT and VSTT (R396; 07 R159): the indices above i0 are checked whatever lanes are on. -/
def linearChk (c : Ctx) (sl : Slot) (t : TDesc) (is : Nat) (on : Mask) : Chk :=
  let i := c.indices is t.rank
  (Chk.need (is + t.rank ≤ 64) (trapOf 0x05 2 sl)).and <|
    if t.fmt.isTxb then
      (Chk.need (t.scaleOk (idxAt i 0) (128 * t.fmt.kd)) (trapOf 0x06 0 sl)).and
        (Chk.need (t.inExtents i && idxAt i 0 + 128 * t.fmt.kd ≤ t.extent 0) (trapOf 0x05 2 sl))
    else Chk.need (t.inExtents (0 :: i.drop 1) && (laneItems on c.lanes i).all fun p => t.inExtents p.2) (trapOf 0x05 2 sl)

/-- The plan of VGATH and VSCAT: lane j of the index vector is read as unsigned. -/
def State.gatherPlan (s : State) (t : TDesc) (on : Mask) (ks : List Nat) : Plan :=
  t.plan (t.lanePieces (s.mantleOf t) (keepItems (t.gatherItems on ks))) []

def gatherChk (sl : Slot) (t : TDesc) (on : Mask) (ks : List Nat) : Chk :=
  Chk.need ((t.gatherItems on ks).all fun p => p.2.isSome) (trapOf 0x05 2 sl)

/-- An index vector: it has no TYPE, so that LANE counts lanes (DEDUCED, log entry 15). -/
def Ctx.indexLanes (c : Ctx) (ix : VSrc) : List Nat := c.vlanes .b c.width ix

/-! ## Windows (08 R173) -/

/-- The target that a window of a context on some tile names. -/
def targetOf (key : Nat) (d : HDesc) : Target :=
  match d.level with
  | .xwin => .key (if d.peern = 255 then none else some d.peern) d.tdie d.key
  | _ => if d.kf then .key none (keyDie key) d.key else .group d.tdx d.tdy d.thandle

/-- The target of a context's window, which is the leader's in a pair (03 R66). -/
def State.targetOf (s : State) (key : Nat) (c : Ctx) (d : HDesc) : Target :=
  Machine.targetOf (((s.leaderOf c).map (·.1)).getD key) d

def Ctx.isTile (c : Ctx) (h : Nat) : Bool := (c.handle h).desc.level = .tile

/-! ## Loads -/

/-- Row of bytes at their places. -/
def rowOf (l : List (Nat × List Byte)) : Row :=
  BitVec.ofNat 4096 (l.foldl (fun a p => a + numOf p.2 * 2 ^ (8 * p.1)) 0)

/-- The bytes that a handle gives now for its pieces. -/
def Handle.gather (h : Handle) (ps : List Piece) : Row := rowOf (ps.map fun p => (p.pos, h.read p.va.toNat p.len))

/-- Granules of a handle's pieces that are UNFILLED (R170). -/
def Handle.missing (h : Handle) (ps : List Piece) : List Nat :=
  ((ps.flatMap fun p => granulesOf p.va.toNat p.len).eraseDups).filter fun g => !h.granFilled g

/-- A load that lands at its fixed latency (R30, R340, R392, R395, R397). -/
def Plan.fixed (pl : Plan) (c : Ctx) : Bool :=
  pl.virt.isEmpty && (match pl.h with
    | none => false
    | some h => c.isTile h && ((c.handle h).missing pl.chunks).isEmpty)

/-- LD extends its element (R340). -/
def extendLoad (ty : Option Ty) (v : Row) : Row :=
  match ty with
  | none => v
  | some t => (BitVec.ofInt 64 (intValue t v.toNat)).setWidth 4096

/-- The first byte of the part that a piece lies in: the lowest address of the access in its granule (R188, R269). -/
def partStart (ps : List Piece) (p : Piece) : Int :=
  ps.foldl (fun a q => if q.owner = p.owner && q.va / 4096 = p.va / 4096 && q.va < a then q.va else a) p.va

/-- What a load is: its reservation's due offset, destination, latch, residency mask, class and LD's type. -/
structure LoadForm where
  oc    : Nat
  lsel  : Nat
  fixed : Nat
  act   : Act
  mask  : Mask
  mr    : Nat
  ty    : Option Ty
  deriving DecidableEq, Repr

/-- What the fills of a plan read: granule, its piece of BACK, and the lane that wants it first (R170). -/
def Handle.fillPieces (h : Handle) (ps : List Piece) : List (Nat × Piece) :=
  ((h.missing ps).filter fun g => !h.fills.any fun f => f.2 = g).map fun g =>
    let lane := ((ps.find? fun p => (granulesOf p.va.toNat p.len).contains g).map (·.lane)).getD 0
    (g, ⟨lane, 0, vaOf h.desc.back + (4096 * g : Nat), none, 4096⟩)

/-- Every fault that the load's translation finds (R180 to R188; 13 R264). -/
def loadFaults (mr : Nat) (late : List (Piece × AFault)) (r fills : Located) : List (Piece × AFault) :=
  late ++ r.faults ++ fills.faults ++ (if mr = 0 then r.nonres.map fun p => (p, faultNonres) else [])

/-- The bytes of unfilled granules that no store has written: (place, granule, offset in it), byte by byte. -/
def Handle.unwritten (h : Handle) (ps : List Piece) : List (Nat × Nat × Nat) :=
  ps.flatMap fun p => (List.range p.len).filterMap fun i =>
    let o := p.va.toNat + i
    if h.granFilled (o / 4096) || h.written.read false o then none else some (p.pos + i, o / 4096, o % 4096)

/-- A fault's window: the destination receives zero when the fault is taken (R264; 08 R185). No fill of the load is issued: of two UNFILLED granules
of which one faults both stay UNFILLED, which R170 does not say (DESIGN CHOICE, log entry 60). -/
def Ctx.openWindow (c : Ctx) (f : LoadForm) (cause : Cause) : Ctx :=
  let w : Window := ⟨c.issued, !c.tm, c.pc, cause, some f.act, c.nextLatch .ld, f.mask, if f.mr = 0 then none else some f.mr⟩
  { c.advanceRing .ld with windows := c.windows ++ [w] }

/-- The bytes of an outstanding fill that have already arrived for another load. -/
def Ctx.fillData (c : Ctx) (id : Nat) : Option (List Byte) :=
  c.pend.findSome? fun p => p.fills.findSome? fun f => if f.1 = id then f.2.2 else none

/-- Issue the fills of a load, one access each in class CLS (R170). -/
def State.issueFills (s : State) (key pend h cls : Nat) (l : List (Nat × RPiece)) : State :=
  l.foldl (fun s p =>
    let id := s.nextId
    (s.access key cls (.fill pend h p.1 [p.2])).mapCtx key fun c =>
      let v := c.handle h
      c.setHandle h { v with fills := v.fills ++ [(id, p.1)] }) s

/-- A fill's translation is known since its load's is: that of the load which started it. -/
def State.fillKnown (s : State) (c : Ctx) (id : Nat) : Bool :=
  match s.acc? id with
  | none => true
  | some a => match a.op with
    | .fill p _ _ _ => c.pend.any fun q => q.uid = p && q.known
    | _ => true

/-- The outstanding part of a load whose translation found no fault. A shoot-down that drops the translation before the load's turn makes it
unknown: the load is translated again when its turn comes (08 R182, R184; `State.retranslate`). -/
def State.startLoad (s : State) (key : Nat) (c : Ctx) (f : LoadForm) (pl : Plan) (r fills : Located) : State :=
  let uid := s.nextId
  let hd : Handle := (pl.h.map c.handle).getD .empty
  let tile := (pl.h.map c.isTile).getD false
  let missing := if tile then hd.missing pl.chunks else []
  let newFills := (if tile then hd.fillPieces pl.chunks else []).zipWith (fun (p : Nat × Piece) q => (p.1, q)) fills.reads
  let s := { s with nextId := uid + 1 }
  let s := match pl.h with
    | some h => s.issueFills key uid h hd.desc.cls newFills
    | none => s
  let now := (s.ctx? key).getD c
  let awaited : List (Nat × Nat) := match pl.h with
    | some h => (now.handle h).fills.filter fun x => missing.contains x.2
    | none => []
  let window := pl.h.isSome && !tile && !pl.chunks.isEmpty
  let wid := s.nextId
  let h := pl.h.getD 0
  let s := if !window then s
    else
      let stream := ((s.ctxAccs key c).filter fun a => a.cls = some f.oc && (match a.op with
        | .winStore k _ _ _ _ => k = h
        | _ => false)).map (·.id)
      s.addAcc key (some f.oc) (s.classDeps key c (some f.oc) ++ stream) (c.fenceDeps (some f.oc))
        (.winLoad uid h (s.targetOf key c hd.desc) (pl.chunks.map fun p => (p.pos, p.va.toNat, p.len)))
  let holes := if tile then (hd.unwritten pl.chunks).filterMap fun u =>
      (awaited.find? fun x => x.2 = u.2.1).map fun x => (u.1, x.1, u.2.2)
    else if window then (pl.chunks.flatMap fun p => (List.range p.len).map fun i => (p.pos + i, wid, p.pos + i)) else []
  let p : Pend := {
    uid := uid, prog := !c.tm, issue := c.time, due := c.time + BitVec.ofNat 48 (c.due f.lsel), slot := .ld, pc := c.pc,
    act := some f.act, latch := c.nextLatch .ld, mask := f.mask, mres := if f.mr = 0 then none else some f.mr, wb := none,
    gran := if missing.isEmpty then none else some (h, missing),
    fills := awaited.map (fun x => (x.1, x.2, now.fillData x.1)) ++ (if window then [(wid, 0, none)] else []),
    reply := none, num := c.issued, cause := none,
    known := awaited.all fun x => !hd.fills.contains x || s.fillKnown c x.1 }
  let s := s.mapCtx key fun c => { c.advanceRing .ld with pend := c.pend ++ [p] }
  let waits := awaited.map (·.1) ++ if window then [wid] else []
  let virt := !pl.virt.isEmpty
  let nonres := r.nonres.foldl (fun m p => m ||| p.laneMask c.width) 0
  s.addAcc key (if virt then some f.oc else none) (if virt then s.classDeps key c (some f.oc) else [])
    ((if virt then c.fenceDeps (some f.oc) else []) ++ waits)
    (.load uid r.reads nonres (if tile then hd.gather pl.chunks else 0) holes f.ty)

/-- An XWIN handle's package is absent from its gateway's table: an access is a permission fault OWNER, for a load window-precise as R340 and
R395 say of a window load's fault (15 R302; DEDUCED, log entry 63). -/
def State.peerAbsent (s : State) (key : Nat) (c : Ctx) (h : Nat) : Bool :=
  match s.targetOf key c (c.handle h).desc with
  | .key (some n) .. => (s.gateway (keyDie key) n).isNone
  | _ => false

/-- A load: at its fixed latency from tile SRAM, else due at t + DUE[LSEL]; its parts translate at issue (R33, R264), for a pair's
follower as for its leader (03 R66). -/
def State.load (s : State) (key : Nat) (c : Ctx) (f : LoadForm) (pl : Plan) (late : List (Piece × AFault)) : State :=
  if pl.fixed c && late.isEmpty then
    let h := c.handle (pl.h.getD 0)
    let s := s.produce key .ld f.fixed f.act true f.mask (extendLoad f.ty (h.gather pl.chunks)) 0
    if f.mr = 0 then s else s.produce key .ld f.fixed (.mask f.mr) false (BitVec.allOnes 512) 0 0
  else if !pl.chunks.isEmpty && pl.h.any (fun h => !c.isTile h && (s.seen c).peerAbsent key c h) then
    (s.logFault faultOwner 0).mapCtx key fun c => c.openWindow f ⟨faultOwner.code, faultOwner.detail, .ld, 0⟩
  else
    let w := s.whoOf key c
    let ps := toParts (pl.virt.filter fun p => !late.any fun q => q.1 = p)
    let hd : Handle := (pl.h.map c.handle).getD .empty
    let fp := if (pl.h.map c.isTile).getD false then (hd.fillPieces pl.chunks).map (·.2) else []
    let r := (s.seen c).locateReads w .load ps
    let fr := (s.seen c).locateReads w .copyRead fp
    if r.poison || fr.poison then s.consumeError c.node
    else
      match firstFault (loadFaults f.mr late r fr) with
      | some (p, e) =>
        let fva := pcOf (if late.any (fun q => q.1 = p) then p.va else partStart ps p)
        (s.logFault e 0).mapCtx key fun c => c.openWindow f ⟨e.code, e.detail, .ld, fva⟩
      | none => (s.fillTlb w (ps ++ fp)).startLoad key c f pl r fr

/-- Elements of a tensor load that lie beyond the virtual range or misaligned: window-precise (R181; log entry 16). -/
def TDesc.lateFaults (t : TDesc) (pl : Plan) : List (Piece × AFault) :=
  pl.virt.filterMap fun p => (t.pieceFault p).map fun f => (p, f)

/-- Needs of a load: a reservation unless it lands at its fixed latency (R35), and the fences of its class. -/
def loadNeed (oc : Nat) (pl : Ctx → Plan) (c : Ctx) : Need :=
  { Need.none with resv := !(pl c).fixed c, fence := some oc }

/-- VGATH and VSCAT in tile SRAM follow the earlier accesses of their class, which R194 does not except them from; with a granule to fill too,
since what the handle holds is read at issue. -/
def Need.ordered (n : Need) (tile : Bool) (oc : Nat) : Need := if tile then { n with order := some oc } else n

def rdstAct (d : RDst) (w : Nat) : Act :=
  match d with
  | .row n => .row n w
  | .off => .latchOnly

def rdstV : RDst → VDst
  | .row n => .row n
  | .off => .off

/-- LD (16 R340). -/
def ldPlan (ty : Ty) (h bs off : Nat) (c : Ctx) : Plan := scalarPlan h ((c.readS bs).toNat + off) (ty.bits / 8)

def ldOp (l : LHead) (ty : Ty) (d : SDst) (h bs off : Nat) : SlotOp where
  own := fun _ _ c => (c.handleChk .ld h).and
    (handleRunChk .ld (c.handle h).desc.size (ty.bits / 8) ((c.readS bs).toNat + off) (ldPlan ty h bs off c))
  need := fun _ _ c => loadNeed l.oc (ldPlan ty h bs off) c
  effect := fun s key c => s.load key c ⟨l.oc, l.lsel, 4, scalarAct d, 0, 0, some ty⟩ (ldPlan ty h bs off c) []
def execLd (l : LHead) (ty : Ty) (d : SDst) (h bs off : Nat) (s : State) : Host.Outcome State Fault Refusal :=
  issueSlot (.ld l ty d h bs off) (ldOp l ty d h bs off) s

/-- VLD (18 R394, R395). -/
def vldPlan (h bs off : Nat) (p : Pred) (c : Ctx) : Plan :=
  rowPlan h ((c.readS bs).toNat + 64 * off) c.width (c.onMask p c.lanes)

/-- The handle of VLD and VST: its allotment, and its state where some lane is on (R394; 08 R169). -/
def Ctx.laneHandleChk (c : Ctx) (sl : Slot) (h : Nat) (p : Pred) : Chk :=
  if c.onMask p c.lanes = 0 then Chk.need (h < c.pk.handles) (trapOf 0x03 2 sl) else c.handleChk sl h

def vldOp (l : LHead) (d : RDst) (h bs off : Nat) (p : Pred) : SlotOp where
  own := fun _ _ c => (c.allotChk .ld [] (rdstV d)).and <| (c.laneHandleChk .ld h p).and <|
    handleRunChk .ld (c.handle h).desc.size 64 ((c.readS bs).toNat + 64 * off) (vldPlan h bs off p c)
  need := fun _ _ c => loadNeed l.oc (vldPlan h bs off p) c
  effect := fun s key c =>
    s.load key c ⟨l.oc, l.lsel, 5, rdstAct d c.width, c.onMask p c.lanes, 0, none⟩ (vldPlan h bs off p c) []
def execVld (l : LHead) (d : RDst) (h bs off : Nat) (p : Pred) (s : State) : Host.Outcome State Fault Refusal :=
  issueSlot (.vld l d h bs off p) (vldOp l d h bs off p) s

/-- VLDT (18 R396, R397). A TXB format writes the whole row. -/
def vldtForm (l : LHead) (d : RDst) (mr : Nat) (p : Pred) (t : TDesc) (c : Ctx) : LoadForm :=
  if t.fmt.isTxb then ⟨l.oc, l.lsel, 7, rdstAct d 32, maskLow 128, 0, none⟩
  else ⟨l.oc, l.lsel, 7, rdstAct d c.width, c.onMask p c.lanes, mr, none⟩

def vldtOp (l : LHead) (d : RDst) (tn is mr : Nat) (p : Pred) : SlotOp where
  own := fun s key c =>
    let t := (c.tensor tn).desc
    let on := c.onMask p c.lanes
    (tensorOwn .ld tn false p mr [] (rdstV d) s key c).and <| (linearChk c .ld t is on).and <|
      t.chunkChk c .ld (s.linearPlan c t is on)
  need := fun s _ c => loadNeed l.oc (fun c => s.linearPlan c (c.tensor tn).desc is (c.onMask p c.lanes)) c
  effect := fun s key c =>
    let t := (c.tensor tn).desc
    let pl := (s.seen c).linearPlan c t is (c.onMask p c.lanes)
    s.load key c (vldtForm l d mr p t c) pl (t.lateFaults pl)
def execVldt (l : LHead) (d : RDst) (tn is mr : Nat) (p : Pred) (s : State) : Host.Outcome State Fault Refusal :=
  issueSlot (.vldt l d tn is mr p) (vldtOp l d tn is mr p) s

/-- VGATH (18 R391, R392). -/
def vgathOp (l : LHead) (d : RDst) (tn : Nat) (ix : VSrc) (mr : Nat) (p : Pred) : SlotOp where
  own := fun s key c =>
    let t := (c.tensor tn).desc
    let on := c.onMask p c.lanes
    (tensorOwn .ld tn true p mr [ix] (rdstV d) s key c).and <| (gatherChk .ld t on (c.indexLanes ix)).and <|
      t.chunkChk c .ld (s.gatherPlan t on (c.indexLanes ix))
  need := fun s _ c => let pl := s.gatherPlan (c.tensor tn).desc (c.onMask p c.lanes) (c.indexLanes ix)
    (loadNeed l.oc (fun _ => pl) c).ordered ((pl.h.map c.isTile).getD false) l.oc
  effect := fun s key c =>
    let t := (c.tensor tn).desc
    let on := c.onMask p c.lanes
    let pl := (s.seen c).gatherPlan t on (c.indexLanes ix)
    s.load key c ⟨l.oc, l.lsel, 7, rdstAct d c.width, on, mr, none⟩ pl (t.lateFaults pl)
def execVgath (l : LHead) (d : RDst) (tn : Nat) (ix : VSrc) (mr : Nat) (p : Pred) (s : State) : Host.Outcome State Fault Refusal :=
  issueSlot (.vgath l d tn ix mr p) (vgathOp l d tn ix mr p) s

/-! ## Stores -/

/-- Bytes of a row that a piece takes. -/
def rowSlice (v : Row) (p : Piece) : List Byte := bytesOf p.len (v.toNat / 2 ^ (8 * p.pos))

/-- Byte enables of the pieces of a store, from the byte that a handle address names. -/
def byteMask (ps : List Piece) : Mask := ps.foldl (fun m p => m ||| (maskLow (p.pos + p.len) &&& ~~~(maskLow p.pos))) 0

/-- One posted store of a window, after `extra`: it raises OUT of its allowance (06 R145; 09 R199). -/
def State.postStore (s : State) (key : Nat) (c : Ctx) (t : SHead) (h : Nat) (ps : List Piece) (v : Row) (extra : List Nat) : State :=
  let d := (c.handle h).desc
  let stream := ((s.ctxAccs key c).filter fun a => a.cls = some t.oc && (match a.op with
    | .winStore k _ _ _ _ => k = h
    | _ => false)).map (·.id)
  (s.mapCtx key fun c => { c with out := c.out.write 0 d.alw (c.outOf d.alw + 1) }).addAcc key (some t.oc)
    (s.classDeps key c (some t.oc) ++ stream ++ extra) (c.fenceDeps (some t.oc))
    (.winStore h (s.targetOf key c d) (ps.map fun p => (p.va.toNat, rowSlice v p)) d.alw t.fl)

/-- A store of a handle form: it lands in a TILE handle at t + 3, or is posted (17 R372; 18 R395). -/
def State.storeHandle (s : State) (key : Nat) (c : Ctx) (t : SHead) (base : Nat) (pl : Plan) (v : Row) : State :=
  match pl.h, pl.chunks with
  | some h, p :: ps =>
    if c.isTile h then s.produce key .st 3 (.hbytes h base) false (byteMask (p :: ps)) v 0
    else s.postStore key c t h (p :: ps) v []
  | _, _ => s

/-- Needs of a store: an allowance for a window, and the fences of its class. -/
def storeNeed (oc : Nat) (pl : Plan) (c : Ctx) : Need :=
  { Need.none with
    fence := some oc
    allow := match pl.h with
      | some h => if c.isTile h || pl.chunks.isEmpty then none else some (c.handle h).desc.alw
      | none => none }

/-- The pieces of a store in the order of their lanes: the fault of the lowest lane that is on is the one reported (08 R188; 12 R254). -/
def laneOrder (ps : List Piece) : List Piece := sortBy (fun a b => a.lane < b.lane) ps

/-- A tensor-qualified store (07 R162; 11 R232; 18 R392, R397): the part in a TILE handle lands at t + 3 and is KIND 9 in a
frame, the part in a window is posted, the rest is a store of the class. Where a handle backs the identifier the two additions to its
version word are accesses of their own, one that the data follow and one that follows them. -/
def State.storeTensor (s : State) (key : Nat) (c : Ctx) (sh : SHead) (tn : Nat) (t : TDesc) (gather : Bool) (idx : Row) (on : Mask)
    (pl : Plan) (v : Row) : State :=
  let ver := ((t.versionAddr).map (·.toNat)).getD 0
  let virt : List WPiece := (laneOrder pl.virt).map fun p => ⟨p.va, p.owner, rowSlice v p⟩
  match pl.h, pl.chunks with
  | some h, p :: ps =>
    let tile := c.isTile h
    let first := s.nextId
    let s := if ver = 0 then s else s.access key sh.oc (.bump ver (if tile then some (first + 1) else none))
    let bumps := if ver = 0 then [] else [first]
    let data := s.nextId
    let s := if tile then
        s.produce key .st 3 (.tstore tn gather idx h (some ((p :: ps).map fun q => (q.pos, q.va.toNat, q.len)))) false on v 0
      else s.postStore key c sh h (p :: ps) v bumps
    let pairs := s.nextId
    let s := if virt.isEmpty then s else s.addAcc key (some sh.oc) (s.classDeps key c (some sh.oc)) (c.fenceDeps (some sh.oc)) (.store virt true 0)
    if ver = 0 then s
    else s.addAcc key (some sh.oc) (bumps ++ (if tile then [] else [data]) ++ if virt.isEmpty then [] else [pairs]) (c.fenceDeps (some sh.oc)) (.bump ver none)
  | _, _ => if virt.isEmpty ∧ ver = 0 then s else s.access key sh.oc (.store virt true ver)

/-- ST (17 R371, R372). -/
def stPlan (ty : Ty) (h bs off : Nat) (c : Ctx) : Plan := scalarPlan h ((c.readS bs).toNat + off) (ty.bits / 8)

/-- The scalar that ST stores. -/
def Ctx.storeScalar (c : Ctx) : VSrc → Word
  | .scalar n => c.readS n
  | .latch n => (c.readB n).setWidth 64
  | _ => 0

def stOp (t : SHead) (ty : Ty) (v : VSrc) (h bs off : Nat) : SlotOp where
  own := fun _ _ c => (c.handleChk .st h).and
    (handleRunChk .st (c.handle h).desc.size (ty.bits / 8) ((c.readS bs).toNat + off) (stPlan ty h bs off c))
  need := fun _ _ c => storeNeed t.oc (stPlan ty h bs off c) c
  effect := fun s key c => s.storeHandle key c t ((c.readS bs).toNat + off) (stPlan ty h bs off c) ((c.storeScalar v).setWidth 4096)
def execSt (t : SHead) (ty : Ty) (v : VSrc) (h bs off : Nat) (s : State) : Host.Outcome State Fault Refusal :=
  issueSlot (.st t ty v h bs off) (stOp t ty v h bs off) s

/-- VST (18 R394, R395). -/
def vstOp (t : SHead) (v : VSrc) (h bs off : Nat) (p : Pred) : SlotOp where
  own := fun _ _ c => (c.allotChk .st [v] .off).and <| (c.handover .st [v]).and <| (c.headsChk .st [v]).and <| (c.laneHandleChk .st h p).and <|
    handleRunChk .st (c.handle h).desc.size 64 ((c.readS bs).toNat + 64 * off) (vldPlan h bs off p c)
  need := fun _ _ c => storeNeed t.oc (vldPlan h bs off p c) c
  effect := fun s key c => s.storeHandle key c t ((c.readS bs).toNat + 64 * off) (vldPlan h bs off p c) (c.vector c.acct c.width v)
def execVst (t : SHead) (v : VSrc) (h bs off : Nat) (p : Pred) (s : State) : Host.Outcome State Fault Refusal :=
  issueSlot (.vst t v h bs off p) (vstOp t v h bs off p) s

/-- The data that VSTT and VSCAT store, and the lanes that are on; a TXB format moves the whole row. -/
def Ctx.storeRow (c : Ctx) (t : TDesc) (v : VSrc) : Row := c.vector (if t.fmt.isTxb then .b else t.fmt) c.width v
def Ctx.storeLanes (c : Ctx) (t : TDesc) (p : Pred) : Mask := if t.fmt.isTxb then maskLow c.lanes else c.onMask p c.lanes

/-- VSTT (18 R396, R397). -/
def vsttOp (t : SHead) (v : VSrc) (tn is : Nat) (p : Pred) : SlotOp where
  own := fun s key c =>
    let d := (c.tensor tn).desc
    let on := c.onMask p c.lanes
    let pl := s.linearPlan c d is on
    (tensorOwn .st tn false p 0 [v] .off s key c).and <| (linearChk c .st d is on).and <| (d.chunkChk c .st pl).and <| d.virtChk .st pl
  need := fun s _ c => storeNeed t.oc (s.linearPlan c (c.tensor tn).desc is (c.onMask p c.lanes)) c
  effect := fun s key c =>
    let d := (c.tensor tn).desc
    s.storeTensor key c t tn d false (ofLanes 64 (c.indices is d.rank)) (c.storeLanes d p)
      ((s.seen c).linearPlan c d is (c.onMask p c.lanes)) (c.storeRow d v)
def execVstt (t : SHead) (v : VSrc) (tn is : Nat) (p : Pred) (s : State) : Host.Outcome State Fault Refusal :=
  issueSlot (.vstt t v tn is p) (vsttOp t v tn is p) s

/-- VSCAT (18 R391, R392): the highest of several lanes that name one element writes it, since later pieces write last. -/
def vscatOp (t : SHead) (v : VSrc) (tn : Nat) (ix : VSrc) (p : Pred) : SlotOp where
  own := fun s key c =>
    let d := (c.tensor tn).desc
    let on := c.onMask p c.lanes
    let pl := s.gatherPlan d on (c.indexLanes ix)
    (tensorOwn .st tn true p 0 [ix, v] .off s key c).and <| (gatherChk .st d on (c.indexLanes ix)).and <|
      (d.chunkChk c .st pl).and <| d.virtChk .st pl
  need := fun s _ c => let pl := s.gatherPlan (c.tensor tn).desc (c.onMask p c.lanes) (c.indexLanes ix)
    (storeNeed t.oc pl c).ordered ((pl.h.map c.isTile).getD false) t.oc
  effect := fun s key c =>
    let d := (c.tensor tn).desc
    let on := c.onMask p c.lanes
    s.storeTensor key c t tn d true (c.vector .b c.width ix) on ((s.seen c).gatherPlan d on (c.indexLanes ix)) (c.storeRow d v)
def execVscat (t : SHead) (v : VSrc) (tn : Nat) (ix : VSrc) (p : Pred) (s : State) : Host.Outcome State Fault Refusal :=
  issueSlot (.vscat t v tn ix p) (vscatOp t v tn ix p) s

/-! ## Stores landing in TILE handles -/

/-- Runs of a KIND 9 entry found anew from its indices, under the identifier as it then stands (13 R271; log entry 17). -/
def State.tstoreRuns (s : State) (c : Ctx) (tn : Nat) (gather : Bool) (idx : Row) (on : Mask) : Option (Nat × List (Nat × Nat × Nat)) :=
  let t := (c.tensor tn).desc
  let m := s.mantleOf t
  let w := t.fmt.bits
  let i := (lanesOf 64 idx).take t.rank
  let pieces :=
    if gather then t.lanePieces m (keepItems (t.gatherItems on ((lanesOf w idx).take (4096 / w))))
    else if t.fmt.isTxb then t.blockPieces m i
    else t.lanePieces m (laneItems on (4096 / w) i)
  match t.handle with
  | none => none
  | some h =>
    if (c.tensor tn).st = .bound && (c.handle h).st = .bound && c.isTile h
        && (pieces.findSome? (t.chunkFault (c.handle h).desc.size)).isNone
    then some (h, pieces.map fun p => (p.pos, p.va.toNat, p.len)) else none

/-- Bytes of a row written in runs, in order. -/
def Handle.writeRuns (h : Handle) (v : Row) (runs : List (Nat × Nat × Nat)) : Handle :=
  runs.foldl (fun h r => h.write r.2.1 (bytesOf r.2.2 (v.toNat / 2 ^ (8 * r.1)))) h

/-- Bytes of a row written from an offset under byte enables. -/
def Handle.writeBytes (h : Handle) (off : Nat) (m : Mask) (v : Row) : Handle :=
  h.writeMasked off ((List.range 512).zipWith (fun i b => (bit m i, b)) (rowBytes v))

/-! ## Stores in flight before a command (09 R194) -/

/-- Bytes of a handle become clean (08 R172). -/
def Handle.scrub (h : Handle) (l : List Nat) : Handle :=
  if l.isEmpty then h else { h with dirty := h.dirty.filter fun p => !l.contains p.1 }

/-- A handle with a store in flight applied. -/
def Handle.land (h : Handle) (n : Nat) (f : Inflight) : Handle :=
  match f.act with
  | .hbytes k off => if k = n then h.writeBytes off f.mask f.value else h
  | .tstore _ _ _ k (some runs) => if k = n then h.writeRuns f.value runs else h
  | _ => h

/-- Stores in flight of a context, among some results, in the order of their landing. -/
def Ctx.storesOf (c : Ctx) (after : List Nat) : List Inflight :=
  sortBy Inflight.before ((c.inflight ++ c.trapEntries).filter fun f => after.contains f.uid)

/-- A store lands in its TILE handle. -/
def Ctx.landStore (c : Ctx) (f : Inflight) : Ctx :=
  match f.act with
  | .hbytes h .. | .tstore _ _ _ h _ => c.setHandle h ((c.handle h).land h f)
  | _ => c

/-- A result writes part of a poisoned unit: the node consumes the error; one that writes a unit whole replaces what is in it (14 R280). -/
def Inflight.tears (f : Inflight) (u : CUnit) : Bool := 0 < f.share u && f.share u < 64
def Inflight.torn (f : Inflight) (c : Ctx) : Bool := c.bad.any f.tears

/-- A store that has performed writes nothing as it lands. -/
def Inflight.spent (f : Inflight) : Inflight :=
  match f.act with
  | .hbytes .. => { f with mask := 0 }
  | .tstore t g i k (some _) => { f with act := .tstore t g i k (some []) }
  | _ => f

/-- Stores in flight perform now, and write nothing more as they land. -/
def Ctx.settle (l : List Inflight) (c : Ctx) : Ctx :=
  let c := l.foldl (fun c f => (c.landStore f).cleanUnits fun u => f.share u = 64) c
  { c with inflight := c.inflight.map fun f => if l.any fun x => x.uid = f.uid then f.spent else f }

def Ctx.handleBytes (c : Ctx) (h off n : Nat) : List Byte := (c.handle h).read off n

/-- A write of an engine or of another context into a TILE handle. -/
def Ctx.writeOver (c : Ctx) (h off : Nat) (l : List Byte) : Ctx :=
  (c.setHandle h ((c.handle h).write off l)).cleanUnits fun b => match b with
    | .handle k u => k = h && unitShare u off l.length = 64
    | _ => false

/-- Dirty bytes of a handle as a write-back finds it, once the stores that it follows have landed (08 R172). -/
def Ctx.dirtyBytes (c : Ctx) (after : List Nat) (h : Nat) : List (Nat × Byte) :=
  let v := (c.storesOf after).foldl (fun v f => v.land h f) (c.handle h)
  v.dirty.map fun p => (p.1, v.bytes.read 0 p.1)

def Ctx.written (c : Ctx) (h : Nat) (l : List Nat) : Ctx := c.setHandle h ((c.handle h).scrub l)

end Sys2Proof.Machine
end

