-- ==== Sys2Proof/Machine/Access.lean ====
section
/-! DEFINITION. How outstanding accesses perform: parts of writes (08 R188), peer refusals (15 R302), the paths of drains (09
R198), irreversible effects (04 R85), words at their Buckle (09 R201, R203), windows at their target (08 R173, R175). -/

namespace Sys2Proof.Machine

/-! ## Who and where -/

/-- The memory that a translation reaches, checks apart; none where the walk fails (R198). -/
def State.reachPath (s : State) (w : Who) (owner : Option (Nat × Nat)) (va : Int) : Option Path :=
  if !ownerHere owner then some .peer
  else if !vaValid va 1 then none
  else match s.leaf w (va56 va) with
    | .leaf e big => some (if pteAper e = 2 then .peer else paPath (leafPa e big (va56 va)))
    | _ => none

/-- A page under migration: its part could still reach any memory (R198). -/
def State.migrating (s : State) (w : Who) (va : Int) : Bool :=
  match s.leaf w (va56 va) with
  | .leaf e _ => pteRes e = 3
  | _ => false

/-- A part at a peer package whose trusted root refuses the frame (R302). -/
def State.refused (s : State) (w : Who) (n : Nat) : XRes → Bool
  | .ok (.peer p pa) => !s.peerAllows w.tenant p pa n
  | _ => false

/-- Log a refusal in both packages as far as this one keeps a log. -/
def State.logRefusal (s : State) : XRes → State
  | .ok (.peer p pa) => s.log (.peerRefused p pa)
  | _ => s

/-- A run of an access: its owner and granule, where it lies, and its length. -/
structure Run where
  owner : Option (Nat × Nat)
  gran  : Int
  loc   : Loc
  len   : Nat

/-- The parts of an access by their first runs: one for each granule of each owner (R188). -/
def partHeads (l : List Run) : List Run :=
  l.foldl (fun acc x => if acc.any fun y => y.owner = x.owner && y.gran = x.gran then acc else acc ++ [x]) []

/-- An access performs: each of its parts counts once at its block and row (08 R186; 14 R283), and the decoder meets its lines (R279). -/
def State.touchRuns (s : State) (l : List Run) : State :=
  let s := (partHeads l).foldl (fun s x => match x.loc with
    | .phys pa => (s.countAccess pa).activate pa
    | _ => s) s
  l.foldl (fun s x => match x.loc with
    | .phys pa => s.meetLines pa x.len
    | _ => s) s

/-- Whether a part lies in the node's staged ranges, decided as it translates (R85, R198). -/
def State.inStaged (s : State) (w : Who) (owner : Option (Nat × Nat)) (va : Int) : Bool :=
  ownerHere owner && (s.stagedFrame w.node (va56 va)).isSome

/-- The node becomes irreversible (R85). -/
def State.irreversible (s : State) (w : Who) : State :=
  match w.node with
  | some n => if (s.node? n).isSome then s.setIrrev n else s
  | none => s

/-! ## Writes -/

/-- First byte of the part that a piece lies in (R269). -/
def wpartStart (ps : List WPiece) (p : WPiece) : Int :=
  ps.foldl (fun a q => if q.owner = p.owner && q.va / 4096 = p.va / 4096 && q.va < a then q.va else a) p.va

/-- The first fault of each path, in the order of the parts (R188, R198). -/
def faultsByPath (l : List (Option Path × AFault × Int)) : List (Option Path × AFault × Int) :=
  l.foldl (fun acc f => if acc.any fun g => g.1 = f.1 then acc else acc ++ [f]) []

/-- One part translated as a write. -/
def State.locateWrite (s : State) (w : Who) (tq : Bool) (p : WPiece) : XRes :=
  s.translateOwner w .store tq p.owner p.va p.data.length

/-- The fault of a part of a write, with its path. -/
def State.writeFault (s : State) (w : Who) (ps : List WPiece) (p : WPiece) (r : XRes) : Option (Option Path × AFault × Int) :=
  match r with
  | .fault f => some (s.reachPath w p.owner p.va, f, wpartStart ps p)
  | .nonres => some (s.reachPath w p.owner p.va, faultNonres, wpartStart ps p)
  | r => if s.refused w p.data.length r then some (some .peer, faultOwner, wpartStart ps p) else none

/-- Physical runs that a write's parts reach. -/
def physRuns (rs : List (WPiece × XRes)) : List (Nat × Nat) :=
  rs.filterMap fun r => match r.2 with
    | .ok (.phys pa) => some (pa, r.1.data.length)
    | _ => none

/-- Outcome of a write's parts. -/
inductive WRes where
  | done (s : State)
  | held
  | poison (s : State)
  | bad (s : State) (faults : List (Option Path × AFault × Int))
  deriving Repr

/-- Every byte of a 64-byte line is in some run. -/
def coversLine (runs : List (Nat × Nat)) (l : Nat) : Bool :=
  (List.range 64).all fun i => runs.any fun r => r.1 ≤ 64 * l + i && 64 * l + i < r.1 + r.2

/-- Poisoned lines that the runs meet (14 R280). -/
def State.poisonMet (s : State) (runs : List (Nat × Nat)) : List Nat :=
  s.poison.filter fun l => runs.any fun r => r.1 / 64 ≤ l && l * 64 < r.1 + r.2

/-- Write every part, or none while a part faults or is held (R188, R182). A poisoned line takes a write of all of it, which clears
the poison, and no other (14 R280). -/
def State.putParts (s : State) (w : Who) (tq : Bool) (pieces : List WPiece) : WRes :=
  let ps := pieces.flatMap WPiece.cut
  let rs := ps.map fun p => (p, s.locateWrite w tq p)
  if rs.any fun r => match r.2 with | .poison _ => true | _ => false then .poison s
  else
    let bad := rs.filterMap fun r => s.writeFault w ps r.1 r.2
    if !bad.isEmpty then .bad s bad
    else if rs.any fun r => r.2 = .held then .held
    else if !(s.poisonMet (physRuns rs)).all (coversLine (physRuns rs)) then .poison s
    else
      let met := s.poisonMet (physRuns rs)
      let s := if met.isEmpty then s else { s with poison := s.poison.filter fun l => !met.contains l }
      let runs : List Run := rs.filterMap fun r => match r.2 with
        | .ok l => some ⟨r.1.owner, r.1.va / 4096, l, r.1.data.length⟩
        | _ => none
      let s := rs.foldl (fun s r => match r.2 with
        | .ok l => s.writeLoc l r.1.data
        | _ => s) s
      .done ((s.meetWalks w (ps.map fun p => (p.owner, p.va))).touchRuns runs)

/-- A part of a write makes the node irreversible: it lies outside the staged ranges, or it reaches host memory (R85). -/
def State.irreversiblePart (s : State) (w : Who) (tq : Bool) (p : WPiece) : Bool :=
  !s.inStaged w p.owner p.va || match s.locateWrite w tq p with
    | .ok (.phys pa) => inHost pa
    | _ => false

/-- A write of the node's own. Once its parts are translated it may make the node irreversible, whether or not they are then written: what
R85 names is the release. -/
def State.writeParts (s : State) (w : Who) (tq : Bool) (pieces : List WPiece) : WRes :=
  let mark (s' : State) : State := if pieces.any fun p => p.cut.any (s.irreversiblePart w tq) then s'.irreversible w else s'
  match s.putParts w tq pieces with
  | .done s' => .done (mark s')
  | .poison s' => .poison (mark s')
  | .bad s' l => .bad (mark s') l
  | .held => .held

/-- Faults of an access without lanes, the lowest address first (R188). -/
def lowestFirst (l : List (Option Path × AFault × Int)) : List (Option Path × AFault × Int) := sortBy (fun a b => a.2.2 < b.2.2) l

/-- Report the first fault of an access at the drain of each path that it faults on (R198), logging OWNER refusals. -/
def State.reportFaults (s : State) (a : Acc) (sl : Slot) (l : List (Option Path × AFault × Int)) : State :=
  (faultsByPath l).foldl (fun s f => (s.logFault f.2.1 0).drainFault a f.1 ⟨f.2.1.code, f.2.1.detail, sl, pcOf f.2.2⟩) s

/-! ## Words at a Buckle (09 R201) -/

/-- Translate a word for a Buckle operation. -/
def State.locateWord (s : State) (w : Who) (k : AKind) (va : Word) (n : Nat) : XRes := s.translate w k false (vaOf va) n

/-- The word at a location. -/
def State.readWord (s : State) (l : Loc) (n : Nat) : Nat := numOf (s.readLoc l n)

/-- A word written by its Buckle; poison of the word stays until a plain write (R204). -/
def State.writeWord (s : State) (l : Loc) (n v : Nat) : State :=
  match l with
  | .phys pa => ({ s with mem := writeMem s.mem pa (bytesOf n v) }.touch pa n).meetWord pa
  | .peer p pa => match s.peers.find p with
    | some x => { s with peers := s.peers.insert p { x with mem := writeMem x.mem pa (bytesOf n v) } }
    | none => s

/-- Outcome of adding to a word. -/
inductive AddRes where
  | done (s : State)
  | held
  | poison
  | bad (f : AFault)
  deriving Repr

/-- An addition to the 8-byte word at an address by its home Buckle (09 R200; 11 R232): an ATOM for the version word, which
host memory takes too (R209), or a counter arrival. -/
def State.addWord (s : State) (w : Who) (va : Word) (n : Nat) (counter : Bool) : AddRes :=
  if va.toNat % 8 ≠ 0 then .bad faultAlign
  else
    match s.locateWord w (if counter then .sync else .atomic) va 8 with
    | .fault f => .bad f
    | .nonres => .bad faultNonres
    | .held => .held
    | .poison _ => .poison
    | .ok l =>
      if s.refused w 8 (.ok l) then .bad faultOwner
      else if s.locPoisoned l 8 then .poison
      else .done (s.writeWord l 8 ((s.readWord l 8 + n) % 2 ^ 64))

/-! ## Windows at their target (08 R173 to R175) -/

/-- What a target is now. -/
inductive Found where
  /-- The context and handle. -/
  | there (key h : Nat)
  /-- An export of a peer package: the package and the export's place there. -/
  | peer (id i : Nat)
  /-- The exporting group is saved: the access waits at the target die (R174). -/
  | waits
  | absent
  deriving DecidableEq, Repr

/-- Whether the group holds the handle bound as a TILE handle. -/
def State.targetHandle (s : State) (g dx dy h : Nat) : Found :=
  match s.group? g with
  | none => .absent
  | some grp =>
    if grp.place.isNone then .waits
    else
      match (s.groupKey g dx dy) with
      | none => .absent
      | some key =>
        match s.ctx? key with
        | none => .absent
        | some c => if (c.handle h).st = .bound && c.isTile h then .there key h else .absent

/-- The die that a group stands on. -/
def State.groupDie (s : State) (g : Nat) : Nat := (((s.group? g).bind (·.place)).map (·.die)).getD 0

/-- Resolve a target for a group of a tenant; a key of another package is looked for in its directory, as the group's gateway reaches it. -/
def State.target (s : State) (grp tenant : Nat) : Target → Found
  | .group dx dy h => s.targetHandle grp dx dy h
  | .key (some n) die key =>
    match s.gateway (s.groupDie grp) n with
    | none => .absent
    | some id =>
      let l := ((s.peers.find id).map (·.exports)).getD []
      match (List.range l.length).find? fun i => (l[i]?).any fun e => e.die = die && e.tenant = tenant && e.key = key with
      | some i => .peer id i
      | none => .absent
  | .key none die key =>
    match (s.die die).exports.find? fun e => e.tenant = tenant && e.key = key with
    | none => .absent
    | some e => s.targetHandle e.grp e.dx e.dy e.h

/-- The first window fault since the last DRAIN.WIN is kept (R175). -/
def State.windowFault (s : State) (a : Acc) (sl : Slot) : State :=
  s.mapBoth a fun c => { c with winFault := c.winFault.or (some ⟨some .win, a.order, ⟨0x04, 4, sl, 0⟩⟩) }

/-- A target in a package that the gateway of the access's die does not know (15 R302). -/
def State.peerGone (s : State) (a : Acc) : Target → Bool
  | .key (some n) .. => (s.gateway (s.groupDie a.grp) n).isNone
  | _ => false

/-- A posted store meets no target, or its end; one for an absent package is a permission fault OWNER of its write (R175; 15 R302; DEDUCED, log
entry 63). -/
def State.targetFault (s : State) (a : Acc) (sl : Slot) (t : Target) : State :=
  if s.peerGone a t then (s.logFault faultOwner 0).drainFault a (some .win) ⟨faultOwner.code, faultOwner.detail, sl, 0⟩ else s.windowFault a sl

def State.peerExport (s : State) (id i : Nat) : Option PeerExport := (s.peers.find id).bind fun v => v.exports[i]?

/-- SIZE of what a target has led to. -/
def State.foundSize (s : State) : Found → Nat
  | .there key h => ((s.ctx? key).map fun c => (c.handle h).desc.size).getD 0
  | .peer id i => ((s.peerExport id i).map (·.size)).getD 0
  | _ => 0

/-- Its bytes from an offset; bytes at or beyond its SIZE read as zero (R175). -/
def State.foundBytes (s : State) (f : Found) (off n : Nat) : List Byte :=
  let k := Nat.min n (s.foundSize f - off)
  (match f with
    | .there key h => ((s.ctx? key).map fun c => c.handleBytes h off k).getD []
    | .peer id i => ((s.peerExport id i).map fun e => e.bytes.readRange 0 off k).getD []
    | _ => []) ++ List.replicate (n - k) 0

/-- A read of n bytes there meets a poisoned unit (14 R280). -/
def State.foundPoisoned (s : State) (f : Found) (off n : Nat) : Bool :=
  match f with
  | .there key h => (s.ctx? key).any fun c => c.handleBad h off (Nat.min n (s.foundSize f - off))
  | _ => false

/-- A write of n bytes there covers a poisoned unit in part (14 R280). -/
def State.foundTorn (s : State) (f : Found) (off n : Nat) : Bool :=
  match f with
  | .there key h => (s.ctx? key).any fun c => c.handleTorn h off (Nat.min n (s.foundSize f - off))
  | _ => false

/-- Bytes written there, in both copies of a pair; what lies beyond its SIZE is dropped. -/
def State.foundWrite (s : State) (f : Found) (off : Nat) (l : List Byte) : State :=
  let l := l.take (s.foundSize f - off)
  match f with
  | .there key h =>
    let put (c : Ctx) : Ctx := c.writeOver h off l
    (match (s.ctx? key).bind s.twinOf with
      | some (k, _) => (s.mapSeen key put).mapSeen k put
      | none => s.mapSeen key put)
  | .peer id i => { s with peers := s.peers.update ⟨[], [], [], [], []⟩ id fun v =>
      { v with exports := v.exports.modify i fun e => { e with bytes := e.bytes.writeRange 0 off l } } }
  | _ => s

/-! ## Stores in flight before a command (09 R194) -/

/-- Stores into the context's own handles that an access follows, and that have not landed though it may perform, perform now: every agent then
finds them before it (09 R189, R194; log entry 18). No other access waits for them any more. -/
def State.settle (s : State) (a : Acc) : State :=
  (s.copies a).foldl (fun s x => match s.accCtx x with
    | none => s
    | some c =>
      let l := c.storesOf x.after
      if l.isEmpty then s
      else
        let s := l.foldl (fun s f => s.correctUnits x.ctx f.tears) s
        let s := s.mapOne x (Ctx.settle l)
        let s := { s with accs := s.accs.map fun (y : Acc) => { y with after := y.after.filter fun u => l.all fun f => f.uid != u } }
        if l.any fun f => f.torn c then s.consumeError c.node else s) s

/-- A step of an access after the stores that it follows. -/
def State.settled (s : State) (id : Nat) (step : State → Acc → Option State) : Option State :=
  match s.acc? id with
  | none => none
  | some a =>
    if !s.storesLanded a then step s a
    else match (s.settle a).acc? id with
      | some a' => step (s.settle a) a'
      | none => some (s.settle a)

/-! ## Replies -/

/-- Change a context's outstanding result, in the context and in its older copies (14 R286). -/
def State.mapPend (s : State) (key pend : Nat) (f : Pend → Pend) : State :=
  s.mapSeen key fun c => { c with pend := c.pend.map fun p => if p.uid = pend then f p else p }

/-- A reply reaches the reply skid of the context, and of its twin (02 R33; 03 R66). -/
def State.reply (s : State) (a : Acc) (r : Arrived) : State :=
  (s.copies a).foldl (fun s x => match x.op.pend? with
    | some p => s.mapPend x.ctx p fun p => { p with reply := some r }
    | none => s) s

/-- Bytes that a fill or a window access brings for the loads that wait for it. -/
def Pend.take (id : Nat) (bytes : List Byte) (p : Pend) : Pend :=
  { p with fills := p.fills.map fun f => if f.1 = id then (f.1, f.2.1, some bytes) else f }

def State.bring (s : State) (a : Acc) (bytes : List Byte) : State :=
  (s.copies a).foldl (fun s x =>
    s.mapSeen x.ctx fun c => { c with pend := c.pend.map (Pend.take x.id bytes) }) s

/-- What a read brings from where its translation found it: bytes, poison, or a refusal by the peer package (14 R280; 15 R302). -/
def State.readPiece (s : State) (w : Who) (r : RPiece) : List Byte × Bool × Bool :=
  if s.refused w r.len (.ok r.loc) then (List.replicate r.len 0, false, true)
  else if s.locPoisoned r.loc r.len then (List.replicate r.len 0, true, false)
  else (s.readLoc r.loc r.len, false, false)

/-- Count the reads that perform (08 R186). -/
def State.touchReads (s : State) (l : List RPiece) : State := s.touchRuns (l.map fun r => ⟨r.owner, r.va / 4096, r.loc, r.len⟩)

/-- The first refused read since the last DRAIN.PEER is kept (15 R302). -/
def State.peerFault (s : State) (a : Acc) (sl : Slot) (va : Int) : State :=
  (s.mapBoth a fun c => { c with peerFault := c.peerFault.or (some ⟨some .peer, a.order, ⟨0x08, 5, sl, pcOf va⟩⟩) }).log (.peerRefused 0 0)

/-! ## What an engine sends (09 R199, R200) -/

/-- Posted stores of one stream: a context's, through one window handle, in one class. -/
def Acc.inStream (key h cls : Nat) (a : Acc) : Bool :=
  a.ctx = key && a.cls = some cls && match a.op with
    | .winStore k .. => k = h
    | _ => false

/-- A posted store or counter arrival that an engine command sends: an access of its own, which the command's end waits for. -/
def State.spawn (s : State) (a : Acc) (sub : Nat) (deps : List Nat) (queued : Option Bool) (op : AccOp) : State :=
  (s.copies a).foldl (fun s x =>
    let id := s.nextId
    let y : Acc := { x with
      id := id, sub := sub, deps := deps, strict := [], after := [], give := none, parent := some x.id, posted := false, queued := queued,
      entry := none, op := op, released := true, clock := s.clock }
    { s with nextId := id + 1, accs := s.accs ++ [y] }) s

/-- Something that a command has sent has not performed yet. -/
def State.sending (s : State) (id : Nat) : Bool := s.accs.any fun x => x.parent = some id && !x.performed

/-- A posted store of an engine command: it follows the stores of its stream that are earlier in program order. One that is `queued` waits in the
engine. -/
def State.sendStore (s : State) (a : Acc) (queued : Option Bool) (sub h : Nat) (t : Target) (off alw : Nat) (data : List Byte) : State :=
  let stream := (s.accs.filter fun x => x.grp = a.grp && x.inStream a.ctx h (a.cls.getD 0)
    && (x.order < a.order || (x.order = a.order && x.sub < sub))).map (·.id)
  s.spawn a sub stream queued (.winStore h t [(off, data)] alw false)

/-- OUT of an allowance rises by one as a posted store goes out (06 R145). -/
def State.raiseOut (s : State) (a : Acc) (alw : Nat) : State := s.mapBoth a fun c => { c with out := c.out.write 0 alw (c.outOf alw + 1) }

/-- An allowance lets another posted store go out (06 R145). -/
def Ctx.mayPost (c : Ctx) (alw : Nat) : Bool := decide (c.outOf alw < c.limitOf alw)

/-- Change an access and the twin's copy of it. -/
def State.mapAcc (s : State) (a : Acc) (f : Acc → Acc) : State :=
  let l := s.copies a
  { s with accs := s.accs.map fun (x : Acc) => if l.any fun y => y.id = x.id then f x else x }

/-- A command has sent all that it writes, and waits for it. -/
def State.markPosted (s : State) (a : Acc) (entry : Option (Nat × Nat)) : State := s.mapAcc a fun x => { x with posted := true, entry := entry }

/-! ## The release horizon (02 R36) -/

/-- The context has passed the effect's issue by 96 lc of program and trap time together. An effect that is due in a clock performs at the
start of the next one, so that a strike report in the clock in which it is due still discards it (14 R288; DEDUCED, log entry 59). -/
def State.horizonPassed (s : State) (a : Acc) : Bool :=
  match s.accCtx a with
  | some c => a.comb + 97 ≤ c.passed s.clock
  | none => false

/-- 64 ns of wall time have passed since its issue, with the same clock for a report (log entry 59). -/
def State.wallPassed (s : State) (a : Acc) : Bool := a.clock + 97 ≤ s.clock

end Sys2Proof.Machine
end

