-- ==== Sys2Proof/Machine/Copy.lean ====
section
/-! DEFINITION. The copy engine's commands at issue (16 R322 to R330): staging fields, the checks of R323 in their order, the
sides of a copy (R324), and the bindings of handles and tensor identifiers (07 R161; 08 R166). -/

namespace Sys2Proof.Machine

/-! ## Staging registers (R322) -/

/-- The fields of e0. -/
structure CpKinds where
  sk   : Nat
  dk   : Nat
  form : Nat
  sidx : Nat
  didx : Nat
  deriving DecidableEq, Repr

def Ctx.cpKinds (c : Ctx) : CpKinds :=
  let e := c.readE 0
  ⟨field e 63 62, field e 61 60, field e 59 58, field e 47 40, field e 39 32⟩

/-- The outstanding command that binds an identifier last. -/
def State.binderOf (s : State) (key : Nat) (c : Ctx) (tn : Nat) : Nat :=
  (s.ctxAccs key c).foldl (fun n a => match a.op with
    | .bindTensor k _ => if k = tn then a.id else n
    | _ => n) 0

/-- Which command reads the registers. -/
inductive CpKind where
  | copy | bind | window | fill | writeBack
  deriving DecidableEq, Repr

def stagedE (e : Tab Word) (n : Nat) : Word := e.read 0 n

/-- Origin (i0 to i5), BOX0 and BOX1. -/
def boxOrigin (e : Tab Word) : List Nat :=
  let a := stagedE e 4
  let b := stagedE e 5
  [field a 31 0, field a 63 32, field b 15 0, field b 31 16, field b 47 32, field b 63 48]
def box0 (e : Tab Word) : Nat := field (stagedE e 6) 31 0
def box1 (e : Tab Word) : Nat := field (stagedE e 6) 63 32

/-! ## Sides (R324) -/

/-- A place that a run of a side's bytes has. -/
inductive Spot where
  /-- An exact virtual address that must be a multiple of `al`. -/
  | mem (va : Int) (owner : Option (Nat × Nat)) (n al : Nat)
  | tile (h off n : Nat)
  | win (t : Target) (off n : Nat)
  deriving DecidableEq, Repr

/-- The place of a byte in a handle; one before its beginning counts as beyond every SIZE (08 R169). -/
def handleOff (a : Int) : Nat := if a < 0 then 2 ^ 40 else a.toNat

/-- Indices of the q-th group of elements of the box. -/
def TDesc.boxIndex (t : TDesc) (e : Tab Word) (q : Nat) : List Nat :=
  let per := Nat.max 1 (box0 e / t.copyStep)
  let o := boxOrigin e
  (idxAt o 0 + q % per * t.copyStep) :: (idxAt o 1 + q / per) :: o.drop 2

/-- Bytes p to p+n-1 of a tensor side, group by group. -/
def TDesc.spots (t : TDesc) (m : Option MEnt) (e : Tab Word) : Nat → Nat → Nat → List Spot
  | 0, _, _ => []
  | f + 1, p, n =>
    if n = 0 then []
    else
      let k := t.copyBytes
      let r := p % k
      let len := Nat.min n (k - r)
      let el := t.elem m (t.boxIndex e (p / k))
      (match t.handle with
        | some h => .tile h (handleOff el.addr + r) len
        | none => .mem (el.addr + (r : Nat)) el.owner len (if t.fmt.isTxb || r != 0 then 1 else k)) :: t.spots m e f (p + len) (n - len)

/-- Bytes p to p+n-1 of a side; a window's `hnd` form is resolved before. -/
def CSide.spots (e : Tab Word) (p n : Nat) : CSide → List Spot
  | .virt va => [.mem (va + (p : Nat)) none n 1]
  | .hnd h off => [.tile h (off + p) n]
  | .win _ t off _ => [.win t (off + p) n]
  | .tens t m => t.spots m e n p n
  | .tpend .. | .tbad => []

/-- Bytes that a copy moves. -/
def copyLength (src dst : CSide) (e : Tab Word) : Nat :=
  match src, dst with
  | .tens t _, _ | _, .tens t _ => box0 e * t.fmt.bits / 8 * box1 e
  | _, _ => field (stagedE e 3) 39 0

/-! ## Checks (R323) -/

/-- Order 1: reserved bits and codes, and fields that the command does not use. -/
def cpReservedOk (k : CpKind) (c : Ctx) : Bool :=
  let f := c.cpKinds
  let e0 := c.readE 0
  let zero (l : List Nat) : Bool := l.all fun n => c.readE n = 0
  let tens := f.sk = 2 || f.dk = 2
  let common := f.sk != 3 && f.dk != 3 && f.form != 3 && field e0 57 48 = 0 && field e0 31 0 = 0
    && (f.sk != 0 || f.sidx = 0) && (f.dk != 0 || f.didx = 0)
  let offs := (f.sk != 1 || field (c.readE 1) 63 32 = 0) && (f.dk != 1 || field (c.readE 2) 63 32 = 0)
  common && (match k with
    | .copy => f.form = 0 | .bind => true | .window => f.form = 0 | .fill => f.form = 0 | .writeBack => f.form = 0)
  && (match k with
    | .bind => true
    | .copy | .window =>
      offs && (f.sk != 2 || zero [1]) && (f.dk != 2 || zero [2])
        && (if tens then zero [3] else zero [4, 5, 6] && field (c.readE 3) 63 40 = 0)
    | .fill => offs && zero [1, 4, 5, 6, 7] && field (c.readE 3) 63 40 = 0
    | .writeBack => f.sk = 0 && zero [1, 2, 3, 4, 5, 6, 7])

/-- Order 2: allotments. -/
def cpAllot (c : Ctx) (give : Nat) (a : After) : Chk :=
  let f := c.cpKinds
  let one (kind i : Nat) : Chk :=
    if kind = 1 then Chk.need (i < c.pk.handles) (trapOf 0x03 2 .ce)
    else if kind = 2 then Chk.need (i < c.pk.tns) (trapOf 0x03 3 .ce) else .ok
  (tokensOwn c .ce give a).and ((one f.sk f.sidx).and (one f.dk f.didx))

/-- LEN, BOX0 and BOX1 in range. -/
def cpRange (k : CpKind) (c : Ctx) : Bool :=
  let f := c.cpKinds
  let len := field (c.readE 3) 39 0
  if f.sk = 2 ∨ f.dk = 2 then field (c.readE 6) 31 0 != 0 && field (c.readE 6) 63 32 != 0
  else 64 ≤ len && len % (if k = .fill then 4096 else 64) = 0

/-- Order 3: kind combinations, ranges, and counters where R329 allows none. -/
def cpLegal (k : CpKind) (c : Ctx) : Bool :=
  let f := c.cpKinds
  let t := c.tensor f.didx
  match k with
  | .copy => !(f.sk = 2 && f.dk = 2) && cpRange k c
      && (c.readE 7 = 0 || !(f.dk = 1 || (f.dk = 2 && t.st = .bound && t.desc.handle.isSome)))
  | .bind => f.sk = 0 && f.dk = f.form && [2, 3, 4, 5, 6, 7].all fun n => c.readE n = 0
  | .window => f.dk = 1 && cpRange k c
  | .fill => f.sk = 0 && f.dk = 1 && cpRange k c
  | .writeBack => f.dk = 1

/-- States of the objects that a command names, the handle of a handle-backed identifier among them. -/
def Ctx.cpStates (c : Ctx) (kind i : Nat) : List (OState × Bool) :=
  if kind = 1 then [((c.handle i).st, true)]
  else if kind = 2 then
    let t := c.tensor i
    (t.st, false) :: (match t.st, t.desc.handle with
      | .bound, some h => [((c.handle h).st, true)]
      | _, _ => [])
  else []

def Ctx.cpNamed (k : CpKind) (c : Ctx) : List (OState × Bool) :=
  let f := c.cpKinds
  c.cpStates f.sk f.sidx ++ (if k = .bind then [] else c.cpStates f.dk f.didx)

/-- Order 4: UNALLOCATED or BAD. -/
def cpObjects (k : CpKind) (c : Ctx) : Chk :=
  match (c.cpNamed k).find? fun p => p.1 = .unallocated || p.1 = .bad with
  | some (_, true) => trapOf 0x04 1 .ce
  | some (_, false) => trapOf 0x05 1 .ce
  | none => .ok

/-- Some named object is PENDING. -/
def cpPending (k : CpKind) (c : Ctx) : Bool := (c.cpNamed k).any fun p => p.1 = .pending

def addrChk (v : Word) (align : Nat) : Chk :=
  (Chk.need (isCanonical v) (trapAt 0x07 1 .ce v)).and (Chk.need (v.toNat % align = 0) (trapAt 0x07 6 .ce v))

/-- Order 5: addresses. -/
def cpAddresses (k : CpKind) (c : Ctx) : Chk :=
  let f := c.cpKinds
  let moves := k = .copy || k = .window
  (if (moves || k = .bind) && f.sk = 0 then addrChk (c.readE 1) 64 else .ok).and <|
  (if moves && f.dk = 0 then addrChk (c.readE 2) 64 else .ok).and <|
  if c.readE 7 != 0 then addrChk (c.readE 7) 8 else .ok

/-- A handle side in its SIZE, aligned (R324, R328). -/
def cpHandleFit (h : Handle) (off n align : Nat) : Chk :=
  (Chk.need (off + n ≤ h.desc.size) (trapOf 0x04 2 .ce)).and (Chk.need (off % align = 0) (trapOf 0x04 3 .ce))

/-- A tensor side under its Mantle entry (R324; 12 R252). -/
def cpTensorFit (c : Ctx) (t : TDesc) (m : Option MEnt) (e : Tab Word) : Chk :=
  let o := boxOrigin e
  let last := (idxAt o 0 + box0 e - 1) :: (idxAt o 1 + box1 e - 1) :: o.drop 2
  (Chk.need (t.inExtents o && t.inExtents last) (trapOf 0x05 2 .ce)).and <|
  (Chk.need (box0 e * t.fmt.bits % 512 = 0) (trapOf 0x05 3 .ce)).and <|
  (Chk.need (!t.fmt.isTxb || t.scaleOk (idxAt o 0) (box0 e)) (trapOf 0x06 0 .ce)).and <|
  Chk.need (m.all (mantleFits c.tenant t)) (trapOf 0x05 4 .ce)

/-- Whether a handle may stand on a side (R326, R328 to R330). -/
def cpLevelOk (k : CpKind) (dst : Bool) (d : HDesc) : Bool :=
  match k with
  | .copy => !dst || d.level = .tile
  | .bind => true
  | .window => if dst then d.level != .tile else d.level = .tile
  | .fill => d.level = .tile && d.bmode != 0
  | .writeBack => d.level = .tile

/-- A side as the command snapshots it (07 R161); a pair's follower takes its leader's Mantle (03 R66). -/
def cpMakeSide (s : State) (key : Nat) (c : Ctx) (kind i : Nat) (e : Word) : CSide :=
  if kind = 1 then
    let h := c.handle i
    if h.st = .bound && h.desc.level != .tile then .win i (s.targetOf key c h.desc) (field e 31 0) h.desc.alw else .hnd i (field e 31 0)
  else if kind = 2 then
    let t := c.tensor i
    if t.st = .bound then .tens t.desc ((s.seen c).mantleOf t.desc) else .tpend i (s.binderOf key c i) (s.seen c).mantle
  else .virt (vaOf e)

/-- A tensor destination's version word, 0 for none; such a copy is a tensor-qualified write (08 R180). -/
def CSide.version : CSide → Nat
  | .tens t _ => ((t.versionAddr).map (·.toNat)).getD 0
  | _ => 0

/-- Bytes that a copy moves, once that is known. -/
def copySize (src dst : CSide) (e : Tab Word) : Option Nat :=
  match src, dst with
  | .tpend .., _ | _, .tpend .. | .tbad, _ | _, .tbad => none
  | _, _ => some (copyLength src dst e)

/-- Order 6 on one side (R324, R326 to R330). What hangs on a handle that is PENDING passes. -/
def CSide.check (k : CpKind) (c : Ctx) (e : Tab Word) (dst : Bool) (n : Option Nat) : CSide → Chk
  | .hnd h off | .win h _ off _ =>
    let v := c.handle h
    if v.st = .pending then .ok
    else (Chk.need (cpLevelOk k dst v.desc) (trapOf 0x04 1 .ce)).and <|
      if k = .writeBack then .ok else cpHandleFit v off (n.getD 0) (if k = .fill then 4096 else 64)
  | .tens t m =>
    let known := t.handle.all fun h => (c.handle h).st != .pending
    (Chk.need (!known || t.handle.all fun h => cpLevelOk k dst (c.handle h).desc) (trapOf 0x04 1 .ce)).and <|
    (cpTensorFit c t m e).and <|
      if known then t.groupsChk c .ce ((List.range (Nat.max 1 (box0 e / t.copyStep) * box1 e)).map (t.boxIndex e)) else .ok
  | _ => .ok

/-- The sides of a command. -/
def cpSrc (s : State) (key : Nat) (c : Ctx) : CSide := cpMakeSide s key c c.cpKinds.sk c.cpKinds.sidx (c.readE 1)
def cpDst (s : State) (key : Nat) (c : Ctx) : CSide := cpMakeSide s key c c.cpKinds.dk c.cpKinds.didx (c.readE 2)

/-- Order 6: the source side, then the destination side. A length that hangs on an identifier still PENDING leaves the bounds to the engine. -/
def cpGeometry (k : CpKind) (e : Tab Word) (c : Ctx) (src dst : CSide) : Chk :=
  let n := copySize src dst e
  (src.check k c e false n).and (if k = .bind then .ok else dst.check k c e true n)

/-- Tensor identifiers that a command names. -/
def Ctx.cpTensors (c : Ctx) : List Nat :=
  let f := c.cpKinds
  (if f.sk = 2 then [f.sidx] else []) ++ if f.dk = 2 then [f.didx] else []

/-- The checks of R323 in their order. -/
def cpOwn (k : CpKind) (give : Nat) (a : After) (s : State) (key : Nat) (c : Ctx) : Chk :=
  (Chk.need (cpReservedOk k c) (trapOf 0x0D 0 .ce)).and <|
  (cpAllot c give a).and <|
  (Chk.need (cpLegal k c) (trapOf 0x0C 0 .ce)).and <|
  (cpObjects k c).and <|
  (cpAddresses k c).and <|
  (if k = .bind then .ok else s.shmapsChk key c c.cpTensors).and <|
  cpGeometry k (c.stage 0 7) c (cpSrc s key c) (cpDst s key c)

/-! ## Issue -/

/-- Outstanding bindings of the objects that a command names: it waits for them in its engine (R161, R166). -/
def State.binders (s : State) (key : Nat) (c : Ctx) (handles tensors : List Nat) : List Nat :=
  ((s.ctxAccs key c).filter fun a => match a.op with
    | .bindHandle h _ => handles.contains h
    | .bindTensor t _ => tensors.contains t
    | _ => false).map (·.id)

def cpNames (c : Ctx) (kind i : Nat) : List Nat × List Nat :=
  if kind = 1 then ([i], [])
  else if kind = 2 then ((match (c.tensor i).desc.handle with | some h => [h] | none => []), [i])
  else ([], [])

/-- The class in which a command may read the backing of a handle that it copies from (08 R170; R325). -/
def Ctx.backClass (c : Ctx) (kind i : Nat) : Option Nat :=
  let of (h : Nat) : Option Nat :=
    let d := (c.handle h).desc
    if (c.handle h).st = .bound && d.level = .tile && d.bmode != 0 then some d.cls else none
  if kind = 1 then of i else if kind = 2 then (c.tensor i).desc.handle.bind of else none

/-- Append a copy command that names objects. -/
def State.cpCommand (s : State) (key : Nat) (c : Ctx) (oc give : Nat) (a : After) (op : AccOp) : State :=
  let f := c.cpKinds
  let src := cpNames c f.sk f.sidx
  let dst := cpNames c f.dk f.didx
  let back := c.backClass f.sk f.sidx
  s.command key (some oc) give a (s.binders key c (src.1 ++ dst.1) (src.2 ++ dst.2) ++ if back.isSome then c.fenceDeps back else []) op

/-- The copy of a CP or CPW. -/
def State.issueCopy (s : State) (key : Nat) (c : Ctx) (k : CpKind) (oc give : Nat) (a : After) : State :=
  s.cpCommand key c oc give a (.copy (cpSrc s key c) (cpDst s key c) (c.stage 0 7) (cpPending k c) (k = .window) 0 0)

/-- Whether an outstanding access still reads or writes the bytes of a handle's binding (R166). -/
def AccOp.usesHandle (h : Nat) : AccOp → Bool
  | .copy src dst _ _ _ _ _ => [src, dst].any fun x => match x with
    | .hnd k _ => k = h
    | .tens t _ => t.handle = some h
    | .tpend .. => true
    | _ => false
  | .cpfill k _ _ _ | .writeBack k _ | .fill _ k _ _ | .bindHandle k _ => k = h
  | .mwld _ t _ _ _ => t.handle = some h
  | .mdlt _ w x y _ => [w, x, y].any fun v => match v with
    | .tens t _ => t.handle = some h
    | .tpend .. => true
    | _ => false
  | _ => false

/-- A side that waits for the binding of an identifier. -/
def CSide.awaits (tn : Nat) : CSide → Bool
  | .tpend k .. => k = tn
  | _ => false

/-- Whether an outstanding command still resolves an identifier (R161). -/
def AccOp.usesTensor (tn : Nat) : AccOp → Bool
  | .copy src dst _ _ _ _ _ => [src, dst].any (CSide.awaits tn)
  | .mdlt _ w x y _ => [w, x, y].any (CSide.awaits tn)
  | .bindTensor k _ => k = tn
  | _ => false

def State.usersOf (s : State) (key : Nat) (c : Ctx) (p : AccOp → Bool) : List Nat :=
  ((s.ctxAccs key c).filter fun a => p a.op).map (·.id)

/-- CP FORM 01: the old binding is retired, its dirty bytes written back in class CLS, and the handle is PENDING (R166, R327). The class of a
binding that is itself still PENDING is known when it completes. -/
def cpBindHandleOp (give : Nat) (a : After) (oc : Nat) : SlotOp where
  own := fun s key c => (Chk.need (c.cpKinds.form = 1) (trapOf 0x0D 0 .ce)).and (cpOwn .bind give a s key c)
  need := noNeed
  effect := fun s key c =>
    let h := c.cpKinds.didx
    let v := c.handle h
    let users := s.usersOf key c (AccOp.usesHandle h)
    let id := s.nextId
    let dirty := v.st = .pending || (v.st = .bound && v.desc.level = .tile && v.desc.bmode = 2)
    let cls := if v.st = .pending then none else some v.desc.cls
    let s := if dirty then s.addAcc key cls (s.classDeps key c cls) (c.fenceDeps cls ++ users) (.writeBack h .retire) else s
    let s := s.mapCtx key fun c => c.setHandle h { c.handle h with st := .pending }
    s.command key (some oc) give a (users ++ if dirty then [id] else []) (.bindHandle h (c.readE 1))
def execCpBindHandle (give : Nat) (a : After) (oc : Nat) (s : State) : Host.Outcome State Fault Refusal :=
  issueSlot (.cpBindHandle give a oc) (cpBindHandleOp give a oc) s

/-- CP FORM 10: the identifier is PENDING (R161, R327). -/
def cpBindTensorOp (give : Nat) (a : After) (oc : Nat) : SlotOp where
  own := fun s key c => (Chk.need (c.cpKinds.form = 2) (trapOf 0x0D 0 .ce)).and (cpOwn .bind give a s key c)
  need := noNeed
  effect := fun s key c =>
    let tn := c.cpKinds.didx
    let users := s.usersOf key c (AccOp.usesTensor tn)
    let s := s.mapCtx key fun c => { c with tensors := c.tensors.write .empty tn { c.tensor tn with st := .pending } }
    s.command key (some oc) give a users (.bindTensor tn (c.readE 1))
def execCpBindTensor (give : Nat) (a : After) (oc : Nat) (s : State) : Host.Outcome State Fault Refusal :=
  issueSlot (.cpBindTensor give a oc) (cpBindTensorOp give a oc) s

/-- CP FORM 00 (R326). -/
def cpCopyOp (give : Nat) (a : After) (oc : Nat) : SlotOp where
  own := cpOwn .copy give a
  need := noNeed
  effect := fun s key c => s.issueCopy key c .copy oc give a

/-- CP: e0 chooses the form (R326, R327). -/
def cpOp (give : Nat) (a : After) (oc : Nat) : SlotOp :=
  let pick (c : Ctx) : SlotOp :=
    if c.cpKinds.form = 1 then cpBindHandleOp give a oc else if c.cpKinds.form = 2 then cpBindTensorOp give a oc else cpCopyOp give a oc
  { own := fun s key c => (pick c).own s key c, need := noNeed, effect := fun s key c => (pick c).effect s key c }
def execCp (give : Nat) (a : After) (oc : Nat) (s : State) : Host.Outcome State Fault Refusal :=
  issueSlot (.cp give a oc) (cpOp give a oc) s

/-- CPW (R329). -/
def cpwOp (give : Nat) (a : After) (oc : Nat) : SlotOp where
  own := cpOwn .window give a
  need := noNeed
  effect := fun s key c => s.issueCopy key c .window oc give a
def execCpw (give : Nat) (a : After) (oc : Nat) (s : State) : Host.Outcome State Fault Refusal :=
  issueSlot (.cpw give a oc) (cpwOp give a oc) s

/-- CPWB (R330; 08 R172). -/
def cpwbOp (give : Nat) (a : After) (oc : Nat) : SlotOp where
  own := cpOwn .writeBack give a
  need := noNeed
  effect := fun s key c => s.cpCommand key c oc give a (.writeBack c.cpKinds.didx .command)
def execCpwb (give : Nat) (a : After) (oc : Nat) (s : State) : Host.Outcome State Fault Refusal :=
  issueSlot (.cpwb give a oc) (cpwbOp give a oc) s

/-- CPFILL (R328; 08 R170). -/
def cpfillOp (give : Nat) (a : After) (oc : Nat) : SlotOp where
  own := cpOwn .fill give a
  need := noNeed
  effect := fun s key c =>
    s.cpCommand key c oc give a
      (.cpfill c.cpKinds.didx (field (c.readE 2) 31 0) (field (c.readE 3) 39 0) (cpPending .fill c))
def execCpfill (give : Nat) (a : After) (oc : Nat) (s : State) : Host.Outcome State Fault Refusal :=
  issueSlot (.cpfill give a oc) (cpfillOp give a oc) s

end Sys2Proof.Machine
end

