-- ==== Sys2Proof/Machine/Spots.lean ====
section
/-! DEFINITION. How an engine reads and writes the places of its commands (16 R325; 08 R170, R172, R173, R188), and which paths
an outstanding access could still reach (09 R198). -/

namespace Sys2Proof.Machine

/-! ## Reading -/

/-- Outcome of an engine's read: bytes, whether a window met no target or its end (R175), and the address of the first part, read as zero,
that a peer package refused (15 R302). -/
inductive SRead where
  | ok (l : List Byte) (bad : Bool) (lost : Option Int)
  | held
  | poison
  | fault (f : AFault) (path : Option Path) (va : Int)
  deriving DecidableEq, Repr

/-- Two reads of one access: it waits for what is held, and of two faults the one lowest in address counts (R188). -/
def SRead.append : SRead → SRead → SRead
  | .poison, _ | _, .poison => .poison
  | .held, _ | _, .held => .held
  | .fault f p v, .fault g q w => if w < v then .fault g q w else .fault f p v
  | .fault f p v, .ok .. | .ok .., .fault f p v => .fault f p v
  | .ok a x v, .ok b y w => .ok (a ++ b) (x || y) (v.or w)

/-- A run of virtual memory, part by part (R188): translated as a copy read. -/
def State.readRun (s : State) (w : Who) (owner : Option (Nat × Nat)) (va : Int) (n : Nat) : SRead :=
  (parts va n).foldr (fun p r =>
    SRead.append (match s.translateOwner w .copyRead false owner p.1 p.2 with
      | .ok l =>
        if s.refused w p.2 (.ok l) then .ok (List.replicate p.2 0) false (some p.1)
        else if s.locPoisoned l p.2 then .poison else .ok (s.readLoc l p.2) false none
      | .fault f => .fault f (s.reachPath w owner p.1) p.1
      | .nonres => .fault faultNonres (s.reachPath w owner p.1) p.1
      | .held => .held
      | .poison _ => .poison) r) (.ok [] false none)

/-- Bytes of a TILE handle: unwritten bytes of an UNFILLED granule come from the backing, which fills nothing (R325). -/
def State.readTile (s : State) (x : Acc) (c : Ctx) (h off n : Nat) : SRead :=
  let v := c.handle h
  if v.desc.size < off + n then .fault ⟨0x04, 2⟩ (some .tile) 0
  else if c.handleBad h off n then .poison
  else
    (granules (n / 4096 + 2) off n).foldr (fun p r =>
      let a := p.1.toNat
      SRead.append (if v.granFilled (a / 4096) || ((List.range p.2).all fun i => v.written.read false (a + i)) then .ok (v.read a p.2) false none
       else match s.readRun x.who none (vaOf v.desc.back + (a : Nat)) p.2 with
        | .ok l b m => .ok (((List.range p.2).zip l).map fun y => if v.written.read false (a + y.1) then v.bytes.read 0 (a + y.1) else y.2) b m
        | y => y) r) (.ok [] false none)

/-- Bytes at a window's target (R173, R175). -/
def State.readWin (s : State) (x : Acc) (t : Target) (off n : Nat) : SRead :=
  match s.target x.grp x.who.tenant t with
  | .waits => .held
  | .absent => if s.peerGone x t then .fault faultOwner (some .win) 0 else .ok (List.replicate n 0) true none
  | f => if s.foundPoisoned f off n then .poison else .ok (s.foundBytes f off n) (s.foundSize f < off + n) none

def State.readSpot (s : State) (a : Acc) (c : Ctx) : Spot → SRead
  | .mem va owner n al =>
    if va % (al : Int) ≠ 0 then .fault faultAlign (s.reachPath a.who owner va) va else s.readRun a.who owner va n
  | .tile h off n =>
    if c.isTile h then s.readTile a c h off n
    else if (c.handle h).desc.size < off + n then .fault ⟨0x04, 2⟩ (some .win) 0
    else s.readWin a (s.targetOf a.ctx c (c.handle h).desc) off n
  | .win t off n => s.readWin a t off n

def State.readSpots (s : State) (a : Acc) (c : Ctx) (l : List Spot) : SRead :=
  l.foldr (fun p r => (s.readSpot a c p).append r) (.ok [] false none)

/-- What a read leaves behind: a deferred window fault, a deferred peer fault, and its counts (R175; 15 R302; 08 R186). -/
def State.noteRead (s : State) (a : Acc) (sl : Slot) (bad : Bool) (lost : Option Int) : State :=
  let s := if bad then s.windowFault a sl else s
  match lost with
  | some va => s.peerFault a sl va
  | none => s

/-- A run of a window's handle at its target is met by a decoder. -/
def State.correctAt (s : State) (f : Found) (met : Nat → CUnit → Bool) : State :=
  match f with
  | .there key h => s.correctUnits key (met h)
  | _ => s

/-- What decoders put right under an engine's access to a place of a handle, and the walks of one of virtual memory (14 R279; 08 R183). -/
def State.meetSpot (s : State) (a : Acc) (met : Nat → Nat → Nat → CUnit → Bool) : Spot → State
  | .mem va owner n _ => s.meetWalks a.who ((parts va n).map fun r => (owner, r.1))
  | .tile h off n => s.correctUnits a.ctx (met h off n)
  | .win t off n => s.correctAt (s.target a.grp a.who.tenant t) fun h => met h off n

/-- Reads of an engine count at the blocks that they perform at (08 R186). -/
def State.touchSpots (s : State) (a : Acc) (l : List Spot) : State :=
  (l.foldl (fun s p => s.meetSpot a CUnit.metBy p) s).touchRuns (l.flatMap fun p => match p with
    | .mem va owner n _ => (parts va n).filterMap fun r => match s.translateOwner a.who .copyRead false owner r.1 r.2 with
        | .ok l => some ⟨owner, r.1 / 4096, l, r.2⟩
        | _ => none
    | _ => [])

/-! ## Writing -/

/-- Bytes of a destination with their places. -/
def spotData : List Spot → List Byte → List (Spot × List Byte)
  | [], _ => []
  | p :: rest, l =>
    let n := match p with | .mem _ _ n _ | .tile _ _ n | .win _ _ n => n
    (p, l.take n) :: spotData rest (l.drop n)

/-- Misaligned elements of a destination (R181). -/
def State.alignFaults (s : State) (w : Who) (l : List (Spot × List Byte)) : List (Option Path × AFault × Int) :=
  l.filterMap fun p => match p.1 with
    | .mem va owner _ al => if va % (al : Int) ≠ 0 then some (s.reachPath w owner va, faultAlign, va) else none
    | _ => none

/-- A destination in a TILE handle that covers a poisoned unit in part (14 R280). -/
def Ctx.tornSpot (c : Ctx) (p : Spot × List Byte) : Bool :=
  match p.1 with
  | .tile h off _ => c.handleTorn h off p.2.length
  | _ => false

/-- The pieces of a destination in virtual memory. -/
def memPieces (l : List (Spot × List Byte)) : List WPiece :=
  l.filterMap fun p => match p.1 with
    | .mem va owner _ _ => some ⟨va, owner, p.2⟩
    | _ => none

/-- Pieces that follow one another are one. -/
def joinWrites : List WPiece → List WPiece
  | [] => []
  | p :: rest =>
    match joinWrites rest with
    | [] => [p]
    | q :: more => if p.owner = q.owner && p.va + p.data.length = q.va then { p with data := p.data ++ q.data } :: more else p :: q :: more

/-- Write a destination's memory and tile places: all of its parts or none (R188). Windows are posted by the caller. -/
def State.writeSpots (s : State) (a : Acc) (tq : Bool) (l : List (Spot × List Byte)) : WRes :=
  let al := s.alignFaults a.who l
  if (s.accCtx a).any fun c => l.any c.tornSpot then .poison s
  else
    match s.writeParts a.who tq (joinWrites (memPieces l)) with
    | .bad s l => .bad s (al ++ l)
    | .done s' => if !al.isEmpty then .bad s al
      else .done (l.foldl (fun s p => match p.1 with
        | .tile h off _ => (s.correctUnits a.ctx (CUnit.cutBy h off p.2.length)).mapBoth a fun c => c.writeOver h off p.2
        | _ => s) s')
    | r => r

/-! ## Paths (R198) -/

/-- Pages of 32 KiB that a run meets, by an address in each. -/
def pagesOf (va : Int) (n : Nat) : List Int :=
  if n = 0 then [] else va :: ((List.range (n / 32768 + 1)).map fun (i : Nat) => (va / 32768 + i + 1) * 32768).filter (· < va + n)

/-- Whether a write of a run could still reach a path: a part that does not translate, or whose page migrates, could reach any
memory. -/
def State.runReaches (s : State) (w : Who) (p : Path) (owner : Option (Nat × Nat)) (va : Int) (n : Nat) : Bool :=
  p != .win && p != .tile && (pagesOf va n).any fun a =>
    match s.reachPath w owner a with
    | some q => q = p || (ownerHere owner && s.migrating w a)
    | none => true

def State.spotReaches (s : State) (w : Who) (p : Path) : Spot → Bool
  | .mem va owner n _ => s.runReaches w p owner va n
  | .tile .. => p = .tile
  | .win .. => p = .win

/-- The path of a destination's first place, for faults that name it; none where it does not translate. -/
def State.spotPath (s : State) (w : Who) : List Spot → Option Path
  | .mem va owner _ _ :: _ => s.reachPath w owner va
  | .tile .. :: _ => some .tile
  | .win .. :: _ => some .win
  | [] => none

end Sys2Proof.Machine
end

