-- ==== Sys2Proof/Machine/Lining.lean ====
section
/-! DEFINITION. The Lining (11): slots and claims (R230, R231), MDLT at issue (R233, R234) and in its engine (R235 to R242),
LNCTL (R243). -/

namespace Sys2Proof.Machine

/-! ## Slots (R230) -/

def better (l : List (Nat × LEnt)) (first : LEnt → LEnt → Bool) : Option (Nat × LEnt) :=
  l.foldl (fun m p => match m with
    | none => some p
    | some b => if first p.2 b.2 then some p else some b) none

/-- The entry that a claim takes: the most recently used one of the key, one that has moved to the die before any other (R245), else an EMPTY
one, else the least recently used retained one of the tenant. -/
def Die.claimEntry (d : Die) (tenant layer : Nat) : Option Nat :=
  let mine := d.lining.filter fun p => p.2.claimed && p.2.tenant = tenant
  match better (mine.filter fun p => p.2.layer = layer) fun a b => if a.moved = b.moved then b.used < a.used else a.moved with
  | some p => some p.1
  | none =>
    match (List.range 512).find? fun i => !(d.lining.read .empty i).claimed with
    | some i => some i
    | none => (better (mine.filter fun p => p.2.hold.isEmpty) fun a b => a.used < b.used).map (·.1)

/-- bind(slot, L) (R230). -/
def State.bindSlot (s : State) (g slot layer tenant : Nat) : State × Option Nat :=
  match s.group? g with
  | none => (s, none)
  | some grp =>
    match grp.slots.find slot with
    | some i =>
      let e := s.lent grp.die i
      if e.claimed && e.tenant = tenant && e.layer = layer && e.hold.contains (g, slot) then (s, some i) else claim (s.dropSlot g slot) grp.die
    | none => claim s grp.die
where
  claim (s : State) (d : Nat) : State × Option Nat :=
    match (s.die d).claimEntry tenant layer with
    | none => (s, none)
    | some i =>
      let e := s.lent d i
      let e := if e.claimed && e.tenant = tenant && e.layer = layer then e else { LEnt.empty with tenant := tenant, layer := layer }
      ((s.setLent d i { e with hold := e.hold ++ [(g, slot)] }).mapGroup g fun v => { v with slots := v.slots.insert slot i }, some i)

/-- Reserved entries that a die can give a group of a tenant (R231): EMPTY and retained ones, less the unbound slots there. -/
def State.liningFree (s : State) (d tenant : Nat) : Int :=
  let l := (s.die d).lining
  let held := (l.filter fun p => p.2.claimed && (!p.2.hold.isEmpty || p.2.tenant != tenant)).length
  let unbound := ((s.groups.filter fun p => p.2.die = d && p.2.place.isSome).map fun p =>
    ((s.node? p.2.node).map fun n => n.pk.lining).getD 0 - p.2.slots.length).foldl (fun (a b : Nat) => a + b) 0
  (512 : Int) - held - unbound

/-- An entry that still is a tenant's for a layer. -/
def State.entryOf (s : State) (tenant layer : Nat) (p : Nat × Nat) : Bool :=
  let e := s.lent p.1 p.2
  e.claimed && e.tenant = tenant && e.layer = layer

/-- An MDLT completes: its token is produced, and the entry is the most recently used (R230). -/
def State.mdltEnd (s : State) (a : Acc) (layer : Nat) (entry : Option (Nat × Nat)) : State :=
  match entry.filter (s.entryOf a.who.tenant layer) with
  | some (d, i) =>
    let n := (s.die d).liningUse + 1
    ((s.mapDie d fun v => { v with liningUse := n }).setLent d i { s.lent d i with used := n }).finishAcc a
  | none => s.finishAcc a

/-! ## MDLT at issue -/

/-- Fields of e16 to e21 (R233). -/
structure MdltArgs where
  tnx   : Nat
  tny   : Nat
  layer : Nat
  prevx : Word
  prevy : Word
  oc    : Nat
  n     : Nat
  float : Bool
  thr   : Nat
  ge    : Int
  deriving DecidableEq, Repr

def mdltArgs (e : Tab Word) : MdltArgs where
  tnx := field (stagedE e 16) 15 8
  tny := field (stagedE e 16) 7 0
  layer := field (stagedE e 17) 31 0
  prevx := stagedE e 18
  prevy := stagedE e 19
  oc := field (stagedE e 20) 51 48
  n := field (stagedE e 20) 47 32
  float := bit (stagedE e 20) 16
  thr := field (stagedE e 20) 15 0
  ge := signedOf 8 (field (stagedE e 21) 7 0)

def mdltReserved (e : Tab Word) : Bool :=
  field (stagedE e 16) 63 16 = 0 && field (stagedE e 17) 63 32 = 0 && field (stagedE e 20) 63 52 = 0
    && field (stagedE e 20) 31 17 = 0 && field (stagedE e 21) 63 8 = 0

def optAll {α : Type} (o : Option α) (f : α → Bool) : Bool := match o with | some a => f a | none => true
def optBoth {α : Type} (a b : Option α) (f : α → α → Bool) : Bool := optAll a fun x => optAll b (f x)

/-- Geometry of W, X and Y, as far as they are known (R234). -/
def mdltShape (w x y : Option TDesc) : Bool :=
  [w, x, y].all (fun t => optAll t fun d => d.rank = 2) && optBoth x w (fun a b => a.extent 0 = b.extent 0)
    && optBoth x y (fun a b => a.extent 1 = b.extent 1) && optBoth y w (fun a b => a.extent 0 = b.extent 1)
    && optAll w fun d => d.extent 0 % 32 = 0 && d.veraddr != 0

/-- Formats and ranges (R234). -/
def mdltFormats (g : MdltArgs) (w x y : Option TDesc) : Bool :=
  optAll x (fun d => [Ty.f32, .bf16, .i8].contains d.fmt && (d.fmt != .i8 || g.ge = 0))
    && optAll w (fun d => if g.float then d.fmt = .bf16 || d.fmt = .f16 else d.fmt = .i8 || d.fmt.isTxb)
    && optAll y (fun d => d.fmt = if g.float then .f32 else .i32)
    && g.n != 0 && -100 ≤ g.ge && g.ge ≤ 100

/-- The checks of R234 that the identifiers decide, then the addresses. -/
def mdltChk (e : Tab Word) (w x y : Option TDesc) : Chk :=
  let g := mdltArgs e
  let addr (v : Word) : Chk :=
    (Chk.need (isCanonical v) (trapAt 0x07 1 .mx v)).and (Chk.need (v.toNat % 64 = 0) (trapAt 0x07 6 .mx v))
  (Chk.need (mdltShape w x y) (trapOf 0x05 3 .mx)).and <|
  (Chk.need (mdltFormats g w x y) (trapOf 0x0C 0 .mx)).and <|
  (Chk.need (optAll w fun d => !d.fmt.isTxb || d.scaleOk 0 (d.extent 0)) (trapOf 0x06 0 .mx)).and <|
  (addr g.prevx).and (addr g.prevy)

/-- State of an identifier that an engine command names; a PENDING one waits in the engine (R161). -/
def State.tensorNamed (s : State) (c : Ctx) (sl : Slot) (tn : Nat) : Chk :=
  if c.pk.tns ≤ tn then trapOf 0x03 3 sl
  else
    match (c.tensor tn).st with
    | .unallocated | .bad => trapOf 0x05 1 sl
    | .pending => .ok
    | .bound =>
      let t := (c.tensor tn).desc
      (Chk.need (s.mantleOk c t) (trapOf 0x05 4 sl)).and
        (match t.handle with
          | some h => Chk.need ((c.handle h).st = .bound || (c.handle h).st = .pending) (trapOf 0x04 1 sl)
          | none => .ok)

def Ctx.boundDesc (c : Ctx) (tn : Nat) : Option TDesc := if (c.tensor tn).st = .bound then some (c.tensor tn).desc else none

/-- Elements of a tensor of rank 2, each named by its indices; a TXB tensor's by blocks. -/
def TDesc.allGroups (t : TDesc) : List (List Nat) :=
  (List.range (t.extent 1)).flatMap fun r => (List.range (t.extent 0 / t.copyStep)).map fun i => [i * t.copyStep, r]

/-- Bounds and alignment of a tensor that a bound handle backs, precise on the bundle (08 R169). -/
def TDesc.backedChk (t : TDesc) (c : Ctx) : Chk :=
  if t.handle.any fun h => (c.handle h).st = .bound then t.groupsChk c .mx t.allGroups else .ok

def mdltOwn (lent tw give : Nat) (a : After) (s : State) (key : Nat) (c : Ctx) : Chk :=
  let e := c.stage 16 21
  let g := mdltArgs e
  (Chk.need (mdltReserved e) (trapOf 0x0D 0 .mx)).and <|
  (Chk.need (lent < c.pk.lining) (trapOf 0x03 7 .mx)).and <|
  (tokensOwn c .mx give a).and <|
  (s.shmapsChk key c [tw, g.tnx, g.tny]).and <|
  (s.tensorNamed c .mx tw).and <| (s.tensorNamed c .mx g.tnx).and <| (s.tensorNamed c .mx g.tny).and <|
  (mdltChk e (c.boundDesc tw) (c.boundDesc g.tnx) (c.boundDesc g.tny)).and <|
  [tw, g.tnx, g.tny].foldr (fun tn (r : Chk) => (match c.boundDesc tn with | some t => TDesc.backedChk t c | none => .ok).and r) .ok

/-- Earlier MDLTs and LNCTLs of the context (R241, R243). -/
def State.liningDeps (s : State) (key : Nat) (c : Ctx) : List Nat :=
  ((s.ctxAccs key c).filter fun a => match a.op with
    | .mdlt .. | .lnctl .. => true
    | _ => false).map (·.id)

def State.tensorSide (s : State) (key : Nat) (c : Ctx) (tn : Nat) : CSide :=
  let t := c.tensor tn
  if t.st = .bound then .tens t.desc ((s.seen c).mantleOf t.desc) else .tpend tn (s.binderOf key c tn) (s.seen c).mantle

/-- MDLT (R233): the command waits in its engine for its tokens, for bindings, and for earlier Lining commands. -/
def mdltOp (lent tw give : Nat) (a : After) : SlotOp where
  own := mdltOwn lent tw give a
  need := matrixNeed
  effect := fun s key c =>
    let e := c.stage 16 21
    let g := mdltArgs e
    let tns := [tw, g.tnx, g.tny]
    let hs := tns.filterMap fun t => (c.tensor t).desc.handle
    (s.command key (some g.oc) give a (s.liningDeps key c ++ s.binders key c hs tns)
      (.mdlt lent (s.tensorSide key c tw) (s.tensorSide key c g.tnx) (s.tensorSide key c g.tny) e)).leaseCount key
def execMdlt (lent tw give : Nat) (a : After) (s : State) : Host.Outcome State Fault Refusal :=
  issueSlot (.mdlt lent tw give a) (mdltOp lent tw give a) s

/-! ## Elements in the engine -/

/-- Runs that follow one another are one. -/
def joinSpots : List Spot → List Spot
  | [] => []
  | p :: rest =>
    match p, joinSpots rest with
    | .mem a o n l, .mem b q m k :: more => if o = q && a + n = b then .mem a o (n + m) l :: more else p :: .mem b q m k :: more
    | .tile h a n, .tile k b m :: more => if h = k && a + n = b then .tile h a (n + m) :: more else p :: .tile k b m :: more
    | p, more => p :: more

/-- Elements k to k+n-1 of row r of a tensor of rank 2; a TXB tensor by whole blocks. -/
def TDesc.rowSpots (t : TDesc) (m : Option MEnt) (r k n : Nat) : List Spot :=
  joinSpots ((List.range (n / t.copyStep)).map fun i =>
    let el := t.elem m [k + i * t.copyStep, r]
    match t.handle with
    | some h => .tile h (handleOff el.addr) t.copyBytes
    | none => .mem el.addr el.owner t.copyBytes (if t.fmt.isTxb then 1 else t.copyBytes))

/-- An element on the grid of step 2^GE (R235). -/
def gridValue (t : Ty) (ge : Int) (x : Nat) : Int :=
  if t = .i8 then (if signedOf 8 x < -127 then -127 else signedOf 8 x)
  else
    match decodeF t x with
    | .nan _ => 0
    | .inf n => if n then -127 else 127
    | .fin n m e =>
      let k := Nat.min 127 (roundAt .nearest false m e ge).1
      if n then -(k : Int) else k

/-- A weight block: exact integers, or values (R237). -/
inductive WBlock where
  | ints (l : List Int)
  | vals (l : List FVal)

def weightBlock (float : Bool) (t : Ty) (data : Nat) (pair : Nat × Nat) : WBlock :=
  let xs := (List.range 32).map (packed t data)
  if float then .vals (xs.map (arrayValue t))
  else .ints (xs.map fun x => if t.isTxb then (txbInt t pair x).1 else signedOf 8 x)

/-- An output element from its groups in increasing order (R237; 07 R163). -/
def colSum (ge : Int) (acc : Option Nat) (gs : List (List Int × WBlock)) : Nat :=
  let ints := gs.filterMap fun p => match p.2 with
    | .ints w => some ((p.1.zipWith (· * ·) w).foldl (· + ·) 0)
    | .vals _ => none
  let sums := gs.filterMap fun p => match p.2 with
    | .ints _ => none
    | .vals w => some (groupSum (p.1.zipWith (fun a v => termMul (.fin (a < 0) a.natAbs ge) v) w)).1
  if sums.isEmpty then wrap 32 (ints.foldl (· + ·) ((acc.getD 0 : Nat) : Int)) else (addGroups acc sums).1

/-! ## MDLT in the engine (R236) -/

/-- What the engine reads before it decides. -/
structure MdltRun where
  w  : TDesc
  wm : Option MEnt
  x  : TDesc
  xm : Option MEnt
  y  : TDesc
  ym : Option MEnt

/-- A side whose identifier is bound; the completion of a binding puts the descriptor into the commands that wait for it (07 R161). -/
def CSide.resolved : CSide → Option (TDesc × Option MEnt)
  | .tens t m => some (t, m)
  | _ => none

/-- The bytes of several reads. -/
def State.readAll (s : State) (a : Acc) (c : Ctx) (l : List (List Spot)) : SRead :=
  l.foldr (fun p r => (s.readSpots a c p).append r) (.ok [] false none)

def wordRun (v : Word) (off n : Nat) : List Spot := [.mem (vaOf v + (off : Nat)) none n 1]

/-- Numbers of n bytes each in a byte string. -/
def chunks (n : Nat) : Nat → List Byte → List Nat
  | 0, _ => []
  | f + 1, l => if l.isEmpty then [] else numOf (l.take n) :: chunks n f (l.drop n)

/-- The quantised input: one list for each row. -/
def splitRows {α : Type} (k : Nat) : Nat → List α → List (List α)
  | 0, _ => []
  | f + 1, l => l.take k :: splitRows k f (l.drop k)

/-- Difference or input blocks of a row that are not zero. -/
def zeroBlock (l : List Int) : Bool := l.all (· = 0)

/-- The state of the entry for the configuration of a command. -/
def LEnt.fits (e : LEnt) (g : MdltArgs) (r : MdltRun) (ver : Nat) : Bool :=
  e.st = .valid && e.ver.toNat = ver && e.float = g.float && e.ge = g.ge && e.wfmt = r.w.fmt && e.m = r.x.extent 1
    && e.k = r.w.extent 0 && e.ncol = r.y.extent 0 && e.veraddr = r.w.veraddr && e.prevx = g.prevx && e.prevy = g.prevy
    && (!g.float || e.cnt + 1 < e.n)

/-- Spots of weight rows 32j to 32j+31 of column c, then of their pair (R158). -/
def MdltRun.block (r : MdltRun) (c j : Nat) : List Spot :=
  r.w.rowSpots r.wm c (32 * j) 32 ++ if r.w.fmt.isTxb then [.mem (r.w.pairAddr [32 * j, c]) none 2 1] else []

def decodeBlock (float : Bool) (t : Ty) (l : List Byte) : WBlock :=
  let n := 4 * t.bits
  weightBlock float t (numOf (l.take n)) (((l.drop n).headD 0).toNat, ((l.drop (n + 1)).headD 0).toNat)

/-- What a stage of a command comes to: it waits, it ends in a state, or it goes on. -/
inductive Stage (α : Type) where
  | wait
  | stop (s : State)
  | go (a : α)

def Stage.andThen {α : Type} (x : Stage α) (f : α → Option State) : Option State :=
  match x with
  | .wait => none
  | .stop s => some s
  | .go a => f a

/-- The entry of a run that stops becomes STALE; the token is produced (R242). -/
def State.mdltStop (s : State) (a : Acc) (node d : Nat) (entry : Option Nat) : State :=
  let s := match entry with
    | some i => (s.setLent d i { s.lent d i with st := .stale }).noteEntry node d i
    | none => s
  s.finishAcc a

/-- A fault after issue is reported at the DRAIN of the path of its part (R242). -/
def State.mdltFault (s : State) (a : Acc) (path : Option Path) (va : Int) : State := s.drainFault a path ⟨0x13, 3, .mx, pcOf va⟩

def State.mdltRead (s : State) (a : Acc) (c : Ctx) (d : Nat) (entry : Option Nat) (l : List (List Spot)) :
    Stage (State × List Byte) :=
  match s.readAll a c l with
  | .held => .wait
  | .poison => .stop ((s.finishAcc a).consumeError c.node)
  | .fault _ p va => .stop ((s.mdltFault a p va).mdltStop a c.node d entry)
  | .ok b bad lost =>
    let s := s.touchSpots a l.flatten
    if bad then .stop ((s.mdltFault a (some .win) 0).mdltStop a c.node d entry)
    else match lost with
      | some va => .stop (((s.log (.peerRefused 0 0)).mdltFault a (some .peer) va).mdltStop a c.node d entry)
      | none => .go (s, b)

/-- A place of a destination that a window handle backs. -/
def Ctx.windowSpot (c : Ctx) : Spot → Bool
  | .tile h .. => !c.isTile h
  | _ => false

/-- Such places leave as posted stores of their streams in the command's class, each of 64 bytes at most (09 R199). An MDLT's wait in the engine
until the allowance of their handle lets them go, as R145 says of the units of a copy (DEDUCED, log entry 65). -/
def State.postSpots (s : State) (a : Acc) (c : Ctx) (l : List (Spot × List Byte)) : State :=
  let units := l.flatMap fun p => match p.1 with
    | .tile h off _ => (List.range ((p.2.length + 63) / 64)).map fun i => (h, off + 64 * i, (p.2.drop (64 * i)).take 64)
    | _ => []
  let s := if units.isEmpty then s else s.irreversible a.who
  ((List.range units.length).zip units).foldl (fun s x =>
    let d := (c.handle x.2.1).desc
    s.sendStore a (some false) (x.1 + 1) x.2.1 (s.targetOf a.ctx c d) x.2.2.1 d.alw x.2.2.2) s

/-- The entry that a run has updated, or has begun to update, is noted (R246). -/
def State.noteRun (s : State) (node d : Nat) (entry : Option Nat) : State :=
  match entry with
  | some i => s.noteEntry node d i
  | none => s

/-- The writes of R236 in turn: those before a fault stand. -/
def State.mdltWrites (s : State) (a : Acc) (c : Ctx) (d : Nat) (entry : Option Nat) : List (List (Spot × List Byte)) → Stage State
  | [] => .go s
  | l :: rest =>
    match s.writeSpots a false (l.filter fun p => !c.windowSpot p.1) with
    | .held => .wait
    | .poison s => .stop (((if rest.length < 2 then s.noteRun c.node d entry else s).finishAcc a).consumeError c.node)
    | .bad s f => .stop (((faultsByPath (lowestFirst f)).foldl (fun s x => s.mdltFault a x.1 x.2.2) s).mdltStop a c.node d entry)
    | .done s => (s.postSpots a c (l.filter fun p => c.windowSpot p.1)).mdltWrites a c d entry rest

/-- The places of Y and of the rows of PREVX and PREVY (R228, R236). -/
def MdltRun.outputs (r : MdltRun) (g : MdltArgs) : List (List Spot) :=
  let m := r.x.extent 1
  let k := r.w.extent 0
  let n := r.y.extent 0
  [(List.range m).flatMap fun i => r.y.rowSpots r.ym i 0 n, wordRun g.prevy 0 (4 * m * n), wordRun g.prevx 0 (m * k)]

/-- The entry after a run (R236). -/
def LEnt.after (e : LEnt) (g : MdltArgs) (r : MdltRun) (delta : Bool) (ver : Nat) : LEnt :=
  if delta then { e with cnt := e.cnt + 1 }
  else { e with
    float := g.float, ge := g.ge, wfmt := r.w.fmt, m := r.x.extent 1, k := r.w.extent 0, ncol := r.y.extent 0
    veraddr := r.w.veraddr, prevx := g.prevx, prevy := g.prevy, n := g.n, thr := g.thr, cnt := 0
    ver := BitVec.ofNat 64 ver, st := if ver % 2 = 0 then .valid else .stale }

/-- The result rows: every group that is read counts in every row (R237; DEDUCED, log entry 19). -/
def mdltRows (g : MdltArgs) (rows : List (List Int)) (need : List Nat) (cols : List (List WBlock)) (prev : List (List Nat)) :
    List (List Nat) :=
  (List.range rows.length).map fun i =>
    let blocks := need.map fun j => ((rows.getD i []).drop (32 * j)).take 32
    (List.range cols.length).map fun c => colSum g.ge ((prev.getD i [])[c]?) (blocks.zip (cols.getD c []))

/-- What a run comes to: the bytes of Y and of PREVX, the path that it took, and the version that it read. -/
structure MdltOut where
  y     : List Byte
  q     : List Byte
  delta : Bool
  ver   : Nat
  deriving DecidableEq, Repr

def Stage.bind {α β : Type} (x : Stage α) (f : α → Stage β) : Stage β :=
  match x with
  | .wait => .wait
  | .stop s => .stop s
  | .go a => f a

/-- The reads and the arithmetic of R236, in one step: the version word is then read once. -/
def State.mdltCompute (s : State) (a : Acc) (c : Ctx) (d : Nat) (entry : Option Nat) (g : MdltArgs) (r : MdltRun) : Stage (State × MdltOut) :=
  let m := r.x.extent 1
  let k := r.w.extent 0
  let n := r.y.extent 0
  (s.mdltRead a c d entry [wordRun (canonical56 r.w.veraddr) 0 8]).bind fun (s, vb) =>
  let ver := numOf vb
  (s.mdltRead a c d entry ((List.range m).map fun i => r.x.rowSpots r.xm i 0 k)).bind fun (s, xb) =>
  let q := splitRows k m ((chunks (r.x.fmt.bits / 8) (m * k) xb).map (gridValue r.x.fmt g.ge))
  let e := (entry.map (s.lent d)).getD .empty
  let fits := entry.isSome && ver % 2 = 0 && e.fits g r ver
  (s.mdltRead a c d entry (if fits then [wordRun g.prevx 0 (m * k)] else [])).bind fun (s, pb) =>
  let p := splitRows k m (pb.map fun x => x.toInt)
  let diff := q.zipWith (fun x y => x.zipWith (· - ·) y) p
  let nzOf (j : Nat) : Nat := (diff.filter fun row => !zeroBlock ((row.drop (32 * j)).take 32)).length
  let groups := List.range (k / 32)
  let delta := fits && (groups.map nzOf).foldl (· + ·) 0 * 65536 ≤ e.thr * (m * k / 32)
  let need := if delta then groups.filter fun j => 0 < nzOf j else groups
  (s.mdltRead a c d entry ((List.range n).flatMap fun col => need.map fun j => r.block col j)).bind fun (s, wb) =>
  let size := 4 * r.w.fmt.bits + if r.w.fmt.isTxb then 2 else 0
  let cols := splitRows need.length n ((List.range (n * need.length)).map fun i =>
    decodeBlock g.float r.w.fmt ((wb.drop (i * size)).take size))
  (s.mdltRead a c d entry (if delta then [wordRun g.prevy 0 (4 * m * n)] else [])).bind fun (s, yb) =>
  let y := mdltRows g (if delta then diff else q) need cols (splitRows n m (chunks 4 (m * n) yb))
  .go (s, ⟨y.flatMap fun row => row.flatMap (bytesOf 4), q.flatMap fun row => row.map fun v => BitVec.ofInt 8 v, delta, ver⟩)

/-- What the twin's copy of the command would write (R247; 03 R66): it has its own bytes in its handles. -/
def State.mdltTwin (s : State) (a : Acc) (d : Nat) (entry : Option Nat) (g : MdltArgs) (r : MdltRun) : Option (Acc × Stage MdltOut) :=
  (s.twinAcc a).bind fun b => (s.accCtx b).map fun tc => (b, (s.mdltCompute b tc d entry g r).bind fun x => .go x.2)

/-- The writes and the entry's update; the token is produced once the writes have performed (R240). -/
def State.mdltCommit (s : State) (a : Acc) (c : Ctx) (d : Nat) (entry : Option Nat) (g : MdltArgs) (r : MdltRun) (o : MdltOut) : Option State :=
  (s.mdltWrites a c d entry ((r.outputs g).zipWith spotData [o.y, o.y, o.q])).andThen fun s =>
  let s := match entry with
    | some i => (s.setLent d i ((s.lent d i).after g r o.delta o.ver)).noteEntry c.node d i
    | none => s
  let at_ := entry.map fun i => (d, i)
  some (if s.sending a.id then s.markPosted a at_ else s.mdltEnd a g.layer at_)

/-- Another MDLT on an entry is not complete: its posted stores are on their way (R241). -/
def State.entryBusy (s : State) (a : Acc) (d : Nat) (entry : Option Nat) : Bool :=
  entry.any fun i => s.accs.any fun x => x.id != a.id && x.entry = some (d, i)

/-- R236 with everything bound. A pair whose twins would write different bytes has met a silent error (03 R67). -/
def State.mdltExec (s : State) (a : Acc) (c : Ctx) (lent : Nat) (g : MdltArgs) (r : MdltRun) : Option State :=
  let grp := s.liningGroup c.grp
  let d := ((s.group? grp).map (·.die)).getD 0
  let b := s.bindSlot grp lent g.layer c.tenant
  if s.entryBusy a d b.2 then none
  else
  (b.1.mdltCompute a c d b.2 g r).andThen fun (s, o) =>
    match b.1.mdltTwin a d b.2 g r with
    | none => s.mdltCommit a c d b.2 g r o
    | some (_, .wait) => none
    | some (_, .stop s) => some s
    | some (t, .go p) => if p = o then s.mdltCommit a c d b.2 g r o else some (b.1.silentError a t)

/-- The bytes of a handle-backed tensor lie in the handle as it stands (08 R169). -/
def TDesc.backedOk (t : TDesc) (c : Ctx) : Bool :=
  match t.handle with
  | some h => (t.groupsFault (c.handle h).desc.size t.allGroups).isNone
  | none => true

/-- MDLT_EXECUTE (R234, R236): what an identifier or a handle that was PENDING decides is checked now. For what was bound at issue the checks
were made there, and hold as they did. -/
def State.mdltRun (s : State) (a : Acc) (lent : Nat) (w x y : CSide) (e : Tab Word) : Option State :=
  match s.accCtx a with
  | none => some (s.finishAcc a)
  | some c =>
    let fits (v : TDesc × Option MEnt) : Bool := v.2.all (mantleFits c.tenant v.1) && v.1.backedOk c
    let fail := some ((s.drainFault a (some .hbm) ⟨0x13, 3, .mx, 0⟩).finishAcc a)
    match w.resolved, x.resolved, y.resolved with
    | some w, some x, some y =>
      if mdltChk e (some w.1) (some x.1) (some y.1) = .ok && fits w && fits x && fits y then
        s.mdltExec a c lent (mdltArgs e) ⟨w.1, w.2, x.1, x.2, y.1, y.2⟩
      else fail
    | _, _, _ => fail

/-- The step of an MDLT whose tokens are produced and whose writes are released, a pair's leader's for both twins (R240, R241, R247). -/
def State.mdltStep (s : State) (id : Nat) : Option State :=
  s.settled id fun s a => match a.op with
    | .mdlt lent w x y e =>
      if !s.complete a then none
      else if a.posted then (if s.sending id then none else some (s.mdltEnd a (mdltArgs e).layer a.entry))
      else if a.released && s.depsDone a then s.mdltRun a lent w x y e else none
    | _ => none

def execMdltExecute (id : Nat) (s : State) : Host.Outcome State Fault Refusal := .next ((s.mdltStep id).getD s)

/-! ## LNCTL (R243) -/

def lnctlOwn (fn lent : Nat) (_ : State) (_ : Nat) (c : Ctx) : Chk :=
  let e := c.readE 40
  (Chk.need (fn != 2 || (field e 63 48 = 0 && field e 31 16 = 0)) (trapOf 0x0D 0 .sy)).and <|
  (Chk.need (fn != 2 || field e 47 32 != 0) (trapOf 0x0C 0 .sy)).and <|
  Chk.need (fn = 1 || lent < c.pk.lining) (trapOf 0x0C 0 .sy)

def lnctlSlotOp (fn lent : Nat) : SlotOp where
  own := lnctlOwn fn lent
  need := noNeed
  effect := fun s key c => s.addAcc key none (s.liningDeps key c) (c.fenceDeps none) (.lnctl fn lent (c.readE 40))

/-- LNCTL.INVAL. -/
def lnctlInvalOp (lent : Nat) : SlotOp := lnctlSlotOp 0 lent
def execLnctlInval (lent : Nat) (s : State) : Host.Outcome State Fault Refusal := issueSlot (.lnctlInval lent) (lnctlInvalOp lent) s

/-- LNCTL.INVALALL. -/
def lnctlInvalallOp : SlotOp := lnctlSlotOp 1 0
def execLnctlInvalall (s : State) : Host.Outcome State Fault Refusal := issueSlot .lnctlInvalall lnctlInvalallOp s

/-- LNCTL.SETREF. -/
def lnctlSetrefOp (lent : Nat) : SlotOp := lnctlSlotOp 2 lent
def execLnctlSetref (lent : Nat) (s : State) : Host.Outcome State Fault Refusal := issueSlot (.lnctlSetref lent) (lnctlSetrefOp lent) s

/-- LNCTL takes effect when it is released. -/
def State.lnctlRun (s : State) (a : Acc) (fn lent : Nat) (e40 : Word) : State :=
  (match s.accCtx a with
    | none => s
    | some c => s.lnctlEffect c fn lent e40).finishAcc a

end Sys2Proof.Machine
end

