-- ==== Sys2Proof/Machine/Sync.lean ====
section
/-! DEFINITION. The synchronisation slot at issue (09 R196 to R209; 16 R314 to R317, R332, R334, R337; 17 R360 to R369; 18 R406, R407;
12 R251). -/

namespace Sys2Proof.Machine

/-! ## Words of the Buckles (09 R201) -/

def ATypeBytes : AType → Nat
  | .i64 | .n64 => 8
  | _ => 4

/-- The word that a Buckle operation names, or a copy that makes counter arrivals. -/
def AccOp.word? : AccOp → Option Word
  | .atom _ _ va .. | .red _ _ va .. | .arrive va | .count va .. => some va
  | .copy _ _ e _ _ _ _ => if stagedE e 7 = 0 then none else some (stagedE e 7)
  | _ => none

/-- Earlier operations of the context on the word: they perform in program order (R193). -/
def State.wordDeps (s : State) (key : Nat) (c : Ctx) (va : Word) : List Nat :=
  ((s.ctxAccs key c).filter fun a => match a.op.word? with
    | some v => v.toNat / 8 = va.toNat / 8
    | none => false).map (·.id)

/-- Canonical, then aligned (08 R181). -/
def wordAddr (v : Word) (align : Nat) : Chk :=
  (Chk.need (isCanonical v) (trapAt 0x07 1 .sy v)).and (Chk.need (v.toNat % align = 0) (trapAt 0x07 6 .sy v))

/-- A translation before issue: its faults are precise on the bundle (R314, R316, R360, R363, R406). -/
def xlatChk (va : Word) : XRes → Chk
  | .fault f => trapAt f.code f.detail .sy va
  | .nonres => trapAt 0x07 4 .sy va
  | _ => .ok

def State.wordChk (s : State) (key : Nat) (c : Ctx) (k : AKind) (va : Word) (n : Nat) : Chk :=
  (wordAddr va n).and (xlatChk va (s.locateWord (s.whoOf key c) k va n))

/-- The walk met poison: the node consumes the error in place of the instruction (14 R280). -/
def State.unlessPoison (s : State) (key : Nat) (c : Ctx) (k : AKind) (va : Word) (n : Nat) (f : State → State) : State :=
  match (s.seen c).locateWord (s.whoOf key c) k va n with
  | .poison _ => s.consumeError c.node
  | _ => f (s.tlbFill (s.whoOf key c) (va56 (vaOf va)))

/-- A Buckle operation is outstanding. -/
def State.buckleOp (s : State) (key : Nat) (c : Ctx) (cls : Option Nat) (strict : List Nat) (va : Word) (op : AccOp) : State :=
  s.addAcc key cls (s.classDeps key c cls ++ s.wordDeps key c va) (strict ++ if cls.isSome then c.fenceDeps cls else []) op

/-- ATOM (16 R316, R317). -/
def atomOp (op : AOp) (oc lsel rd : Nat) (ty : AType) : SlotOp where
  own := fun s key c => s.wordChk key c .atomic (c.readE 40) (ATypeBytes ty)
  need := fun _ _ _ => { Need.none with resv := rd != 0, fence := some oc }
  effect := fun s key c =>
    let va := c.readE 40
    s.unlessPoison key c .atomic va (ATypeBytes ty) fun s =>
      let uid := s.nextId
      let p : Pend := ⟨uid, !c.tm, c.time, c.time + BitVec.ofNat 48 (c.due lsel), .sy, c.pc, some (.scalar rd), none, 0, none, none,
        none, [], none, c.issued, none, true⟩
      let s := if rd = 0 then s else { s with nextId := uid + 1 }.mapCtx key fun c => { c with pend := c.pend ++ [p] }
      s.buckleOp key c (some oc) [] va (.atom op ty va (c.readE 41) (c.readE 42) (if rd = 0 then none else some uid))
def execAtom (op : AOp) (oc lsel rd : Nat) (ty : AType) (s : State) : Host.Outcome State Fault Refusal :=
  issueSlot (.atom op oc lsel rd ty) (atomOp op oc lsel rd ty) s

/-- RED (17 R362, R363). -/
def redOp (op : AOp) (oc : Nat) (ty : AType) : SlotOp where
  own := fun s key c =>
    let e := c.readE 42
    (Chk.need (field e 63 32 != 0 && field e 31 0 < field e 63 32) (trapOf 0x0C 0 .sy)).and
      (s.wordChk key c .sync (c.readE 40) (ATypeBytes ty))
  need := fun _ _ _ => { Need.none with fence := some oc }
  effect := fun s key c =>
    let va := c.readE 40
    s.unlessPoison key c .sync va (ATypeBytes ty) fun s =>
      s.buckleOp key c (some oc) [] va (.red op ty va (c.readE 41) (field (c.readE 42) 63 32) (field (c.readE 42) 31 0))
def execRed (op : AOp) (oc : Nat) (ty : AType) (s : State) : Host.Outcome State Fault Refusal :=
  issueSlot (.red op oc ty) (redOp op oc ty) s

/-- ARRIVE (16 R314, R315): with REL it follows every earlier access of its classes, acknowledgements included (R208). -/
def arriveOp (rel : Bool) (classes : BitVec 16) : SlotOp where
  own := fun s key c => s.wordChk key c .sync (c.readE 40) 8
  need := noNeed
  effect := fun s key c =>
    let va := c.readE 40
    s.unlessPoison key c .sync va 8 fun s =>
      s.buckleOp key c none (if rel then s.maskDeps key c classes else []) va (.arrive va)
def execArrive (rel : Bool) (classes : BitVec 16) (s : State) : Host.Outcome State Fault Refusal :=
  issueSlot (.arrive rel classes) (arriveOp rel classes) s

/-! ## Waits (18 R406, R407) -/

/-- What a wait finds in its word. -/
inductive Poll where
  | done (b : Bool)
  | poison
  | refused
  deriving DecidableEq, Repr

/-- Phase e41 has completed (R205). -/
def phaseDone (word : Nat) (e41 : Word) : Bool :=
  let d := (word % 2 ^ 32 + 2 ^ 32 - field e41 31 0) % 2 ^ 32
  1 ≤ d && d ≤ 2 ^ 31

def State.poll (s : State) (key : Nat) (c : Ctx) (test : Nat → Bool) : Poll :=
  match s.locateWord (s.whoOf key c) .waitRead (c.readE 40) 8 with
  | .ok l =>
    if s.refused (s.whoOf key c) 8 (.ok l) then .refused
    else if s.locPoisoned l 8 then .poison else .done (test (s.readWord l 8))
  | .poison _ => .poison
  | _ => .done false

/-- The context's earlier operations on the word have performed, so that a wait may read it (R193). -/
def State.wordReady (s : State) (key : Nat) (c : Ctx) (va : Word) : Bool := (s.wordDeps key c va).all fun d => !s.unperformed d

/-- A wait's read of its word at the home Buckle (14 R279). -/
def State.meetWait (s : State) (key : Nat) (c : Ctx) : State :=
  match s.locateWord (s.whoOf key c) .waitRead (c.readE 40) 8 with
  | .ok (.phys pa) => (s.meet pa 8).meetWord pa
  | _ => s

/-- A wait issues: it has read its word now, unless its condition held before or its leader reads for it. -/
def State.waitEnds (s : State) (key : Nat) (c : Ctx) : State :=
  (if c.waitDone || (s.leaderOf c).isSome then s else s.meetWait key c).mapCtx key fun c => { c with waitDone := false }

/-- A wait's checks: the word's address, then the condition at its home, once until it has held. The leader of a pair reads the word for both
twins: its follower comes to the bundle when the condition has held (03 R66). -/
def waitOwn (test : Word → Nat → Bool) (s : State) (key : Nat) (c : Ctx) : Chk :=
  (s.wordChk key c .waitRead (c.readE 40) 8).and
    (Chk.need (c.waitDone || (s.leaderOf c).isSome || (s.wordReady key c (c.readE 40) && s.poll key c (test (c.readE 41)) = .done true)) (.wait 7))

/-- WAITPH. Accesses after an acquiring wait issue after it, so that they perform after it (R208). -/
def waitphOp (_acq : Bool) (_classes : BitVec 16) : SlotOp where
  own := fun s key c => (Chk.need (field (c.readE 41) 63 32 = 0) (trapOf 0x0D 0 .sy)).and (waitOwn (fun e w => phaseDone w e) s key c)
  need := noNeed
  effect := State.waitEnds
def execWaitph (acq : Bool) (classes : BitVec 16) (s : State) : Host.Outcome State Fault Refusal :=
  issueSlot (.waitph acq classes) (waitphOp acq classes) s

/-- WAITCNT. -/
def waitcntOp (_acq : Bool) (_classes : BitVec 16) : SlotOp where
  own := waitOwn fun e w => e.toNat ≤ w
  need := noNeed
  effect := State.waitEnds
def execWaitcnt (acq : Bool) (classes : BitVec 16) (s : State) : Host.Outcome State Fault Refusal :=
  issueSlot (.waitcnt acq classes) (waitcntOp acq classes) s

/-! ## FENCE (09 R196) -/

/-- FENCE: it never stalls; the accesses before it in its classes hold back those after it. Every scope is met by the one
order in which accesses perform at their homes (DEDUCED, log entry 20). -/
def fenceOp (_scope : Scope) (classes : BitVec 16) : SlotOp where
  own := noCheck
  need := noNeed
  effect := fun s key c =>
    let e := s.maskDeps key c classes
    s.mapCtx key fun c =>
      let live := c.fences.filter fun f => f.before.any s.outstanding
      { c with fences := if e.isEmpty then live else live ++ [⟨c.progNo, classes, e⟩] }
def execFence (scope : Scope) (classes : BitVec 16) (s : State) : Host.Outcome State Fault Refusal :=
  issueSlot (.fence scope classes) (fenceOp scope classes) s

/-! ## DRAIN (09 R198; 16 R332) -/

/-- The same of a place in a handle, which may be a window or still PENDING. -/
def State.placeReaches (s : State) (w : Who) (c : Ctx) (p : Path) (x : Spot) : Bool :=
  match x with
  | .tile h .. => if (c.handle h).st = .pending then p = .tile || p = .win else if c.isTile h then p = .tile else p = .win
  | x => s.spotReaches w p x

/-- The destination of a copy, as far as it is known, with its version word (11 R232). A length that is not known yet may reach any memory. -/
def State.sideReaches (s : State) (a : Acc) (p : Path) (src dst : CSide) (e : Tab Word) (late : Bool) : Bool :=
  let memory := p != .win && p != .tile
  match dst, copySize src dst e with
  | .hnd .., _ => p = .tile || (late && p = .win)
  | .win .., _ => p = .win
  | .tpend .., _ | .tbad, _ => true
  | _, none => memory
  | d, some n => (d.spots e 0 n).any (s.spotReaches a.who p) || (d.version != 0 && s.runReaches a.who p none (d.version : Nat) 8)

/-- Whether an outstanding access writes, or could write, a location on the path. -/
def State.accReaches (s : State) (p : Path) (a : Acc) : Bool :=
  match a.op with
  | .store ps _ ver => (ps.any fun x => s.runReaches a.who p x.owner x.va x.data.length) || (ver != 0 && s.runReaches a.who p none (ver : Nat) 8)
  | .frame ps _ _ => ps.any fun x => s.runReaches a.who p x.owner x.va x.data.length
  | .bump ver _ => s.runReaches a.who p none (ver : Nat) 8
  | .winStore .. => p = .win
  | .writeBack h _ =>
    match s.accCtx a with
    | some c => ((c.handle h).st = .pending && p != .tile)
        || (c.dirtyBytes a.after h).any fun x => s.runReaches a.who p none (vaOf (c.handle h).desc.back + (x.1 : Nat)) 1
    | none => false
  | .atom _ ty va .. | .red _ ty va .. => s.runReaches a.who p none (vaOf va) (ATypeBytes ty)
  | .count va _ path => path = some p || s.runReaches a.who p none (vaOf va) 8
  | .pagereq _ _ _ rec _ => s.runReaches a.who p none (vaOf rec) 32
  | .copy src dst e late _ _ _ => s.sideReaches a p src dst e late
  | .cpfill .. => p = .tile
  | .mdlt _ w x y e =>
    match s.accCtx a with
    | none => false
    | some c =>
      match w.resolved, x.resolved, y.resolved with
      | some w, some x, some y =>
        ((⟨w.1, w.2, x.1, x.2, y.1, y.2⟩ : MdltRun).outputs (mdltArgs e)).any fun l => l.any (s.placeReaches a.who c p)
      | _, _, _ => true
  | .shoot .. | .shmap .. | .bindHandle .. | .bindTensor .. => p = .hbm
  | _ => false

/-- Something that the DRAIN covers is not complete. -/
def State.drainWaits (s : State) (key : Nat) (c : Ctx) (p : Path) : Bool := (s.ctxAccs key c).any (s.accReaches p)

/-- Data that CPFILL has read goes to the bytes that nothing has written, and its granules are FILLED (08 R170). -/
def Handle.fillGranule (h : Handle) (g : Nat) (data : List Byte) : Handle :=
  let put := ((List.range data.length).zip data).filter fun x => 4096 * g + x.1 < h.desc.size && !h.written.read false (4096 * g + x.1)
  { put.foldl (fun h x => { h with bytes := h.bytes.write 0 (4096 * g + x.1) x.2 }) h with filled := h.filled.write false g true }

/-- A granule that is FILLED already takes nothing more (09 R192). -/
def Handle.takeAhead (h : Handle) : Handle :=
  { h.ahead.foldl (fun h x => if h.granFilled x.1 then h else h.fillGranule x.1 x.2) h with ahead := [] }

def Ctx.takeAhead (c : Ctx) : Ctx := c.handles.foldl (fun c p => if p.2.ahead.isEmpty then c else c.setHandle p.1 p.2.takeAhead) c

/-- DRAIN: complete once nothing it covers is left; it then reports the earliest fault on its path. -/
def drainOp (p : Path) : SlotOp where
  own := fun s key c =>
    (Chk.need (c.waitDone || !s.drainWaits key c p) (.wait 6)).and
      (match c.report p with
        | some f => .trap { f.cause with slot := .sy } 0
        | none => .ok)
  need := noNeed
  effect := fun s key _ => s.mapCtx key fun c => { if p = .tile then c.takeAhead else c with waitDone := false }
def execDrain (p : Path) (s : State) : Host.Outcome State Fault Refusal := issueSlot (.drain p) (drainOp p) s

/-! ## Requests to other agents -/

/-- Whether an access or command writes. -/
def AccOp.writes : AccOp → Bool
  | .load .. | .winLoad .. | .fill .. | .mwld .. | .launch .. | .signal _ | .lnctl .. | .cpfill .. | .bindHandle .. | .bindTensor .. => false
  | _ => true

/-- Earlier writes of the context, in every class (R338, R368, R369). -/
def State.writeDeps (s : State) (key : Nat) (c : Ctx) : List Nat := ((s.ctxAccs key c).filter fun a => a.op.writes).map (·.id)

/-- PAGEREQ (17 R360, R361). -/
def pagereqOp : SlotOp where
  own := fun s key c =>
    let e41 := c.readE 41
    (Chk.need (field e41 63 40 = 0 && field e41 31 24 = 0) (trapOf 0x0D 0 .sy)).and <|
    (Chk.need (field e41 23 0 != 0) (trapOf 0x0C 0 .sy)).and <|
    (wordAddr (c.readE 40) 0x8000).and <| (wordAddr (c.readE 42) 32).and <|
    xlatChk (c.readE 42) (s.locateWord (s.whoOf key c) .store (c.readE 42) 32)
  need := noNeed
  effect := fun s key c =>
    s.unlessPoison key c .store (c.readE 42) 32 fun s =>
      s.addAcc key (some 0) (s.writeDeps key c ++ s.classDeps key c (some 0)) (c.fenceDeps (some 0))
        (.pagereq (c.readE 40) (BitVec.ofNat 64 (field (c.readE 41) 23 0)) (c.readE 43) (c.readE 42) (field (c.readE 41) 39 32))
def execPagereq (s : State) : Host.Outcome State Fault Refusal := issueSlot .pagereq pagereqOp s

/-- LAUNCH (16 R337, R338). -/
def launchOp : SlotOp where
  own := fun _ _ c => Chk.need (field (c.readE 40) 63 14 = 0) (trapOf 0x0D 0 .sy)
  need := noNeed
  effect := fun s key c =>
    s.addAcc key none (s.writeDeps key c) [] (.launch (field (c.readE 40) 13 0) [c.readE 41, c.readE 42, c.readE 43, c.readE 44])
def execLaunch (s : State) : Host.Outcome State Fault Refusal := issueSlot .launch launchOp s

/-- SIGNAL (17 R369). -/
def signalOp (v : Nat) : SlotOp where
  own := noCheck
  need := noNeed
  effect := fun s key c => s.addAcc key none (s.writeDeps key c) [] (.signal v)
def execSignal (v : Nat) (s : State) : Host.Outcome State Fault Refusal := issueSlot (.signal v) (signalOp v) s

/-- SHOOT (17 R367, R368). -/
def shootOwn (k : ShootKind) (_ : State) (_ : Nat) (c : Ctx) : Chk :=
  match k with
  | .tenant => .ok
  | .page => Chk.need (isCanonical (c.readE 40)) (trapAt 0x07 1 .sy (c.readE 40))
  | .range =>
    (Chk.need (field (c.readE 41) 63 24 = 0) (trapOf 0x0D 0 .sy)).and <|
    (Chk.need (field (c.readE 41) 23 0 != 0) (trapOf 0x0C 0 .sy)).and (wordAddr (c.readE 40) 0x8000)

def shootOp (k : ShootKind) : SlotOp where
  own := shootOwn k
  need := noNeed
  effect := fun s key c => s.addAcc key none (s.writeDeps key c) [] (.shoot k (c.readE 40) (c.readE 41))
def execShoot (k : ShootKind) (s : State) : Host.Outcome State Fault Refusal := issueSlot (.shoot k) (shootOp k) s

/-- SHMAP (12 R251): ordered after every earlier access that has a class, and after every fence in force. -/
def shmapOp : SlotOp where
  own := fun _ _ c => Chk.need (field (c.readE 41) 63 12 = 0) (trapOf 0x0D 0 .sy)
  need := noNeed
  effect := fun s key c =>
    let earlier := ((s.ctxAccs key c).filter fun a => (a.cls.isSome && !a.op.isWinStore) || a.op.isShmap).map (·.id)
    s.addAcc key none earlier (c.fences.flatMap (·.before)) (.shmap (field (c.readE 41) 11 0) (c.readE 40))
def execShmap (s : State) : Host.Outcome State Fault Refusal := issueSlot .shmap shmapOp s

end Sys2Proof.Machine
end

