-- ==== Sys2Proof/Machine/Landing.lean ====
section
/-! DEFINITION. Results landing (02 R27, R28, R33, R34): fixed latencies and replies at their due cycles, the flags and
floating-point traps that they raise (07 R153, R154), and messages sent (02 R38). -/

namespace Sys2Proof.Machine

/-! ## Fetch (05 R91, R114; 08 R180, R182) -/

/-- The bundle at PC, or why it cannot be read. -/
inductive Fetched where
  | ok (w : Nat)
  | fault (f : AFault)
  | poison
  deriving DecidableEq, Repr

/-- A fetch reads memory as it stands, so that of a bundle whose text is being written it is never an old copy (R129 leaves that open: DESIGN
CHOICE, log entry 58). A PEER page whose package refuses the tenant fails as R180's ownership check does (15 R302; DEDUCED, log entry 62). A
pair's follower meets what its leader met (03 R66). -/
def State.fetch (s : State) (key : Nat) (c : Ctx) : Fetched :=
  let m := s.seen c
  match m.translate (s.whoOf key c) .fetch false (vaOf c.pc) 64 with
  | .ok l => if m.locPoisoned l 64 then .poison else if m.peerRefuses c.tenant l 64 then .fault faultOwner else .ok (numOf (m.readLoc l 64))
  | .fault f => .fault f
  | .nonres => .fault faultNonres
  | .poison _ => .poison
  | .held => .poison

/-- A fetch reads its bundle's line, and a miss the table entries of its walk (14 R279, R283). -/
def State.touchFetch (s : State) (key : Nat) (c : Ctx) : State :=
  let w := s.whoOf key c
  let s := if vaValid (vaOf c.pc) 64 then s.meetWalk w (va56 (vaOf c.pc)) else s
  match (s.seen c).translate w .fetch false (vaOf c.pc) 64 with
  | .ok (.phys pa) => s.meet pa 64
  | _ => s

/-- The instructions of the bundle at PC, apart from checks that depend on CTL.ACCT; none where it does not decode. -/
def State.bundleInstrs (s : State) (key : Nat) (c : Ctx) : List Instr :=
  match s.fetch key c with
  | .ok w => match decodeWith (fun _ => none) w with
    | .ok b => b.hdr.instrs ++ b.slots.map (·.2)
    | .error _ => []
  | _ => []

/-! ## What lands -/

/-- A fixed-latency result or a reply. -/
inductive Item where
  | fixed (f : Inflight)
  | var (p : Pend) (r : Arrived)
  deriving DecidableEq, Repr

def Item.land : Item → Lc
  | .fixed f => f.land
  | .var p _ => p.due

/-- Place among the results of one lc: control writes first, then issue lc, then slot (R28, R34; log entry 10). -/
def Item.key : Item → Nat × Lc × Nat × Nat
  | .fixed f => (if f.act.kind = 15 then 0 else 1, f.issue, slotCode f.slot, f.uid)
  | .var p _ => (1, p.issue, slotCode p.slot, p.uid)

def Item.before (a b : Item) : Bool :=
  let x := a.key
  let y := b.key
  if x.1 != y.1 then x.1 < y.1
  else if x.2.1 != y.2.1 then lcLt x.2.1 y.2.1
  else if x.2.2.1 != y.2.2.1 then x.2.2.1 < y.2.2.1
  else x.2.2.2 < y.2.2.2

/-- Replies that are here, of results counted on the counter in use. -/
def Ctx.arrived (c : Ctx) : List Item :=
  c.pend.filterMap fun p => if p.prog != c.tm then p.reply.map fun r => .var p r else none

/-- Everything that may land at or before the context's cycle; after EXIT, all that is in flight (16 R333). -/
def Ctx.dueItems (c : Ctx) : List Item :=
  if c.status = .exited then c.active.map Item.fixed
  else (c.active.map Item.fixed ++ c.arrived).filter fun i => lcLe i.land c.time

def earliestLc (l : List Lc) : Option Lc :=
  l.foldl (fun m x => match m with
    | none => some x
    | some y => if lcLt x y then some x else some y) none

/-- The first cycle at which something lands. -/
def Ctx.nextLanding (c : Ctx) : Option Lc := earliestLc (c.dueItems.map Item.land)

/-- Results due whose replies are not here (R33). -/
def Ctx.overdue (c : Ctx) (t : Lc) : List Pend := c.pend.filter fun p => p.prog != c.tm && p.reply.isNone && lcLe p.due t

/-- R33's test for the results that land at a cycle, of fixed or variable latency: one that shares a destination with an overdue result waits
for its reply, and what lands after it waits with it. -/
def Ctx.landingBlocked (c : Ctx) (t : Lc) : Bool :=
  (c.overdue t).any fun p => (c.active.any fun f => f.land = t && p.sharesWith f)
    || c.pend.any fun q => q.uid != p.uid && q.prog != c.tm && lcLe p.due q.due && lcLe q.due t && p.shares q

/-- R33's test of the bundle at the context's cycle; an MWLD that is late blocks every bundle (10 R217). -/
def State.bundleBlocked (s : State) (key : Nat) (c : Ctx) : Bool :=
  let l := c.overdue c.time
  !l.isEmpty && (c.landingBlocked c.time || l.any (·.wb.isSome) || (s.bundleInstrs key c).any fun i => l.any fun p => p.meets c i)

/-- A store into a TILE handle waits at its landing for the first addition to its identifier's version word (11 R232; DEDUCED, log entry 66). -/
def State.bumpBlocked (s : State) (c : Ctx) (t : Lc) : Bool :=
  c.active.any fun f => f.land = t && s.awaitsBump f.uid

/-- Whether the results of a cycle may land now. -/
def State.mayLand (s : State) (key : Nat) (c : Ctx) (t : Lc) : Bool :=
  !s.bumpBlocked c t && (c.status = .exited
    || ((c.status = .running || c.status = .trap) && !c.landingBlocked t && (t != c.time || c.rte.isSome || !s.bundleBlocked key c)))

/-! ## Flags (07 R153, R154) -/

/-- Flags that a result raised: its slot, bundle and bundle count. -/
structure Raised where
  slot  : Slot
  pc    : Word
  num   : Nat
  flags : BitVec 5

/-- The flags of one cycle one by one: by slot, and within a slot NV, DZ, OF, UF, NX over all of its results (06 R143). Where two results
of one slot raise the same flag, the earlier issued comes first, so that CTL.FER and the trap name its bundle: the rules do not say (DESIGN
CHOICE, log entry 58). -/
def flagOrder (l : List Raised) : List Raised :=
  sortBy (fun a b => slotCode a.slot < slotCode b.slot || (slotCode a.slot = slotCode b.slot && b.flags.toNat < a.flags.toNat)) <|
    l.flatMap fun r => ([4, 3, 2, 1, 0].filter (bit r.flags)).map fun k => { r with flags := BitVec.ofNat 5 (2 ^ k) }

/-- The flags of one cycle; the trap is the first enabled one, and only the first cycle's is kept. -/
def Ctx.raiseAll (c : Ctx) (l : List Raised) : Ctx :=
  let l := flagOrder l
  let c := l.foldl (fun c r => c.raiseFlags r.slot r.pc r.flags) c
  match l.findSome? fun r => (firstFlag (c.enabledFlags r.flags)).map fun k => (r, k) with
  | none => c
  | some (r, k) =>
    if c.landed.any fun t => t.cause.code = 0x11 then c
    else { c with landed := c.landed ++ [⟨⟨0x11, k, r.slot, 0⟩, 2, r.pc, 0, r.num⟩] }

/-! ## One result -/

/-- A message leaves the send port (02 R38); the handler's carry the frozen count (13 R267). -/
def State.sendMessage (s : State) (key q : Nat) (f : Inflight) : State :=
  match s.ctx? key with
  | none => s
  | some c =>
    match c.sendChan q with
    | none => s
    | some ch =>
      let p := c.port q
      let m : Msg := ⟨f.value, f.mask, if c.tm then c.lcc else f.land, p.seq⟩
      let s := s.setCtx key { c with ports := c.ports.write .empty q { p with seq := p.seq + 1 } }
      { s with flights := s.flights ++ [⟨s.nextId, key, c.grp, ch.rdx, ch.rdy, ch.rhead, false, s.clock, m⟩], nextId := s.nextId + 1 }

/-- A mask register takes the bits that a result writes. -/
def mixMask (m v old : Mask) : Mask := (old &&& ~~~m) ||| (v &&& m)

/-- The effect of a result on its context. -/
def Ctx.landIn (c : Ctx) (f : Inflight) : Ctx :=
  let c := match f.act with
    | .scalar d => c.writeS d (f.value.setWidth 64)
    | .row d w => c.writeRow d (mixRow w f.mask f.value (c.readRow d))
    | .mask d => c.writeM d (mixMask f.mask (f.value.setWidth 512) (c.readM d))
    | .hbytes .. | .tstore .. => c.landStore f
    | .spill i =>
      if c.tm then { c with scratch := c.scratch.write 0 i (f.value.setWidth 64) } else { c with spill := c.spill.write 0 i (f.value.setWidth 64) }
    | .mx d p => c.writeRow d (p.finish (c.readRow d)).1
    | .macz d n => (List.range n).foldl (fun c i => c.writeRow (d + i) 0) c
    | .stage e => c.writeE e (f.value.setWidth 64)
    | .ctl i => c.writeCtl i (f.value.setWidth 64)
    | .flgclr sets => c.clearFlags sets
    | .unfold => { c with unf := some (unfoldLanding f.value) }
    | .port _ | .latchOnly => c
  match f.latch with
  | some b => c.writeB b f.value
  | none => c

/-- Flags of a result: those found at issue and, for a push, those of its last additions. -/
def Inflight.allFlags (f : Inflight) (c : Ctx) : BitVec 5 :=
  match f.act with
  | .mx d p => f.flags ||| (p.finish (c.readRow d)).2
  | _ => f.flags

def State.landFixed (s : State) (key : Nat) (f : Inflight) : State × List Raised :=
  match s.ctx? key with
  | none => (s, [])
  | some c =>
    let fl := f.allFlags c
    let s := s.correctUnits key f.tears
    let c := (s.ctx? key).getD c
    let s := s.setCtx key { (c.landIn f).cleanUnits (fun u => f.share u = 64) with inflight := c.inflight.filter fun x => x.uid != f.uid }
    let s := match f.act with
      | .port q => s.sendMessage key q f
      | _ => s
    (if f.torn c then s.consumeError c.node else s, if fl = 0 then [] else [⟨f.slot, f.pc, f.num, fl⟩])

/-- Units of a handle's granules of which no byte is written: a fill writes them whole. -/
def Handle.freshUnit (v : Handle) (gs : List Nat) (u : Nat) : Bool :=
  gs.contains (u / 64) && (List.range 64).all fun i => !v.written.read false (64 * u + i)

/-- The granules that a load waited for take their fills' data (08 R170). -/
def Ctx.takeFills (c : Ctx) (p : Pend) : Ctx :=
  match p.gran with
  | none => c
  | some (h, gs) =>
    let hd := p.fills.foldl (fun (v : Handle) f => match f.2.2 with
      | some b => if gs.contains f.2.1 && !v.granFilled f.2.1 && !b.isEmpty then v.fillGranule f.2.1 b else v
      | none => v) (c.handle h)
    (c.setHandle h { hd with fills := hd.fills.filter fun x => !p.fills.any fun f => f.1 = x.1 }).cleanUnits fun b => match b with
      | .handle k u => k = h && (c.handle h).freshUnit (gs.filter fun g => !(c.handle h).granFilled g) u
      | _ => false

/-- What a reply writes to its register, as a result. -/
def Pend.result (p : Pend) (r : Arrived) : Inflight :=
  ⟨p.uid, p.prog, p.issue, p.due, p.slot, p.pc, p.act.getD .latchOnly, p.latch, p.mask, r.value, 0, p.num⟩

/-- A unit of a weight buffer. -/
def CUnit.ofBuffer (b : Nat) : CUnit → Bool
  | .weights k _ | .scales k _ => k = b
  | _ => false

/-- A reply is applied at its due cycle (R33); an MWLD brings its buffer, or its fault (10 R217). -/
def Ctx.takeReply (c : Ctx) (p : Pend) (r : Arrived) : Ctx :=
  let c := { c.takeFills p with pend := c.pend.filter fun x => x.uid != p.uid }
  let c := match p.act with
    | some (.scalar d) => c.writeS d (r.value.setWidth 64)
    | some (.row d w) => c.writeRow d (mixRow w p.mask r.value (c.readRow d))
    | _ => c
  let c := match p.latch with
    | some b => c.writeB b r.value
    | none => c
  let c := match p.mres with
    | some m => c.writeM m r.mres
    | none => c
  match p.wb, p.cause, r.wbuf with
  | some _, some f, _ => { c with landed := c.landed ++ [⟨f, 2, p.pc, 0, p.num⟩] }
  | some b, none, some w => (c.setWbuf b w).cleanUnits (CUnit.ofBuffer b)
  | _, _, _ => c

def State.landItem (s : State) (key : Nat) : Item → State × List Raised
  | .fixed f => s.landFixed key f
  | .var p r =>
    match s.ctx? key with
    | none => (s, [])
    | some c =>
      let f := p.result r
      let s := s.correctUnits key f.tears
      let c := (s.ctx? key).getD c
      let s := s.setCtx key ((c.takeReply p r).cleanUnits fun u => f.share u = 64)
      (if r.poison || f.torn c then s.consumeError c.node else s, [])

/-- Everything that lands at the first cycle, in order; none where nothing does or R33 blocks it. -/
def State.land (s : State) (key : Nat) : Option State :=
  match s.ctx? key with
  | none => none
  | some c =>
    match c.nextLanding with
    | none => none
    | some t =>
      if !s.mayLand key c t then none
      else
        let r := (sortBy Item.before (c.dueItems.filter fun i => i.land = t)).foldl
          (fun (a : State × List Raised) i => let b := a.1.landItem key i; (b.1, a.2 ++ b.2)) (s, [])
        some (r.1.mapCtx key fun c => c.raiseAll r.2)

/-- RESULT_LANDS (R27). -/
def execResultLands (key : Nat) (s : State) : Host.Outcome State Fault Refusal := .next ((s.land key).getD s)

end Sys2Proof.Machine
end

