-- ==== Sys2Proof/Machine/Channel.lean ====
section
/-! DEFINITION. Channel messages between a send port and a skid buffer (02 R37 to R40). -/

namespace Sys2Proof.Machine

/-- Two messages of one channel: a receive queue head has one channel. -/
def Flight.sameChannel (a b : Flight) : Bool := a.grp = b.grp && a.dx = b.dx && a.dy = b.dy && a.head = b.head

def State.flight? (s : State) (id : Nat) : Option Flight := s.flights.find? fun f => f.id = id

/-- MESSAGE_DEPART: the message leaves after the one before it on its channel; the owned wheel slot that it takes is the
departure cycle that stamp and binding fix (`departure`, R38). When that is in wall time is open. -/
def State.departStep (s : State) (id : Nat) : Option State :=
  match s.flight? id with
  | none => none
  | some f =>
    if f.departed || (s.flights.any fun g => g.id < id && g.sameChannel f && !g.departed) then none
    else some { s with flights := s.flights.map fun g => if g.id = id then { g with departed := true } else g }

def execMessageDepart (id : Nat) (s : State) : Host.Outcome State Fault Refusal := .next ((s.departStep id).getD s)

/-- MESSAGE_ARRIVE: the message enters the skid buffer of its head, in channel order, while the group is placed (R40). -/
def State.arriveStep (s : State) (id : Nat) : Option State :=
  match s.flight? id with
  | none => none
  | some f =>
    match s.groupKey f.grp f.dx f.dy with
    | none => none
    | some key =>
      if !f.departed || (s.flights.any fun g => g.id < id && g.sameChannel f) then none
      else
        let s := { s with flights := s.flights.filter fun g => g.id != id }
        some (s.mapSeen key fun c =>
          let h := c.head f.head
          { c with heads := c.heads.write .empty f.head { h with skid := h.skid ++ [f.msg] } })

def execMessageArrive (id : Nat) (s : State) : Host.Outcome State Fault Refusal := .next ((s.arriveStep id).getD s)

end Sys2Proof.Machine
end

