-- ==== Sys2Proof/Machine/Buckle.lean ====
section
/-! DEFINITION. The Buckles: atomics, reduction sessions, phases and counters at the home of their word (09 R200 to R209; 12
R257 to R260; 07 R165). -/

namespace Sys2Proof.Machine

/-! ## Arithmetic (R203) -/

def atomBits (t : AType) : Nat := 8 * ATypeBytes t

/-- The value that MIN and MAX compare. -/
def atomValue (t : AType) (v : Nat) : Int :=
  match t with
  | .i32 | .i64 => signedOf (atomBits t) v
  | _ => (v : Int)

/-- new(AOP, old, op, cmp). -/
def atomNew (op : AOp) (t : AType) (old x cmp : Nat) : Nat :=
  let w := 2 ^ atomBits t
  let pick (max : Bool) : Nat :=
    if t = .f32 then (fminmax .f32 max old x).1
    else if atomValue t x < atomValue t old then (if max then old else x) else if max then x else old
  match op with
  | .add => (old + x) % w
  | .fadd => (fadd .f32 .nearest false old x).1
  | .min => pick false
  | .max => pick true
  | .and => old &&& x
  | .or => old ||| x
  | .xor => old ^^^ x
  | .xchg => x
  | .cas => if old = cmp then x else old

/-- The operand bits that a word of the type takes (R202). -/
def atomOperand (t : AType) (v : Word) : Nat := v.toNat % 2 ^ atomBits t

/-- sD: sign-extended for I32, zero-extended otherwise (R203). -/
def atomReply (t : AType) (old : Nat) : Row :=
  if t = .i32 then (BitVec.ofInt 64 (signedOf 32 old)).setWidth 4096 else BitVec.ofNat 4096 old

/-! ## Reaching the home -/

/-- A Buckle operation whose turn it is: released, its word's earlier operations performed, and not at its Buckle already, in a queue or in a
session. -/
def State.atBuckle (s : State) (id : Nat) : Option Acc :=
  match s.acc? id with
  | none => none
  | some a => if a.released && a.queued.isNone && !a.posted && s.depsDone a && s.complete a then some a else none

/-- The issuing die's Buckle queues an operation whose page is under migration, after those it holds (12 R258). -/
def State.queueAtomic (s : State) (id : Nat) : State :=
  let f (keep : Bool) : List Acc := s.accs.filter fun a => (a.id != id) = keep
  { s with accs := f true ++ (f false).map fun a => { a with queued := some false } }

/-- What an operation finds at its word. -/
inductive AtWord where
  | here (l : Loc) (old : Nat)
  | held
  | refused
  | poison
  | fault (f : AFault)
  deriving DecidableEq, Repr

def State.atWord (s : State) (w : Who) (k : AKind) (va : Word) (n : Nat) : AtWord :=
  match s.locateWord w k va n with
  | .fault f => .fault f
  | .nonres => .fault faultNonres
  | .held => .held
  | .poison _ => .poison
  | .ok l =>
    if s.refused w n (.ok l) then .refused
    else if s.locPoisoned l n then .poison else .here l (s.readWord l n)

/-- A fault that the operation meets when it performs, after a translation without one at issue, is reported at the DRAIN of
the word's path. -/
def State.wordFault (s : State) (a : Acc) (sl : Slot) (f : AFault) (va : Word) : State :=
  (s.logFault f 0).drainFault a (s.reachPath a.who none (vaOf va)) ⟨f.code, f.detail, sl, va⟩

def State.wordRefused (s : State) (a : Acc) (va : Word) : State :=
  (s.drainFault a (some .peer) ⟨faultOwner.code, faultOwner.detail, .sy, va⟩).log (.peerRefused 0 0)

/-- An issuing node consumes an error at once (12 R260). -/
def State.consumeAcc (s : State) (a : Acc) : State :=
  match a.who.node with
  | some n => s.consumeError n
  | none => s

/-! ## ATOM (R203; 12 R260)

An error that strikes the value which the home Buckle holds poisons the word (`Upset.word`): whether it comes before the operation's read or
between its read and its write, the operation writes nothing and returns poison. -/

def State.applyAtom (s : State) (id : Nat) : Option State :=
  match s.atBuckle id with
  | none => none
  | some a =>
    match a.op with
    | .atom op ty va x cmp pend =>
      let n := ATypeBytes ty
      let done (s : State) (v : Row) (poison : Bool) : State := (s.reply a ⟨v, 0, none, poison⟩).finishAcc a
      some (match s.atWord a.who .atomic va n with
        | .held => s.queueAtomic id
        | .fault f => done (s.wordFault a .sy f va) 0 false
        | .refused => done (s.wordRefused a va) 0 false
        | .poison => if pend.isSome then done s 0 true else (done s 0 false).consumeAcc a
        | .here l old => done (s.writeWord l n (atomNew op ty old (atomOperand ty x) (atomOperand ty cmp))) (atomReply ty old) false)
    | _ => none

def execAtomicApply (id : Nat) (s : State) : Host.Outcome State Fault Refusal := .next ((s.applyAtom id).getD s)

/-! ## RED (R204; 07 R165) -/

/-- The package and address of a location. -/
def Loc.peer? : Loc → Option Nat
  | .phys _ => none
  | .peer p _ => some p
def Loc.pa : Loc → Nat
  | .phys pa => pa
  | .peer _ pa => pa

def Session.at (x : Session) (l : Loc) : Bool := x.peer = l.peer? && x.pa = l.pa

/-- The Buckle of a location: a die of this package, or a die of a peer. -/
def Loc.buckle (l : Loc) : Option Nat × Nat := (l.peer?, paDie l.pa)

/-- Contributions that wait for their index at a Buckle. -/
def State.contributions (s : State) (l : Loc) : Nat :=
  (s.sessions.map fun x => if x.peer = l.peer? && paDie x.pa = paDie l.pa then x.held.length else 0).foldl (· + ·) 0

/-- Accesses whose contributions a session holds. -/
def Session.givers (x : Session) : List Nat := x.held.filterMap fun p => p.2.2.2.2

/-- Apply the held contributions in index order, while the next one is here; the accesses whose contributions are applied. -/
def runSession (word : Nat) (done : List Nat) : Nat → Session → Nat × Session × List Nat
  | 0, x => (word, x, done)
  | f + 1, x =>
    match x.held.find x.next with
    | none => (word, x, done)
    | some (v, op, ty, id) =>
      runSession (atomNew op ty word (atomOperand ty v) 0) (done ++ id.toList) f { x with next := x.next + 1, held := x.held.erase x.next }

/-- The word reads as poison (R204). -/
def State.poisonWord (s : State) (l : Loc) (n : Nat) : State :=
  let locs : List Loc := (List.range ((n + 3) / 4)).map fun i => match l with
    | .phys pa => .phys (pa + 4 * i)
    | .peer p pa => .peer p (pa + 4 * i)
  { s with wordPoison := s.wordPoison ++ locs.filter fun x => !s.wordPoison.contains x }

/-- The contributions of some accesses are over. -/
def State.finishIds (s : State) (l : List Nat) : State :=
  l.foldl (fun s id => match s.acc? id with
    | some a => s.finishAcc a
    | none => s) s

/-- What stands for the address of a session that a request for a frame opened: a number that is no address (12 R259). -/
def frameVa : Word := 0x4000000000000000

/-- A session closes: what it still holds is never applied. -/
def State.closeSession (s : State) (l : Loc) : State :=
  ({ s with sessions := s.sessions.filter fun (x : Session) => !x.at l } : State).finishIds ((s.sessions.filter fun x => x.at l).flatMap Session.givers)

/-- One contribution at its home: the state, and the accesses whose contributions are applied; none where the store is full. A contribution
that is only held waits there for its index, and has not performed (R204). -/
def State.contributeAt (s : State) (l : Loc) (tenant : Nat) (op : AOp) (ty : AType) (va val : Word) (n i : Nat) (id : Option Nat) (old : Nat) :
    Option (State × List Nat) :=
  let fresh : Session := ⟨l.peer?, l.pa, tenant, va, n, 0, []⟩
  let x := (s.sessions.find? fun x => x.at l).getD fresh
  if n ≠ x.n ∨ i < x.next ∨ (x.held.find i).isSome then some ((s.poisonWord l (ATypeBytes ty)).closeSession l, id.toList)
  else if i ≠ x.next ∧ 8192 ≤ s.contributions l then none
  else
    let r := runSession old [] (n + 1) { x with held := x.held.insert i (val, op, ty, id) }
    let s := ({ s with sessions := s.sessions.filter fun (x : Session) => !x.at l } : State).writeWord l (ATypeBytes ty) r.1
    some (if r.2.1.next = n then s else { s with sessions := s.sessions ++ [r.2.1] }, r.2.2)

/-- The contribution of an access. -/
def State.contribute (s : State) (a : Acc) (op : AOp) (ty : AType) (va val : Word) (n i : Nat) (l : Loc) (old : Nat) : Option State :=
  (s.contributeAt l a.who.tenant op ty va val n i (some a.id) old).map fun r =>
    if r.2.contains a.id then r.1.finishIds r.2 else (r.1.finishIds r.2).markPosted a none

def State.applyRed (s : State) (id : Nat) : Option State :=
  match s.atBuckle id with
  | none => none
  | some a =>
    match a.op with
    | .red op ty va val n i =>
      match s.locateWord a.who .sync va (ATypeBytes ty), s.atWord a.who .sync va (ATypeBytes ty) with
      | _, .held => some (s.queueAtomic id)
      | _, .fault f => some ((s.wordFault a .sy f va).finishAcc a)
      | _, .refused => some ((s.wordRefused a va).finishAcc a)
      | .ok l, .poison => some (((s.closeSession l).finishAcc a).consumeAcc a)
      | _, .poison => some ((s.finishAcc a).consumeAcc a)
      | _, .here l old => s.contribute a op ty va val n i l old
    | _ => none

def execReductionContribution (id : Nat) (s : State) : Host.Outcome State Fault Refusal := .next ((s.applyRed id).getD s)

/-! ## ARRIVE (R205) -/

/-- A phase word after an arrival. -/
def phaseNext (w : Nat) : Nat :=
  let expect := bf w 63 48
  let n := bf w 47 32 + 1
  if n = (if expect = 0 then 65536 else expect) then expect * 2 ^ 48 + (bf w 31 0 + 1) % 2 ^ 32
  else expect * 2 ^ 48 + n % 2 ^ 16 * 2 ^ 32 + bf w 31 0

def State.applyArrive (s : State) (id : Nat) : Option State :=
  match s.atBuckle id with
  | none => none
  | some a =>
    match a.op with
    | .arrive va =>
      some (match s.atWord a.who .sync va 8 with
        | .held => s.queueAtomic id
        | .fault f => (s.wordFault a .sy f va).finishAcc a
        | .refused => (s.wordRefused a va).finishAcc a
        | .poison => (s.finishAcc a).consumeAcc a
        | .here l old => (s.writeWord l 8 (phaseNext old)).finishAcc a)
    | _ => none

def execPhaseArrival (id : Nat) (s : State) : Host.Outcome State Fault Refusal := .next ((s.applyArrive id).getD s)

/-! ## Counter arrivals (R200) -/

/-- A fault of a counter arrival at the DRAIN of the copy's path: a copy engine error for a missing permit (12 R257), else its
own cause. -/
def State.countFault (s : State) (a : Acc) (path : Option Path) (f : AFault) (va : Word) : State :=
  (s.logFault f 0).drainFault a path (if f.code = 0x0A then ⟨0x13, 1, .ce, va⟩ else ⟨f.code, f.detail, .ce, va⟩)

def State.applyCount (s : State) (id : Nat) : Option State :=
  match s.atBuckle id with
  | none => none
  | some a =>
    match a.op with
    | .count va n path =>
      some (match s.atWord a.who .sync va 8 with
        | .held => s.queueAtomic id
        | .fault f => (s.countFault a path f va).finishAcc a
        | .refused => (s.wordRefused a va).finishAcc a
        | .poison => (s.finishAcc a).consumeAcc a
        | .here l old => (s.writeWord l 8 ((old + n) % 2 ^ 64)).finishAcc a)
    | _ => none

def execCounterArrival (id : Nat) (s : State) : Host.Outcome State Fault Refusal := .next ((s.applyCount id).getD s)

/-! ## Waits complete (R205, R206; 18 R407) -/

/-- Which waits an event completes. -/
inductive WaitKind where
  | phase | counter
  deriving DecidableEq, Repr

/-- The test of a wait that the bundle makes. -/
def waitTest : WaitKind → Instr → Bool
  | .phase, .waitph .. => true
  | .counter, .waitcnt .. => true
  | _, _ => false

def WaitKind.holds (k : WaitKind) (e41 : Word) (w : Nat) : Bool :=
  match k with
  | .phase => phaseDone w e41
  | .counter => e41.toNat ≤ w

/-- The condition of a BLOCKED wait holds: it has held once, and the context is READY. The read meets its word's decoder. Poison is consumed by the node; a read
that a peer package refuses is fatal, since a wait has no DRAIN of its own that could report it. -/
def State.waitComplete (s : State) (key : Nat) (k : WaitKind) : Option State :=
  match s.ctx? key with
  | none => none
  | some c =>
    if c.status != .blocked || c.waitDone || !(s.bundleInstrs key c).any (waitTest k) || !s.wordReady key c (c.readE 40) then none
    else
      match s.poll key c (k.holds (c.readE 41)) with
      | .done true => some (((s.meetWait key c).mapCtx key fun c => { c with waitDone := true }).wake key)
      | .done false => none
      | .poison => some (s.consumeError c.node)
      | .refused => some ((s.log (.peerRefused 0 0)).fatal key faultOwner.code faultOwner.detail c.tm)

def execPhaseWaitComplete (key : Nat) (s : State) : Host.Outcome State Fault Refusal := .next ((s.waitComplete key .phase).getD s)
def execCounterWaitComplete (key : Nat) (s : State) : Host.Outcome State Fault Refusal := .next ((s.waitComplete key .counter).getD s)

end Sys2Proof.Machine
end

