-- ==== Sys2Proof/Machine/Mantle.lean ====
section
/-! DEFINITION. Shoot-downs with the home fence and the atomics that wait for a migration (08 R184; 12 R258, R259; 17 R368), SHMAP at
its Buckle (12 R250, R251), PAGEREQ's record and SIGNAL (17 R361, R369; 15 R297). -/

namespace Sys2Proof.Machine

/-! ## What a SHOOT matches (R367) -/

/-- The page that maps an address is of 128 MiB, in the tables as they stand. -/
def State.mapsBig (s : State) (w : Who) (va : Int) : Bool :=
  match s.walk w (va56 va) with
  | .leaf _ big => big
  | _ => false

/-- A virtual address lies in what the operands name: for PAGE, in the page that maps e40. -/
def State.shootHits (s : State) (w : Who) (k : ShootKind) (e40 e41 : Word) (va : Int) : Bool :=
  let a := vaOf e40
  let size : Int := if s.mapsBig w a then 0x8000000 else 0x8000
  match k with
  | .tenant => true
  | .page => va / size = a / size
  | .range => a ≤ va && va < a + (field e41 23 0 * 0x8000 : Nat)

/-- A TLB entry maps a byte of it; addresses are signed, so that a range may run from below 0 past it (08 R181). -/
def shootEntry (k : ShootKind) (tenant : Nat) (e40 e41 : Word) (e : TlbEnt) : Bool :=
  let size := if e.big then 0x8000000 else 0x8000
  let first := signedOf 56 (e.page * size)
  let lo := vaOf e40
  let n := match k with
    | .range => field e41 23 0 * 0x8000
    | _ => 1
  e.tenant = tenant && (k = .tenant || (first < lo + (n : Nat) && lo < first + (size : Nat)))

/-- The leaf now, in the tables. -/
def State.leafMigrating (s : State) (w : Who) (va : Int) : Bool :=
  match s.walk w (va56 va) with
  | .leaf e _ => pteRes e = 3
  | _ => false

/-- SHOOT.PAGE of a page under migration carries the fence request (R368). -/
def State.fencing (s : State) (a : Acc) : Bool :=
  match a.op with
  | .shoot .page e40 _ => s.leafMigrating a.who (vaOf e40)
  | _ => false

/-- Words that a Buckle operation on its way has for its home. -/
def AccOp.wordVas : AccOp → List Int
  | .atom _ _ va .. | .red _ _ va .. | .arrive va | .count va .. => [vaOf va]
  | _ => []

/-- Accesses that the shoot-down waits for: those that used a dropped entry and have not performed (R184), and Buckle operations whose turn has
come. What a Buckle queues or holds for its index is excepted. -/
def State.shootUsers (s : State) (a : Acc) (k : ShootKind) (e40 e41 : Word) : List Nat :=
  s.users (shootEntry k a.who.tenant e40 e41) ++ (s.accs.filter fun x => x.id != a.id && x.who.tenant = a.who.tenant && x.queued.isNone
    && !x.posted && s.ordered x && x.released && x.op.wordVas.any (s.shootHits a.who k e40 e41)).map (·.id)

/-- Operations that wait for the end of a migration may be sent once the leaf is no longer MIGRATING (R258 step 6). -/
def State.letGo (s : State) (a : Acc) (k : ShootKind) (e40 e41 : Word) : State :=
  { s with accs := s.accs.map fun (x : Acc) => match x.op.word? with
      | some va =>
        if x.queued = some false && x.who.tenant = a.who.tenant && s.shootHits a.who k e40 e41 (vaOf va) && !s.leafMigrating x.who (vaOf va)
        then { x with queued := some true } else x
      | none => x }

/-- Sessions pass to the new home Buckle (R259). -/
def State.moveSessions (s : State) (a : Acc) (k : ShootKind) (e40 e41 : Word) : State :=
  { s with sessions := s.sessions.map fun (x : Session) =>
      if x.tenant = a.who.tenant && s.shootHits a.who k e40 e41 (vaOf x.va) && !s.leafMigrating a.who (vaOf x.va) then
        match s.translate a.who .copyRead false (vaOf x.va) 4 with
        | .ok l => { x with peer := l.peer?, pa := l.pa }
        | _ => x
      else x }

/-- The entries are dropped, and what used them is noted: the shoot-down waits for that (R184). -/
def State.shootDrop (s : State) (a : Acc) (k : ShootKind) (e40 e41 : Word) : State :=
  let m := shootEntry k a.who.tenant e40 e41
  let l := s.shootUsers a k e40 e41
  let s := (s.shootDown m).retranslate m
  { s with accs := s.accs.map fun (x : Acc) => if x.id = a.id then { x with posted := true, deps := l } else x }

/-- The shoot-down completes. A Buckle holds no word apart from memory here, so that step 2 of R258 has nothing to write back. -/
def State.shootEnd (s : State) (a : Acc) (k : ShootKind) (e40 e41 : Word) : State :=
  (((s.letGo a k e40 e41).moveSessions a k e40 e41).finishAcc a)

/-- The shoot-down (R184): in its turn it drops the entries; once what used them has performed, it completes. -/
def State.shootPerform (s : State) (a : Acc) (k : ShootKind) (e40 e41 : Word) : State :=
  if a.posted then s.shootEnd a k e40 e41
  else
    let t := s.shootDrop a k e40 e41
    if (s.shootUsers a k e40 e41).isEmpty then t.shootEnd a k e40 e41 else t

/-- Sessions that a peer's frame address opened on the page take the address by which the tenant maps it, so that they move with it (R259). -/
def State.nameSessions (s : State) (a : Acc) (e40 : Word) : State :=
  match s.translate a.who .copyRead false (vaOf e40) 1 with
  | .ok l =>
    let size := if s.mapsBig a.who (vaOf e40) then 0x8000000 else 0x8000
    { s with sessions := s.sessions.map fun (x : Session) =>
        if x.peer = l.peer? && x.va = frameVa && x.pa / size = l.pa / size then
          { x with tenant := a.who.tenant, va := pcOf (vaOf e40 / (size : Nat) * (size : Nat) + (x.pa % size : Nat)) }
        else x }
  | _ => s

/-- HOME_FENCE_REQUEST: the shoot-down of a page under migration, once the home Buckle has applied what was on its way (R258). -/
def State.homeFence (s : State) (id : Nat) : Option State :=
  match s.acc? id with
  | none => none
  | some a =>
    if !a.released || !s.depsDone a || !s.fencing a then none
    else match a.op with
      | .shoot k e40 e41 => some ((s.nameSessions a e40).shootPerform a k e40 e41)
      | _ => none

def execHomeFenceRequest (id : Nat) (s : State) : Host.Outcome State Fault Refusal := .next ((s.homeFence id).getD s)

/-- QUEUED_ATOMIC_RESEND: the oldest operation that its die's Buckle may send goes out (R258 step 6). -/
def State.resend (s : State) (id : Nat) : Option State :=
  match s.acc? id with
  | none => none
  | some a =>
    let mine := s.accs.filter fun x => x.queued = some true && tileDie x.who.tile = tileDie a.who.tile
    if mine.head? = some a then
      some { s with accs := s.accs.map fun (x : Acc) => if x.id = id then { x with queued := none } else x }
    else none

def execQueuedAtomicResend (id : Nat) (s : State) : Host.Outcome State Fault Refusal := .next ((s.resend id).getD s)

/-! ## SHMAP (R250, R251) -/

/-- A dimension of an image: (X, B, SPLIT, P, LSTR), and whether its fields are allowed. -/
def imageDim (rank d : Nat) (w0 w1 : Word) : Bool :=
  let x := field w0 63 32
  let b := field w0 31 0
  let split := field w1 63 62
  let p := field w1 61 55
  if rank ≤ d then w0 = 0 && w1 = 0
  else
    field w1 54 48 = 0 && x != 0 && split != 3 && 1 ≤ p && p ≤ 64
      && (if split = 0 then b = 0 && p = 1 else b != 0)
      && (split != 1 || ((p - 1) * b < x && x ≤ p * b))

/-- An owner of an image. -/
def imageOwner (nown o : Nat) (w0 w1 : Word) : Bool :=
  if nown ≤ o then w0 = 0 && w1 = 0
  else isCanonical w0 && field w0 5 0 = 0 && field w1 63 16 = 0 && field w1 7 2 = 0

/-- An entry image; none where it is malformed. The owner TENANT is not part of it. -/
def parseImage (bytes : List Byte) : Option MEnt :=
  let w (off : Nat) : Word := BitVec.ofNat 64 (numOf ((bytes.drop off).take 8))
  let rank := field (w 0) 31 29
  let nown := field (w 0) 6 0
  let dims := (List.range 6).map fun d => (w (0x10 + 16 * d), w (0x18 + 16 * d))
  let owners := (List.range 64).map fun o => (w (0x80 + 16 * o), w (0x88 + 16 * o))
  let live := dims.take rank
  let ps := live.map fun d => field d.2 61 55
  let ok := rank ≤ 6 && field (w 0) 28 7 = 0 && w 8 = 0 && w 0x70 = 0 && w 0x78 = 0
    && (if rank = 0 then nown = 0 else 1 ≤ nown && nown ≤ 64 && ps.foldl (· * ·) 1 = nown)
    && ((List.range 6).zip dims).all (fun x => imageDim rank x.1 x.2.1 x.2.2)
    && ((List.range 64).zip owners).all (fun x => imageOwner nown x.1 x.2.1 x.2.2)
  if !ok then none
  else some {
    version := (w 0 >>> 32).setWidth 32, rank := rank
    x := live.map fun d => field d.1 63 32, b := live.map fun d => field d.1 31 0
    split := live.map fun d => field d.2 63 62, p := ps, lstr := live.map fun d => field d.2 47 0
    obase := (owners.take nown).map (·.1), peern := (owners.take nown).map fun o => field o.2 15 8
    odie := (owners.take nown).map fun o => field o.2 1 0, tenant := none }

/-- An SHMAP error, reported as a copy engine error at DRAIN.HBM. -/
def State.shmapError (s : State) (a : Acc) (va : Word) : State := (s.drainFault a (some .hbm) ⟨0x13, 2, .sy, va⟩).finishAcc a

/-- The comparison and the install on every replica. -/
def State.installImage (s : State) (a : Acc) (ment : Nat) (va : Word) (bytes : List Byte) : State :=
  let e := s.mantle.read .reset ment
  match parseImage bytes with
  | none => s.shmapError a va
  | some m =>
    let m := { m with tenant := e.tenant }
    if e.tenant != some a.who.tenant then s.shmapError a va
    else if m = e then s.finishAcc a
    else if m.version != e.version + 1 then s.shmapError a va
    else { s with mantle := s.mantle.write .reset ment m }.finishAcc a

/-- A part of an image as it is read: the decoder meets its lines, and a refusal is logged, of this package's ownership check or of a peer's
(14 R279; 08 R180; 15 R302). -/
def State.meetRead (s : State) (w : Who) (n : Nat) : XRes → State
  | .ok (.phys pa) => s.meet pa n
  | .ok (.peer p pa) => if s.refused w n (.ok (.peer p pa)) then s.log (.peerRefused p pa) else s
  | .fault f => s.logFault f 0
  | _ => s

/-- SHMAP_INSTALL: the image is read part by part under the context's translation. -/
def State.shmapStep (s : State) (id : Nat) : Option State :=
  match s.acc? id with
  | none => none
  | some a =>
    match a.op with
    | .shmap ment va =>
      if !a.released || !s.depsDone a then none
      else if !isCanonical va || va.toNat % 128 ≠ 0 then some (s.shmapError a va)
      else
        let ps := parts (vaOf va) 1152
        let rs := ps.map fun p => (p, s.translate a.who .copyRead false p.1 p.2)
        let poison := rs.any fun r => match r.2 with
          | .poison _ => true
          | .ok l => s.locPoisoned l r.1.2
          | _ => false
        let bad := rs.any fun r => match r.2 with
          | .ok l => s.refused a.who r.1.2 (.ok l)
          | .poison _ => false
          | _ => true
        let s := rs.foldl (fun s r => (s.meetWalk a.who (va56 r.1.1)).meetRead a.who r.1.2 r.2) s
        if poison then some ((s.finishAcc a).consumeAcc a)
        else if bad then some (s.shmapError a va)
        else
          let bytes := rs.flatMap fun r => match r.2 with
            | .ok l => s.readLoc l r.1.2
            | _ => []
          some (s.installImage a ment va bytes)
    | _ => none

def execShmapInstall (id : Nat) (s : State) : Host.Outcome State Fault Refusal := .next ((s.shmapStep id).getD s)

/-! ## SIGNAL and PAGEREQ (15 R297; 17 R361, R369) -/

/-- Set bit v of SPEND in every function of a tenant; a bit going from 0 to 1 raises vector 1. -/
def State.setSpend (s : State) (tenant v : Nat) : State :=
  (s.tenantFns tenant).foldl
    (fun s f =>
      let was := bit (s.fn f).spend v
      let s := s.mapFn f fun x => { x with spend := x.spend ||| BitVec.ofNat 256 (2 ^ v) }
      if was then s else s.raiseIrq f 1) s

/-- SIGNAL_DELIVER. -/
def State.signalStep (s : State) (id : Nat) : Option State :=
  match s.acc? id with
  | none => none
  | some a =>
    match a.op with
    | .signal v => if !a.released || !s.depsDone a then none else some ((s.setSpend a.who.tenant v).finishAcc a)
    | _ => none

def execSignalDeliver (id : Nat) (s : State) : Host.Outcome State Fault Refusal := .next ((s.signalStep id).getD s)

/-- The request record (R361). -/
def pagereqBytes (va count node cookie : Nat) : List Byte := bytesOf 8 va ++ bytesOf 8 count ++ bytesOf 8 node ++ bytesOf 8 cookie

/-- PAGEREQ_RECORD: the record is written, then the vector's bit is set. -/
def State.pagereqStep (s : State) (id : Nat) : Option State :=
  match s.acc? id with
  | none => none
  | some a =>
    match a.op with
    | .pagereq va count cookie rec vec =>
      if !a.released || !s.depsDone a then none
      else
        match s.writeParts a.who false [⟨vaOf rec, none, pagereqBytes va.toNat count.toNat (a.who.node.getD 0) cookie.toNat⟩] with
        | .held => none
        | .poison s => some ((s.finishAcc a).consumeAcc a)
        | .bad s l => some ((s.reportFaults a .sy l).finishAcc a)
        | .done s => some ((s.setSpend a.who.tenant vec).finishAcc a)
    | _ => none

def execPagereqRecord (id : Nat) (s : State) : Host.Outcome State Fault Refusal := .next ((s.pagereqStep id).getD s)

end Sys2Proof.Machine
end

