-- ==== Sys2Proof/Machine/Release.lean ====
section
/-! DEFINITION. The release of effects (02 R36; 03 R66, R67; 04 R85), what performs with it, window accesses at their target and their
acknowledgements (08 R173 to R175; 09 R199), and drains that complete (09 R198). -/

namespace Sys2Proof.Machine

/-! ## Pairs (03 R66, R67) -/

/-- A side without the number of the command that binds its identifier. -/
def CSide.plain : CSide → CSide
  | .tpend tn _ m => .tpend tn 0 m
  | x => x

/-- An effect without the numbers by which each twin knows a result or a command of its own. -/
def AccOp.plain : AccOp → AccOp
  | .atom op ty va x y p => .atom op ty va x y (p.map fun _ => 0)
  | .bump ver before => .bump ver (before.map fun _ => 0)
  | .copy src dst e late cpw unit steps => .copy src.plain dst.plain e late cpw unit steps
  | .mdlt lent w x y e => .mdlt lent w.plain x.plain y.plain e
  | o => o

/-- Bytes that a write-back takes. -/
def State.accDirty (s : State) (a : Acc) : List (Nat × Byte) :=
  match a.op, s.accCtx a with
  | .writeBack h _, some c => c.dirtyBytes a.after h
  | _, _ => []

/-- The twin's copy of an effect is the same: kind, address, class, data and lanes (R66). -/
def State.agrees (s : State) (a b : Acc) : Bool :=
  decide (a.cls = b.cls) && decide (a.op.plain = b.op.plain) && decide (s.accDirty a = s.accDirty b)

/-! ## Release (02 R36) -/

/-- A side through which a copy's writes leave the group (16 R325). -/
def CSide.leaves (c : Ctx) : CSide → Bool
  | .virt _ | .win .. | .tpend .. | .tbad => true
  | .hnd h _ => !c.isTile h
  | .tens t _ => match t.handle with
    | some h => !c.isTile h
    | none => true

/-- A side for which a copy is an effect: additions to a version word are held with the data (11 R232). -/
def CSide.effect (c : Ctx) (x : CSide) : Bool := x.leaves c || x.version != 0

/-- Whether an access is an effect that the release horizon holds. -/
def State.isEffect (s : State) (a : Acc) : Bool :=
  match a.op with
  | .store .. | .bump .. | .frame .. | .winStore .. | .writeBack .. | .atom .. | .red .. | .arrive _ | .pagereq .. | .launch .. | .signal _
  | .shoot .. | .shmap .. | .lnctl .. | .mdlt .. => true
  | .copy _ dst _ _ _ _ _ => match s.accCtx a with
    | some c => dst.effect c
    | none => true
  | _ => false

/-- Effects whose first release makes the node irreversible, whatever they reach (04 R85). -/
def AccOp.irreversible : AccOp → Bool
  | .atom .. | .red .. | .arrive _ | .signal _ | .pagereq .. | .launch .. | .winStore .. => true
  | .copy _ (.win ..) _ _ _ _ _ => true
  | _ => false

/-- The effect leaves the group, once its twin's copy agrees. -/
def State.releaseAcc (s : State) (a : Acc) : State :=
  match s.twinAcc a with
  | some b => if s.agrees a b then go s else s.silentError a b
  | none => go s
where
  go (s : State) : State :=
    let s := { s with accs := s.accs.map fun (x : Acc) => if x.id = a.id then { x with released := true } else x }
    if a.op.irreversible then s.irreversible a.who else s

/-! ## What performs with its release -/

/-- The slot that a fault found after issue names. -/
def AccOp.slotOf : AccOp → Slot
  | .store .. | .bump .. | .winStore .. => .st
  | .copy .. | .cpfill .. | .bindHandle .. | .bindTensor .. | .writeBack _ .command | .count .. => .ce
  | .mwld .. | .mdlt .. => .mx
  | .load .. | .winLoad .. | .fill .. => .ld
  | .frame .. | .writeBack .. => .none
  | _ => .sy

/-- One addition to a version word (11 R232), and what follows it; a fault of it is reported as one of the write's data. -/
def State.versionStep (s : State) (a : Acc) (ver : Nat) (go : State → Option State) : Option State :=
  if ver = 0 then go s
  else
    let va : Word := BitVec.ofNat 64 ver
    match s.addWord a.who va 1 false with
    | .done s => go s
    | .held => none
    | .poison => some ((s.finishAcc a).consumeAcc a)
    | .bad f => some ((s.reportFaults a a.op.slotOf [(s.reachPath a.who none (vaOf va), f, vaOf va)]).finishAcc a)

/-- A store: the first version step, every part, the second step. None while a part is held. One fault is reported, that of the lowest lane
whatever its path, as R254 says of a row and R188 of a load (DEDUCED, log entry 31). -/
def State.storePerform (s : State) (a : Acc) (ps : List WPiece) (tq : Bool) (ver : Nat) : Option State :=
  s.versionStep a ver fun s =>
    match s.writeParts a.who tq ps with
    | .held => none
    | .poison s => some ((s.finishAcc a).consumeAcc a)
    | .bad s l => some ((s.reportFaults a a.op.slotOf (l.take 1)).finishAcc a)
    | .done s => s.versionStep a ver fun s => some (s.finishAcc a)

/-- A trap frame's stores, which are no effects under R85 (13 R267). A fault found on re-translation is fatal (06 R144; 13 R272). -/
def State.framePerform (s : State) (a : Acc) (ps : List WPiece) (code detail : Nat) : Option State :=
  match s.putParts a.who false ps with
  | .held => none
  | .poison s => some ((s.finishAcc a).consumeAcc a)
  | .bad s l => some (match a.who.node with
      | some n => (((faultsByPath l).foldl (fun s f => s.logFault f.2.1 0) s).finishAcc a).killNode n tokFault (faultDetail code detail false)
      | none => s.finishAcc a)
  | .done s => some (s.finishAcc a)

/-- Bytes at rising addresses joined to runs. -/
def joinBytes : List (Nat × Byte) → List (Nat × List Byte)
  | [] => []
  | (a, v) :: rest =>
    match joinBytes rest with
    | (b, l) :: more => if b = a + 1 then (a, v :: l) :: more else (a, [v]) :: (b, l) :: more
    | [] => [(a, [v])]

/-- A write-back of a handle's dirty bytes (08 R172). A fault of one made at exit is fatal to the node. -/
def State.writeBackPerform (s : State) (a : Acc) (h : Nat) (kind : WbKind) : Option State :=
  match s.accCtx a with
  | none => some (s.finishAcc a)
  | some c =>
    let d := (c.handle h).desc
    let bytes := if d.bmode = 2 then c.dirtyBytes a.after h else []
    if bytes.any fun p => c.handleBad h p.1 1 then some ((s.finishAcc a).consumeAcc a)
    else
    let ps : List WPiece := (joinBytes bytes).map fun r => ⟨vaOf d.back + (r.1 : Nat), none, r.2⟩
    let s := s.correctUnits a.ctx fun u => bytes.any fun p => u.metBy h p.1 1
    match s.writeParts a.who false ps with
    | .held => none
    | .poison s => some ((s.finishAcc a).consumeAcc a)
    | .bad s l =>
      match kind, l with
      | .exit, (_, f, _) :: _ => some (s.killNode c.node tokFault (faultDetail f.code f.detail false))
      | _, _ => some ((s.reportFaults a a.op.slotOf l).finishAcc a)
    | .done s => some ((s.mapBoth a fun c => c.written h (bytes.map (·.1))).finishAcc a)

/-- The effect of an access that performs by its release alone. -/
def State.performReleased (s : State) (a : Acc) : Option State :=
  match a.op with
  | .store ps tq ver => s.storePerform a ps tq ver
  | .bump ver _ => s.versionStep a ver fun s => some (s.finishAcc a)
  | .frame ps code detail => s.framePerform a ps code detail
  | .writeBack h kind => s.writeBackPerform a h kind
  | .lnctl fn lent e40 => some (s.lnctlRun a fn lent e40)
  | .shoot k e40 e41 => if s.fencing a && !a.posted then none else some (s.shootPerform a k e40 e41)
  | _ => none

/-- The twins' copies have all passed a test: the horizon counts from the later copy (R36). -/
def State.copiesPass (s : State) (a : Acc) (p : Acc → Bool) : Bool := s.complete a && (s.copies a).all p

/-- A release by one of the two bounds, or the performing of an effect already released. -/
def State.effectStep (s : State) (id : Nat) (bound : State → Acc → Bool) : Option State :=
  match s.acc? id with
  | none => none
  | some a =>
    if a.released then s.settled id fun s a => if s.depsDone a then s.performReleased a else none
    else if s.isEffect a && s.copiesPass a (bound s) then some (s.releaseAcc a) else none

/-- EFFECT_RELEASE: 96 lc of the issuing context. -/
def State.effectRelease (s : State) (id : Nat) : Option State := s.effectStep id State.horizonPassed
def execEffectRelease (id : Nat) (s : State) : Host.Outcome State Fault Refusal := .next ((s.effectRelease id).getD s)

/-- EFFECT_RELEASE_WALL: 64 ns of wall time. -/
def State.effectReleaseWall (s : State) (id : Nat) : Option State := s.effectStep id State.wallPassed
def execEffectReleaseWall (id : Nat) (s : State) : Host.Outcome State Fault Refusal := .next ((s.effectReleaseWall id).getD s)

/-! ## Windows at their target -/

def Stream.is (x : Stream) (c : Ctx) (h cls : Nat) : Bool := x.grp = c.grp && x.off = 8 * c.dy + c.dx && x.h = h && x.cls = cls

def State.streamCount (s : State) (c : Ctx) (h cls : Nat) : Nat :=
  ((s.streams.find? fun x => x.is c h cls).map (·.count)).getD 0

def State.countStream (s : State) (key h cls : Nat) : State :=
  match s.ctx? key with
  | none => s
  | some c =>
    let n := s.streamCount c h cls
    { s with streams := (s.streams.filter fun x => !x.is c h cls) ++ [⟨c.grp, 8 * c.dy + c.dx, h, cls, n + 1⟩] }

/-- A posted store of an MDLT meets a fault at its target: a copy engine error. What the command has not sent yet is not sent, and its entry
becomes STALE (11 R242). -/
def State.mdltStoreFault (s : State) (a m : Acc) (layer : Nat) : State :=
  let l := s.copies m
  let s := { s with accs := s.accs.filter fun x => !(x.queued.isSome && l.any fun y => x.parent = some y.id) }
  let s := match m.entry.filter (s.entryOf m.who.tenant layer), m.who.node with
    | some (d, i), some n => (s.setLent d i { s.lent d i with st := .stale }).noteEntry n d i
    | _, _ => s
  (s.drainFault a (some .win) ⟨0x13, 3, .mx, 0⟩).mapAcc m fun x => { x with entry := none }

/-- A posted store meets a fault at its target. -/
def State.postedFault (s : State) (a : Acc) (t : Target) : State :=
  match a.parent.bind s.acc? with
  | some m => match m.op with
    | .mdlt _ _ _ _ e => s.mdltStoreFault a m (mdltArgs e).layer
    | _ => s.targetFault a a.op.slotOf t
  | none => s.targetFault a a.op.slotOf t

/-- A posted store performs at its target: parts beyond the target's SIZE, or all of it, may be dropped (R175). -/
def State.windowStore (s : State) (a : Acc) (h : Nat) (t : Target) (bytes : List (Nat × List Byte)) : Option State :=
  let finish (s : State) : State :=
    if (s.accCtx a).isNone then s.finishAcc a
    else (s.mapAcc a fun x => { x with performed := true }).countStream a.ctx h (a.cls.getD 0)
  match s.target a.grp a.who.tenant t with
  | .waits => none
  | .absent => some (finish (s.postedFault a t))
  | f =>
    if bytes.any fun b => s.foundTorn f b.1 b.2.length then some ((s.finishAcc a).consumeAcc a)
    else
      let past := bytes.any fun b => s.foundSize f < b.1 + b.2.length
      let s := bytes.foldl (fun s b => s.correctAt f fun h => CUnit.cutBy h b.1 b.2.length) s
      let s := bytes.foldl (fun s b => s.foundWrite f b.1 b.2) s
      some (finish (if past then s.postedFault a t else s))

/-- The row that a window load brings, lanes beyond the target zero (R175); no bytes where it meets poison. A window load's fault is the
deferred one of R175: R340 and R395 name no fault of a target (DEDUCED, log entry 63). -/
def State.windowLoad (s : State) (a : Acc) (t : Target) (reads : List (Nat × Nat × Nat)) : Option State :=
  match s.target a.grp a.who.tenant t with
  | .waits => none
  | .absent => some (((s.windowFault a .ld).bring a (rowBytes 0)).finishAcc a)
  | f =>
    let row := rowOf (reads.map fun r => (r.1, s.foundBytes f r.2.1 r.2.2))
    let past := reads.any fun r => s.foundSize f < r.2.1 + r.2.2
    let s := reads.foldl (fun s r => s.correctAt f fun h => CUnit.metBy h r.2.1 r.2.2) s
    if reads.any fun r => s.foundPoisoned f r.2.1 r.2.2 then
      let s := (s.bring a []).finishAcc a
      some (if (s.accCtx a).isNone then s.consumeAcc a else s)
    else some (((if past then s.windowFault a .ld else s).bring a (rowBytes row)).finishAcc a)

/-- A posted store that waits in the engine goes out when its allowance lets it (06 R145). -/
def State.sendQueued (s : State) (a : Acc) (alw : Nat) : Option State :=
  if (s.accCtx a).all fun c => c.mayPost alw then some ((s.raiseOut a alw).mapAcc a fun x => { x with queued := none }) else none

/-- WINDOW_ACCESS_AT_TARGET. -/
def State.windowStep (s : State) (id : Nat) : Option State :=
  s.settled id fun s a =>
    if !s.depsDone a || !s.complete a then none
    else match a.op with
      | .winStore h t bytes alw _ =>
        if !a.released || a.performed then none
        else if a.queued.isSome then s.sendQueued a alw else s.windowStore a h t bytes
      | .winLoad _ _ t reads => s.windowLoad a t reads
      | _ => none

def execWindowAccessAtTarget (id : Nat) (s : State) : Host.Outcome State Fault Refusal := .next ((s.windowStep id).getD s)

/-! ## Acknowledgements (R199) -/

def Acc.isFl (a : Acc) : Bool :=
  match a.op with
  | .winStore _ _ _ _ fl => fl
  | _ => false

/-- Stores that the three points of R199 acknowledge, of the performed ones in order; `n` stores have performed in all. -/
def ackPoint (n : Nat) (l : List Acc) : Nat :=
  let numbered := (List.range l.length).zip l
  (numbered.map fun p => if (n - l.length + p.1 + 1) % 64 = 0 || p.2.isFl then p.1 + 1 else 0).foldl Nat.max 0

/-- A DRAIN.WIN of the context waits. -/
def State.drainsWin (s : State) (key : Nat) (c : Ctx) : Bool :=
  c.status = .blocked && (s.bundleInstrs key c).contains (.drain .win)

/-- A count of the stream's first stores that the target acknowledges now. Those of a context that has exited or stopped are acknowledged as
they perform: its group's end or save waits on them (04 R86; 13 R275; DEDUCED, log entry 28). -/
def State.ackCount (s : State) (key : Nat) (c : Ctx) (h cls : Nat) : Nat :=
  let all := (s.ctxAccs key c).filter fun a => a.inStream key h cls && a.queued.isNone
  let perf := all.takeWhile (·.performed)
  let fenced := c.fences.map fun f =>
    let mine := all.filter fun a => f.before.contains a.id || a.parent.any f.before.contains
    if mine.all (·.performed) then mine.length else 0
  let drain := if s.drainsWin key c && all.all (·.performed) then all.length else 0
  if c.status = .exited || c.status = .stopped then perf.length
  else Nat.min perf.length ((ackPoint (s.streamCount c h cls) perf :: drain :: fenced).foldl Nat.max 0)

/-- WINDOW_STORE_ACK: the acknowledged stores end, and OUT falls by their number (06 R145). -/
def State.ackStep (s : State) (key h cls : Nat) : Option State :=
  match s.ctx? key with
  | none => none
  | some c =>
    let n := s.ackCount key c h cls
    let l := ((s.ctxAccs key c).filter fun a => a.inStream key h cls && a.queued.isNone).take n
    if n = 0 || !l.all s.complete then none
    else some (l.foldl (fun s a => match a.op with
      | .winStore _ _ _ alw _ => (s.mapBoth a fun c => { c with out := c.out.write 0 alw (c.outOf alw - 1) }).finishAcc a
      | _ => s) s)

def execWindowStoreAck (key h cls : Nat) (s : State) : Host.Outcome State Fault Refusal := .next ((s.ackStep key h cls).getD s)

/-! ## Drains -/

/-- DRAIN_COMPLETE: nothing that the DRAIN of a BLOCKED context covers is left. -/
def State.drainComplete (s : State) (key : Nat) : Option State :=
  match s.ctx? key with
  | none => none
  | some c =>
    if c.status != .blocked || c.waitDone then none
    else
      match (s.bundleInstrs key c).findSome? fun i => match i with | .drain p => some p | _ => none with
      | none => none
      | some p => if s.drainWaits key c p then none else some ((s.mapCtx key fun c => { c with waitDone := true }).wake key)

def execDrainComplete (key : Nat) (s : State) : Host.Outcome State Fault Refusal := .next ((s.drainComplete key).getD s)

end Sys2Proof.Machine
end

