-- ==== Sys2Proof/Machine/Reply.lean ====
section
/-! DEFINITION. Replies to reads (02 R33; 08 R170, R182 to R188; 14 R280) and the weight image of MWLD (10 R214 to R217). -/

namespace Sys2Proof.Machine

/-! ## Loads -/

/-- What the reads of an access bring: bytes at their places, whether one met poison, and the refused ones. -/
def State.readPieces (s : State) (w : Who) (l : List RPiece) : List (Nat × List Byte) × Bool × List RPiece :=
  let rs := l.map fun r => (r, s.readPiece w r)
  (rs.map fun p => (p.1.pos, p.2.1), rs.any fun p => p.2.2.1, (rs.filter fun p => p.2.2.2).map (·.1))

/-- The first refused part is kept as the deferred peer fault (15 R302). -/
def State.peerFaults (s : State) (a : Acc) (l : List RPiece) : State :=
  match l with
  | [] => s
  | r :: _ => s.peerFault a .ld r.va

/-- The bytes that the awaited accesses brought, each at its place. -/
def Pend.holeBytes (p : Pend) (holes : List (Nat × Nat × Nat)) : List (Nat × List Byte) :=
  holes.filterMap fun x => (p.fills.findSome? fun f => if f.1 = x.2.1 then f.2.2 else none).map fun b => (x.1, [b.getD x.2.2 0])

/-- A load whose translation met a fault at its turn is no longer pending: its window opens at its own bundle (13 R264). Fills that nothing else
awaits are forgotten, so that a later load starts them anew: the other granules of the load stay UNFILLED too (08 R170; DESIGN CHOICE, log entry
60). -/
def Ctx.failLoad (c : Ctx) (uid : Nat) (cause : Cause) : Ctx :=
  match c.pend.find? fun p => p.uid = uid with
  | none => c
  | some p =>
    let rest := c.pend.filter fun q => q.uid != uid
    let w : Window := ⟨p.num, p.prog, p.pc, cause, p.act, p.latch, p.mask, p.mres⟩
    let awaits (x : Nat) (q : Pend) : Bool := q.fills.any fun f => f.1 = x
    let c := match p.gran with
      | some (h, _) => c.setHandle h { c.handle h with fills := (c.handle h).fills.filter fun x => !awaits x.1 p || rest.any (awaits x.1) }
      | none => c
    { c with pend := rest, windows := insertSorted (fun (a b : Window) => a.num < b.num) w c.windows }

/-- The same in the context and its older copies; after EXIT no trap point is left, and the fault is fatal (13 R272). -/
def State.failPend (s : State) (key uid : Nat) (cause : Cause) : State :=
  match s.ctx? key with
  | some c => if c.status = .exited then s.fatal key cause.code cause.detail c.tm else s.mapSeen key fun c => c.failLoad uid cause
  | none => s

/-- What the reads of an access meet when they are translated at its turn: faults and parts without residency (08 R180 to R188). -/
def State.lateReads (s : State) (w : Who) (k : AKind) (l : List RPiece) : Located :=
  s.locateReads w k (l.map fun r => ⟨r.lane, r.pos, r.va, r.owner, r.len⟩)

/-- First byte of the part that a read lies in (13 R269). -/
def readStart (l : List RPiece) (p : Piece) : Int :=
  l.foldl (fun a q => if q.owner = p.owner && q.va / 4096 = p.va / 4096 && q.va < a then q.va else a) p.va

def lateCause (l : List RPiece) (p : Piece × AFault) : Cause := ⟨p.2.code, p.2.detail, .ld, pcOf (readStart l p.1)⟩

/-- A load fails in both copies of a pair. -/
def State.failAcc (s : State) (a : Acc) (cause : Cause) : State :=
  ((s.copies a).foldl (fun s x => match x.op.pend? with
    | some p => s.failPend x.ctx p cause
    | none => s) s).finishAcc a

/-- Width of the lanes that a pending result writes. -/
def Pend.width (p : Pend) : Nat :=
  match p.act with
  | some (.row _ w) => w
  | _ => 32

/-- What a read brings when it reaches its context; one that has stopped for good, or is gone, consumes an uncorrectable error at once (14
R280). -/
def State.answer (s : State) (a : Acc) (r : Arrived) : State :=
  let s := (s.reply a r).finishAcc a
  if r.poison && (s.accCtx a).all (fun c => c.status = .exited) then s.consumeAcc a else s

/-- A read of a group that has ended performs as any other (03 R60). -/
def State.readAlone (s : State) (a : Acc) (reads : List RPiece) : State :=
  let r := s.readPieces a.who reads
  ((s.touchReads reads).peerFaults a r.2.2).answer a ⟨0, 0, none, r.2.1⟩

/-- The reply of a load: what its handle held at issue, what its awaited accesses and its own reads bring. One that had to wait for its turn is
translated now. -/
def State.loadReply (s : State) (a : Acc) (pend : Nat) (reads : List RPiece) (nonres : Mask) (base : Row) (holes : List (Nat × Nat × Nat))
    (ty : Option Ty) : State :=
  match (s.accCtx a).bind fun c => c.pend.find? fun p => p.uid = pend with
  | none => if (s.accCtx a).isNone then s.readAlone a reads else s.finishAcc a
  | some p =>
    let late := if p.known then ⟨reads, [], [], false⟩ else s.lateReads a.who .load reads
    match firstFault (loadFaults (p.mres.getD 0) [] late ⟨[], [], [], false⟩) with
    | some f => (s.logFault f.2 0).failAcc a (lateCause reads f)
    | none =>
    let reads := late.reads
    let nonres := late.nonres.foldl (fun m q => m ||| q.laneMask p.width) nonres
    let r := s.readPieces a.who reads
    let row := base ||| rowOf r.1 ||| rowOf (p.holeBytes holes)
    let poison := late.poison || r.2.1 || p.fills.any fun f => f.2.2 = some []
    let s := (s.touchReads reads).peerFaults a r.2.2
    s.answer a ⟨extendLoad ty row, nonres, none, poison⟩

/-- The loads of a context that await an access. -/
def State.awaiting (s : State) (a : Acc) : List Nat :=
  match s.accCtx a with
  | some c => (c.pend.filter fun p => p.fills.any fun f => f.1 = a.id).map (·.uid)
  | none => []

/-- The bytes of a fill's granule; none of them where it met poison. A fault that it meets at its turn is one of every load that waits for it
(08 R170). -/
def State.fillReply (s : State) (a : Acc) (reads : List RPiece) : State :=
  if (s.accCtx a).isNone then s.readAlone a reads
  else
  let late := if (s.accCtx a).any fun c => s.fillKnown c a.id then ⟨reads, [], [], false⟩ else s.lateReads a.who .copyRead reads
  match firstFault (loadFaults 0 [] late ⟨[], [], [], false⟩) with
  | some f =>
    ((s.copies a).foldl (fun s x => (s.awaiting x).foldl (fun s p => s.failPend x.ctx p (lateCause reads f)) s) (s.logFault f.2 0)).finishAcc a
  | none =>
  let r := s.readPieces a.who late.reads
  let s := (s.touchReads late.reads).peerFaults a r.2.2
  (s.bring a (if late.poison || r.2.1 then [] else rowOfBytes r.1)).finishAcc a
where
  rowOfBytes (l : List (Nat × List Byte)) : List Byte := (sortBy (fun x y => x.1 < y.1) l).flatMap (·.2)

/-! ## MWLD -/

/-- What the weight path reads for column c: how many elements lie in the extents, their places, and those of their pairs. -/
structure WColumn where
  spots : List Spot
  pairs : List Spot

/-- A column of the block (R215). -/
def TDesc.weightColumn (t : TDesc) (m : Option MEnt) (o : List Nat) (c : Nat) : WColumn :=
  let steps := t.weightGroups o c
  let place (i : List Nat) : Spot :=
    let el := t.elem m i
    match t.handle with
    | some h => .tile h (handleOff el.addr) t.copyBytes
    | none => .mem el.addr el.owner t.copyBytes (if t.fmt.isTxb then 1 else t.copyBytes)
  ⟨joinSpots (steps.map place), if t.fmt.isTxb then steps.map fun i => .mem (t.pairAddr i) none 2 1 else []⟩

/-- A 64-byte unit of a compressed image, present or zero (R216). -/
def expandUnits : List Bool → List Byte → List Byte
  | [], _ => []
  | true :: rest, l => l.take 64 ++ expandUnits rest (l.drop 64)
  | false :: rest, l => List.replicate 64 0 ++ expandUnits rest l

/-- What a part of an MWLD reads, and the number that its bytes make. -/
structure WRead where
  reads : List (List Spot)
  found : SRead
  value : Nat

/-- Bytes as a number, of a read that came to its end. -/
def SRead.num : SRead → Nat
  | .ok b _ _ => numOf b
  | _ => 0

/-- Reads of the columns, of so many bits each (R214). -/
def State.weightColumns (s : State) (a : Acc) (c : Ctx) (bits : Nat) (cols : List (List Spot)) : WRead :=
  let rs := cols.map (s.readSpots a c)
  ⟨cols, rs.foldr SRead.append (.ok [] false none), rs.foldr (fun r n => r.num + 2 ^ bits * n) 0⟩

/-- The compressed image at an address: its presence map, then its units (R216). -/
def State.compressedImage (s : State) (a : Acc) (c : Ctx) (va : Int) : WRead :=
  match s.readSpots a c [.mem va none 64 1] with
  | .ok map bad lost =>
    let bits := (List.range 512).map fun u => bit (map.getD (u / 8) 0) (u % 8)
    let body : List Spot := [.mem (va + 64) none (64 * (bits.filter id).length) 1]
    let r := s.readSpots a c body
    ⟨[[.mem va none 64 1], body], (SRead.ok map bad lost).append r, match r with
      | .ok b _ _ => numOf (expandUnits bits b)
      | _ => 0⟩
  | r => ⟨[], r, 0⟩

/-- The reads of MWLD: the image of 256 bytes a column, and the scale store, pair b of column c at 2(4 kd c + b) bytes; none while a read
waits. A fault takes the place of the image, and the token is produced. -/
def State.weightStep (s : State) (a : Acc) (t : TDesc) (m : Option MEnt) (e : Tab Word) : Option State :=
  match s.accCtx a with
  | none => some (s.finishAcc a)
  | some c =>
    let o := mwldOrigin (stagedE e 16) (stagedE e 17)
    let cols := (List.range 128).map (t.weightColumn m o)
    let image := if bit (stagedE e 18) 0 then s.compressedImage a c (vaOf (stagedE e 19)) else s.weightColumns a c 2048 (cols.map (·.spots))
    let scales := s.weightColumns a c (64 * t.fmt.kd) (cols.map (·.pairs))
    match image.found.append scales.found with
    | .held => none
    | .poison => some (s.answer a ⟨0, 0, none, true⟩)
    | .ok _ bad lost =>
      let s := (image.reads ++ scales.reads).foldl (fun s l => s.touchSpots a l) (s.noteRead a .mx bad lost)
      some (s.answer a ⟨0, 0, some ⟨BitVec.ofNat _ image.value, BitVec.ofNat _ scales.value, pushFmtOf t.fmt⟩, false⟩)
    | .fault f _ va =>
      let mark (s : State) (x : Acc) : State :=
        s.mapPend x.ctx ((x.op.pend?).getD 0) fun p => { p with cause := some ⟨f.code, f.detail, .mx, pcOf va⟩ }
      some (((s.copies a).foldl mark (s.logFault f 0)).answer a ⟨0, 0, none, false⟩)

/-- REPLY_ARRIVE (R33). -/
def State.replyStep (s : State) (id : Nat) : Option State :=
  s.settled id fun s a =>
    if !s.depsDone a || !s.complete a then none
    else match a.op with
      | .load p reads nonres base holes ty => some (s.loadReply a p reads nonres base holes ty)
      | .fill _ _ _ reads => some (s.fillReply a reads)
      | .mwld _ t m e _ => s.weightStep a t m e
      | _ => none

def execReplyArrive (id : Nat) (s : State) : Host.Outcome State Fault Refusal := .next ((s.replyStep id).getD s)

end Sys2Proof.Machine
end

