-- ==== Sys2Proof/Machine/Binding.lean ====
section
/-! DEFINITION. Bindings of handles and tensor identifiers (07 R160, R161; 08 R166 to R168, R174): descriptors and what the copy
engine does with them. -/

namespace Sys2Proof.Machine

/-! ## Descriptors -/

/-- Bits [63:56] are copies of bit 55 (16 R426). -/
def extended56 (v : Word) : Bool := canonical56 v.toNat = v

/-- A handle descriptor's words, malformed ones refused (R167). -/
def parseHandle (c : Ctx) (die : Nat) (w : Nat → Word) : Option HDesc :=
  let a := w 0
  let level := field a 63 62
  let bmode := field a 61 60
  let exp := bit a 56
  let size := field a 31 0
  let g := w 2
  let tile := level = 0
  let kf := bit g 63
  let d : HDesc := {
    level := if level = 0 then .tile else if level = 1 then .win else .xwin, bmode := bmode, alw := field a 59 57, exp := exp,
    cls := field a 55 52, key := field a 51 32, size := size, back := w 1, kf := kf, peern := field g 23 16, tdie := field g 15 14,
    tdx := field g 13 11, tdy := field g 10 8, thandle := field g 7 0 }
  let common := level != 3 && bmode != 3 && size % 64 = 0 && 64 ≤ size && size ≤ 0x300000 && [3, 4, 5, 6, 7].all (fun i => w i = 0)
    && (bmode != 0 || d.cls = 0) && (d.key = 0 || exp || (!tile && kf)) && field g 62 24 = 0
  let byLevel :=
    if tile then d.alw = 0 && g = 0
      && (if bmode = 0 then w 1 = 0
          else extended56 (w 1) && (w 1).toNat % 4096 = 0 && vaOf (w 1) + (size : Nat) - 1 ≤ vaHigh)
    else bmode = 0 && !exp && w 1 = 0
      && (if level = 1 then
            d.peern = 0 && d.tdie = 0
              && (if kf then d.tdx = 0 && d.tdy = 0 && d.thandle = 0
                  else d.tdx < c.pk.w && d.tdy < c.pk.h && !(d.tdx = c.dx && d.tdy = c.dy))
          else kf && d.tdx = 0 && d.tdy = 0 && d.thandle = 0 && !(d.peern = 255 && d.tdie = die))
  if common && byLevel then some d else none

/-- A tensor descriptor's words, malformed ones refused (R160, R161; 12 R252). -/
def parseTensor (c : Ctx) (w : Nat → Word) : Option TDesc :=
  let a := w 0
  match Ty.ofCode (field a 63 60) with
  | none => none
  | some fmt =>
    let rank := field a 59 57
    let mb := bit a 56
    let bk := field a 39 38
    let x := (List.range 6).map fun d => field (w (4 + d / 2)) (32 * (d % 2) + 31) (32 * (d % 2))
    let str := (List.range 6).map fun d => w (8 + d)
    let d : TDesc := {
      fmt := fmt, rank := rank, mb := mb, ment := field a 55 44, gap := field a 43 41, linear := bit a 40,
      handle := if bk = 1 then some (field (w 1) 39 32) else none, base := if bk = 1 then field (w 1) 31 0 else field (w 1) 55 0,
      sbase := field (w 2) 55 0, veraddr := field (w 3) 55 0, x := x, str := str.map fun v => v.toInt }
    let ok := fmt != .b && 1 ≤ rank && rank ≤ 6 && bk ≤ 1 && field a 37 0 = 0 && (mb || d.ment = 0) && (!mb || bk = 0)
      && (if fmt.isTxb then 2 ≤ d.gap else d.gap = 0 && !d.linear && w 2 = 0)
      && field (w 1) 63 56 = 0 && field (w 2) 63 56 = 0 && field (w 3) 63 56 = 0 && field (w 3) 2 0 = 0
      && (bk = 0 || (field (w 1) 55 40 = 0 && field (w 1) 39 32 < c.pk.handles)) && (!mb || field (w 1) 55 55 = 0)
      && w 7 = 0 && w 14 = 0 && w 15 = 0
      && (List.range 6).all fun i => if i < rank then x.getD i 0 != 0 else x.getD i 0 = 0 && str.getD i 0 = 0
    if ok then some d else none

/-- A tensor identifier that no use accepts. -/
def TensorId.bad : TensorId := ⟨.bad, .empty⟩

/-- Words of a byte string. -/
def wordsOf (l : List Byte) (i : Nat) : Word := BitVec.ofNat 64 (numOf ((l.drop (8 * i)).take 8))

/-! ## Tile SRAM (R168) -/

/-- Units of 4 KiB that a handle occupies. -/
def Handle.units (h : Handle) : List Nat :=
  if h.desc.level = .tile then (List.range ((h.desc.size + 4095) / 4096)).map (h.unit + ·) else []

/-- First fit of n units. -/
def Ctx.firstFit (c : Ctx) (n : Nat) : Option Nat :=
  let used := c.handles.flatMap fun p => p.2.units
  (List.range (c.pk.banks * 16 + 1 - n)).find? fun u => (List.range n).all fun i => !used.contains (u + i)

/-! ## Exports (R174) -/

/-- An export is removed where it was registered: on the die that the group then stood on. -/
def State.removeExport (s : State) (grp : Nat) (c : Ctx) (h : Nat) : State :=
  [0, 1, 2, 3].foldl (fun s d => s.mapDie d fun v =>
    { v with exports := v.exports.filter fun e => !(e.grp = grp && e.dx = c.dx && e.dy = c.dy && e.h = h) }) s

def State.addExport (s : State) (die grp : Nat) (c : Ctx) (h key : Nat) : State :=
  s.mapDie die fun v => { v with exports := v.exports ++ [⟨c.tenant, key, grp, c.dx, c.dy, h⟩] }

/-- The key under which a handle's binding is exported. -/
def Handle.exportKey (v : Handle) : Option Nat := if v.desc.exp && v.desc.level = .tile then some v.desc.key else none

/-- The tenant has the key on the die, or the directory is full. -/
def State.exportRefused (s : State) (die tenant key : Nat) : Bool :=
  (s.die die).exports.any (fun e => e.tenant = tenant && e.key = key) || 4096 ≤ (s.die die).exports.length

/-! ## Binding -/

/-- The old binding ends: loads of it fill no more, its SRAM is free (R166). -/
def Ctx.retireHandle (c : Ctx) (h : Nat) : Ctx :=
  { c.setHandle h { Handle.empty with st := .pending } with
    pend := c.pend.map fun p => match p.gran with
      | some (k, _) => if k = h then { p with gran := none } else p
      | none => p }

/-- Whether a later binding of the same object is outstanding, which keeps it PENDING. -/
def State.rebinds (s : State) (a : Acc) (p : AccOp → Bool) : Bool :=
  s.accs.any fun x => x.ctx = a.ctx && x.grp = a.grp && a.id < x.id && p x.op

/-- The state of a handle after its descriptor, the allocation with zero in every byte, and the export. -/
def Ctx.bindHandle (c : Ctx) (h : Nat) (d : HDesc) (unit : Nat) (st : OState) : Ctx :=
  (c.setHandle h { Handle.empty with st := st, desc := d, unit := unit }).cleanUnits fun b => match b with
    | .handle k _ => k = h
    | _ => false

/-- A write-back of a binding that was PENDING when the write-back was made gets its class, with what its class puts before it (08 R172). -/
def State.classBack (s : State) (x : Acc) (c : Ctx) (cls : Nat) : Acc :=
  { x with cls := some cls, strict := x.strict ++ c.fenceDeps (some cls)
           deps := x.deps ++ ((s.accs.filter fun y => y.ctx = x.ctx && y.grp = x.grp && y.order < x.order && y.cls = some cls && !y.op.isWinStore).map (·.id)) }

def AccOp.binds (h : Nat) : AccOp → Bool
  | .bindHandle k _ => k = h
  | _ => false

def AccOp.backs (h : Nat) : AccOp → Bool
  | .writeBack k kind => k = h && kind != .command
  | _ => false

/-- A write-back that follows a binding before the next of its handle. -/
def State.backsBinding (s : State) (b : Acc) (h : Nat) (x : Acc) : Bool :=
  x.ctx = b.ctx && x.grp = b.grp && b.order < x.order && x.cls.isNone && x.op.backs h
    && !(s.accs.any fun y => y.ctx = b.ctx && y.grp = b.grp && b.order < y.order && y.order < x.order && y.op.binds h)

/-- CPWBs that wait for a binding: they follow it before the next of its handle. -/
def State.waitingBacks (s : State) (b : Acc) (h : Nat) : List Acc :=
  s.accs.filter fun x => x.ctx = b.ctx && x.grp = b.grp && b.order < x.order && decide (x.op = .writeBack h .command)
    && !(s.accs.any fun y => y.ctx = b.ctx && y.grp = b.grp && b.order < y.order && y.order < x.order && y.op.binds h)

/-- A CPWB whose handle proves to be a window, or to have no binding, is a copy engine error as the binding completes (16 R323, R330). -/
def State.failBacks (s : State) (a : Acc) (h : Nat) (path : Option Path) : State :=
  (s.waitingBacks a h).foldl (fun s x => (s.drainFault x path ⟨0x13, 1, .ce, 0⟩).finishAcc x) s

def State.classBacks (s : State) (a : Acc) (h cls : Nat) : State :=
  (s.copies a).foldl (fun s b => match s.ctx? b.ctx with
    | none => s
    | some c => { s with accs := s.accs.map fun (x : Acc) => if s.backsBinding b h x then s.classBack x c cls else x }) s

/-- The object is BAD; a cause goes to the next DRAIN.HBM. -/
def State.badHandle (s : State) (a : Acc) (h : Nat) (st : OState) (cause : Option Cause) : State :=
  let s := (s.mapBoth a fun c => c.setHandle h { Handle.empty with st := st }).failBacks a h none
  match cause with
  | some f => s.drainFault a (some .hbm) f
  | none => s

/-- The handle form (R166 to R168). -/
def State.bindHandleStep (s : State) (a : Acc) (c : Ctx) (h : Nat) (va : Word) : Option State :=
  let later := s.rebinds a fun o => match o with | .bindHandle k _ => k = h | _ => false
  let st (x : OState) : OState := if later then .pending else x
  if !(s.waitingBacks a h).all s.complete then none
  else
  let s := (s.removeExport a.grp c h).mapBoth a fun c => c.retireHandle h
  let c' := c.retireHandle h
  match s.readRun a.who none (vaOf va) 64 with
  | .held => none
  | .poison => some ((s.finishAcc a).consumeAcc a)
  | .fault f _ v => some ((s.logFault f 0).badHandle a h (st .bad) (some ⟨f.code, f.detail, .ce, pcOf v⟩) |>.finishAcc a)
  | .ok b _ lost =>
    let s := (s.noteRead a .ce false lost).touchSpots a [.mem (vaOf va) none 64 64]
    match parseHandle c' (keyDie a.ctx) (wordsOf b) with
    | none => some ((s.badHandle a h (st .bad) none).finishAcc a)
    | some d =>
      let s := s.classBacks a h d.cls
      if d.level != .tile then some (((s.mapBoth a fun c => c.bindHandle h d 0 (st .bound)).failBacks a h (some .win)).finishAcc a)
      else
        match c'.firstFit ((d.size + 4095) / 4096) with
        | none => some ((s.badHandle a h (st .bad) (some ⟨0x03, 8, .ce, 0⟩)).finishAcc a)
        | some u =>
          if d.exp && s.exportRefused (keyDie a.ctx) c.tenant d.key then some ((s.badHandle a h (st .bad) none).finishAcc a)
          else
            let s := if d.exp then s.addExport (keyDie a.ctx) a.grp c h d.key else s
            some ((s.mapBoth a fun c => c.bindHandle h d u (st .bound)).finishAcc a)

/-- A side that waits for a command's binding is the tensor that it has bound, under the Mantle as it stood at the side's issue (07 R161; 12
R255); or nothing that a command accepts. -/
def CSide.bound (id : Nat) (d : Option TDesc) : CSide → CSide
  | .tpend tn k m =>
    if k = id then (match d with
      | some t => .tens t (if t.mb then some (m.read .reset t.ment) else none)
      | none => .tbad)
    else .tpend tn k m
  | x => x

def AccOp.bound (id : Nat) (d : Option TDesc) : AccOp → AccOp
  | .copy src dst e late cpw u steps => .copy (src.bound id d) (dst.bound id d) e late cpw u steps
  | .mdlt lent w x y e => .mdlt lent (w.bound id d) (x.bound id d) (y.bound id d) e
  | o => o

/-- The commands that wait for a binding take what it has come to, in both twins. -/
def State.boundSides (s : State) (a : Acc) (d : Option TDesc) : State :=
  (s.copies a).foldl (fun s b => { s with accs := s.accs.map fun (x : Acc) => { x with op := x.op.bound b.id d } }) s

/-- The tensor form (R160, R161). -/
def State.bindTensorStep (s : State) (a : Acc) (c : Ctx) (tn : Nat) (va : Word) : Option State :=
  let later := s.rebinds a fun o => match o with | .bindTensor k _ => k = tn | _ => false
  let put (s : State) (t : TensorId) : State :=
    s.mapBoth a fun c => { c with tensors := c.tensors.write .empty tn (if later then { t with st := .pending } else t) }
  match s.readRun a.who none (vaOf va) 128 with
  | .held => none
  | .poison => some ((s.finishAcc a).consumeAcc a)
  | .fault f _ v =>
    some (((put ((s.logFault f 0).boundSides a none) .bad).drainFault a (some .hbm) ⟨f.code, f.detail, .ce, pcOf v⟩).finishAcc a)
  | .ok b _ lost =>
    let s := (s.noteRead a .ce false lost).touchSpots a [.mem (vaOf va) none 128 64]
    some ((put (s.boundSides a (parseTensor c (wordsOf b))) (match parseTensor c (wordsOf b) with
      | some d => ⟨.bound, d⟩
      | none => .bad)).finishAcc a)

/-- A binding of a group that has ended reads its descriptor, and no more (03 R60; 14 R280). -/
def State.bindAlone (s : State) (a : Acc) (va : Word) (n : Nat) : Option State :=
  match s.readRun a.who none (vaOf va) n with
  | .held => none
  | .poison => some ((s.finishAcc a).consumeAcc a)
  | .fault f _ _ => some ((s.logFault f 0).finishAcc a)
  | .ok _ _ lost => some (((s.noteRead a .ce false lost).touchSpots a [.mem (vaOf va) none n 64]).finishAcc a)

/-- BINDING_COMPLETE. -/
def State.bindStep (s : State) (id : Nat) : Option State :=
  s.settled id fun s a =>
    if !s.depsDone a || !s.complete a then none
    else match a.op, s.accCtx a with
      | .bindHandle h va, some c => s.bindHandleStep a c h va
      | .bindTensor tn va, some c => s.bindTensorStep a c tn va
      | .bindHandle _ va, none => s.bindAlone a va 64
      | .bindTensor _ va, none => s.bindAlone a va 128
      | _, _ => none

def execBindingComplete (id : Nat) (s : State) : Host.Outcome State Fault Refusal := .next ((s.bindStep id).getD s)

end Sys2Proof.Machine
end

