-- ==== Sys2Proof/Machine/Engine.lean ====
section
/-! DEFINITION. The copy engine's copies, unit by unit (09 R197, R199, R200; 16 R324 to R330; 11 R232), and CPFILL (08 R170). -/

namespace Sys2Proof.Machine

/-! ## Objects that were PENDING (16 R323) -/

/-- The path of a copy's destination, for a failure that no unit names. -/
def State.sidePath (s : State) (a : Acc) (c : Ctx) (cpw : Bool) : CSide → Option Path
  | .virt va => s.reachPath a.who none va
  | .hnd h _ => if cpw || !c.isTile h then some .win else some .tile
  | .win .. => some .win
  | .tens t _ => if t.handle.isSome then some .tile else s.reachPath a.who none t.baseAddr
  | .tpend .. | .tbad => some .hbm

/-- The side as it stands once its binding is complete. -/
def State.settledSide (s : State) (a : Acc) (c : Ctx) : CSide → CSide
  | .hnd h off =>
    let d := (c.handle h).desc
    if d.level = .tile then .hnd h off else .win h (s.targetOf a.ctx c d) off d.alw
  | x => x

/-- A side whose object did not come to be bound. -/
def CSide.unbound (c : Ctx) : CSide → Bool
  | .hnd h _ => (c.handle h).desc.size = 0
  | .tens t _ => t.handle.any fun h => (c.handle h).desc.size = 0
  | .tpend .. | .tbad => true
  | _ => false

/-- A counter beside a destination that proves to be backed by a handle (16 R329). -/
def CSide.countRefused (e : Tab Word) : CSide → Bool
  | .tens t _ => t.handle.isSome && stagedE e 7 != 0
  | _ => false

/-- Checks 3, 4 and 6 for objects that were PENDING at issue. -/
def CSide.lateOk (c : Ctx) (k : CpKind) (e : Tab Word) (src dst : CSide) : Bool :=
  let n := copySize src dst e
  !src.unbound c && !dst.unbound c && !dst.countRefused e && src.check k c e false n = .ok && dst.check k c e true n = .ok

/-! ## What units send -/

/-- One counter arrival of a unit (R200), after the context's earlier operations on the word (R193). -/
def State.spawnCount (s : State) (a : Acc) (e : Tab Word) (unit n : Nat) (deps : List Nat) (path : Option Path) : State :=
  let va := stagedE e 7
  let earlier := (s.accs.filter fun x => x.ctx = a.ctx && x.grp = a.grp && x.order < a.order
    && x.op.word?.any fun v => v.toNat / 8 = va.toNat / 8).map (·.id)
  if va = 0 then s else s.spawn a (2 * unit + 2) (deps ++ earlier) none (.count va n path)

/-- Change the copy's own progress, in both copies. -/
def State.setCopy (s : State) (a : Acc) (src dst : CSide) (e : Tab Word) (cpw : Bool) (unit steps : Nat) : State :=
  s.mapAcc a fun x => { x with op := .copy src dst e false cpw unit steps }

/-- Progress of a command that stops on a fault: no unit and no version step follows. -/
def stopped : Nat := 2 ^ 40

/-! ## One unit -/

/-- The unit of a window destination goes out as a posted store of its stream; none where OUT has reached LIMIT (06 R145). -/
def State.sendUnit (s : State) (a : Acc) (c : Ctx) (e : Tab Word) (unit h : Nat) (t : Target) (off alw : Nat) (data : List Byte) :
    Option State :=
  if !c.mayPost alw then none
  else
    let id := s.nextId
    let s := ((s.irreversible a.who).raiseOut a alw).sendStore a none (2 * unit + 1) h t (off + 64 * unit) alw data
    some (s.spawnCount a e unit 64 [id] (some .win))

/-- What the twin's copy of the command reads where the leader's reads some bytes: its own handles' bytes (03 R66). -/
def State.twinRead (s : State) (a : Acc) (l : List Spot) : Option (Acc × List Byte) :=
  (s.twinAcc a).bind fun b => (s.accCtx b).bind fun tc => match s.readSpots b tc l with
    | .ok d _ _ => some (b, d)
    | _ => none

/-- A twin's own bytes go into its own handles. -/
def State.writeTwin (s : State) (b : Acc) (l : List (Spot × List Byte)) : State :=
  l.foldl (fun s p => match p.1 with
    | .tile h off _ => s.mapOne b fun c => c.writeOver h off p.2
    | _ => s) s

/-- Unit u: its 64 bytes are read, and written at the destination (R197). Its source is read before it can leave. What would leave a pair with
different bytes in its twins is a silent error (03 R66, R67). -/
def State.copyUnit (s : State) (a : Acc) (c : Ctx) (src dst : CSide) (e : Tab Word) (cpw : Bool) (u steps : Nat) : Option State :=
  let from_ := src.spots e (64 * u) 64
  let there := dst.spots e (64 * u) 64
  let stop (s : State) : Option State := some (s.setCopy a src dst e cpw stopped stopped)
  let next (s : State) : State := s.setCopy a src dst e cpw (u + 1) steps
  match s.readSpots a c from_ with
  | .held => none
  | .poison => some ((s.finishAcc a).consumeAcc a)
  | .fault f _ va => stop ((s.logFault f 0).drainFault a (s.spotPath a.who there) ⟨f.code, f.detail, .ce, pcOf va⟩)
  | .ok data bad lost =>
    let other := s.twinRead a from_
    let s := (s.noteRead a .ce bad lost).touchSpots a from_
    match dst, other.filter fun x => dst.leaves c && x.2 != data with
    | _, some (b, _) => some (s.silentError a b)
    | .win h t off alw, none => (s.sendUnit a c e u h t off alw data).map next
    | _, none =>
      match s.writeSpots a (dst.version != 0) (spotData there data) with
      | .held => none
      | .poison s => some ((s.finishAcc a).consumeAcc a)
      | .bad s l => stop (s.reportFaults a .ce (lowestFirst l))
      | .done s =>
        let s := match other with
          | some (b, d) => if d = data then s else s.writeTwin b (spotData there d)
          | none => s
        some (next (s.spawnCount a e u 64 [] (s.spotPath a.who there)))

/-! ## A copy -/

/-- COPY_EXECUTE of a copy that may go on: the first version step, a unit, the second step, or the end. -/
def State.copyStep (s : State) (a : Acc) (c : Ctx) (src dst : CSide) (e : Tab Word) (cpw : Bool) (u steps : Nat) : Option State :=
  let ver := dst.version
  if ver != 0 && steps = 0 then
    match s.addWord a.who (BitVec.ofNat 64 ver) 1 false with
    | .done s => some (s.setCopy a src dst e cpw u 1)
    | .held => none
    | .poison => some ((s.finishAcc a).consumeAcc a)
    | .bad f => some ((s.reportFaults a .ce [(s.reachPath a.who none (vaOf (BitVec.ofNat 64 ver)), f, ver)]).setCopy a src dst e cpw stopped stopped)
  else if 64 * u < copyLength src dst e then s.copyUnit a c src dst e cpw u steps
  else if s.sending a.id then none
  else if ver != 0 && steps = 1 then
    match s.addWord a.who (BitVec.ofNat 64 ver) 1 false with
    | .done s => some (s.finishAcc a)
    | .held => none
    | .poison => some ((s.finishAcc a).consumeAcc a)
    | .bad f => some ((s.reportFaults a .ce [(s.reachPath a.who none (vaOf (BitVec.ofNat 64 ver)), f, ver)]).finishAcc a)
  else some (s.finishAcc a)

/-- Earlier accesses of the class in which a copy reads the backing of its source, and the fences of that class that were in force at its issue
(R325; 09 R196). -/
def State.backWaits (s : State) (a : Acc) (c : Ctx) (src : CSide) : Bool :=
  let back := match src with
    | .hnd h _ => c.backClass 1 h
    | .tens t _ => t.handle.bind (c.backClass 1)
    | _ => none
  match back with
  | none => false
  | some k => ((s.ctxAccs a.ctx c).any fun x => x.order < a.order && x.cls = some k && !x.op.isWinStore && !x.performed)
    || c.fences.any fun f => f.order ≤ a.order && bit f.classes k && f.before.any s.outstanding

/-- A copy starts when its tokens, its class and the bindings allow it, and writes outside once it is released (R325). -/
def State.copyRun (s : State) (a : Acc) (src dst : CSide) (e : Tab Word) (late cpw : Bool) (u steps : Nat) : Option State :=
  let started := u != 0 || steps != 0
  if !(started || s.depsDone a) then none
  else
    match s.accCtx a with
    | none => some (s.finishAcc a)
    | some c =>
      if (dst.effect c && !a.released) || (!started && s.backWaits a c src) then none
      else if late then
        if CSide.lateOk c (if cpw then .window else .copy) e (s.settledSide a c src) (s.settledSide a c dst) then
          s.copyStep a c (s.settledSide a c src) (s.settledSide a c dst) e cpw u steps
        else some ((s.drainFault a (s.sidePath a c cpw dst) ⟨0x13, 1, .ce, 0⟩).finishAcc a)
      else s.copyStep a c src dst e cpw u steps

/-! ## CPFILL (16 R328) -/

/-- Granules read in turn; those read before a fault stay ahead for a DRAIN.TILE (08 R170). -/
def State.fillAhead (s : State) (a : Acc) (h off : Nat) (back : Int) : List Nat → Option State
  | [] => some (s.finishAcc a)
  | i :: rest =>
    let o := off + 4096 * i
    match s.readRun a.who none (back + (o : Nat)) 4096 with
    | .held => none
    | .poison => some ((s.finishAcc a).consumeAcc a)
    | .fault f _ va => some (((s.logFault f 0).drainFault a (some .tile) ⟨f.code, f.detail, .ce, pcOf va⟩).finishAcc a)
    | .ok b _ lost =>
      let s := ((s.noteRead a .ce false lost).touchSpots a [.mem (back + (o : Nat)) none 4096 1]).mapBoth a fun c =>
        let v := c.handle h
        c.setHandle h { v with ahead := v.ahead ++ [(o / 4096, b)] }
      s.fillAhead a h off back rest

def State.fillRun (s : State) (a : Acc) (h off len : Nat) (late : Bool) : Option State :=
  match s.accCtx a with
  | none => some (s.finishAcc a)
  | some c =>
    let v := c.handle h
    let fits := v.desc.level = .tile && v.desc.bmode != 0 && off % 4096 = 0 && off + len ≤ v.desc.size
    if late && !fits then some ((s.drainFault a (some .tile) ⟨0x13, 1, .ce, 0⟩).finishAcc a)
    else s.fillAhead a h off (vaOf v.desc.back) (List.range (len / 4096))

/-- COPY_EXECUTE (R197, R325). -/
def State.copyExecute (s : State) (id : Nat) : Option State :=
  s.settled id fun s a =>
    if !s.complete a then none
    else match a.op with
      | .copy src dst e late cpw u steps => s.copyRun a src dst e late cpw u steps
      | .cpfill h off len late => if s.depsDone a then s.fillRun a h off len late else none
      | _ => none

def execCopyExecute (id : Nat) (s : State) : Host.Outcome State Fault Refusal := .next ((s.copyExecute id).getD s)

end Sys2Proof.Machine
end

