-- ==== Sys2Proof/Machine/Issue.lean ====
section
/-! DEFINITION. RTE (17 R365) and EXIT (16 R333), the stop of a context at a boundary (03 R63, R64; 13 R274), and the issue of a bundle: its checks in
their order, its waits, its slots' effects and what follows them (05 R114; 13 R262 to R265, R273; 02 R22; 16 R345). -/

namespace Sys2Proof.Machine

/-! ## RTE (13 R271) -/

/-- A KIND 9 entry from a frame finds its bytes anew, under the identifier as it stands at its re-injection (13 R270); where that names no bytes
it writes none (DEDUCED, log entry 17). -/
def State.placed (s : State) (c : Ctx) (f : Inflight) : Inflight :=
  match f.act with
  | .tstore tn g idx h none =>
    { f with act := match s.tstoreRuns c tn g idx f.mask with
        | some (k, rs) => .tstore tn g idx k (some rs)
        | none => .tstore tn g idx h (some []) }
  | _ => f

/-- RTE goes on; when it has returned, the tensor stores that it re-injects find their bytes. -/
def State.returnStep (s : State) (key : Nat) : State :=
  let s := s.tryReturn key
  s.mapCtx key fun c => if c.tm then c else { c with inflight := c.inflight.map (s.placed c) }

/-- RTE (R365; 13 R271): the return begins under CTL.TFRAME as it stands; `State.returnStep` carries it on. -/
def rteOp : SlotOp where
  own := noCheck
  need := noNeed
  effect := fun s key _ => s.mapCtx key fun c => { c with rte := some c.tframe }

/-- The step of RTE: the bundle issues, and the return is made at once where nothing is outstanding. -/
def execRte (s : State) : Host.Outcome State Fault Refusal :=
  match issueSlot .rte rteOp s with
  | .next s' =>
    match s.cur with
    | some key => .next (if ((s.ctx? key).map (·.tm)).getD false then s'.returnStep key else s')
    | none => .next s'
  | r => r

/-! ## EXIT -/

/-- The last context of a group has exited: the dirty bytes of every handle that writes back go to BACK in class CLS (08 R172). That of a
handle whose binding is on its way follows the binding. -/
def State.exitWriteBacks (s : State) (g : Nat) : State :=
  let cs := s.ctxs.filter fun p => p.2.grp = g
  if !cs.all fun p => p.2.status = .exited then s
  else
    cs.foldl (fun s p => p.2.handles.foldl (fun s h =>
      let d := h.2.desc
      let users := s.usersOf p.1 p.2 (AccOp.usesHandle h.1)
      if h.2.st = .pending then s.addAcc p.1 none users [] (.writeBack h.1 .exit)
      else if d.level = .tile && d.bmode = 2 then
        s.addAcc p.1 (some d.cls) (s.classDeps p.1 p.2 (some d.cls) ++ users) (p.2.fenceDeps (some d.cls)) (.writeBack h.1 .exit)
      else s) s) s

/-- The context enters EXITED (R333): a load's fault still open is fatal (13 R272). -/
def State.leaveByExit (s : State) (key : Nat) : State :=
  match s.ctx? key with
  | none => s
  | some c =>
    match c.windows with
    | w :: _ => s.fatal key w.cause.code w.cause.detail c.tm
    | [] =>
      let s := s.setCtx key { c with
        status := .exited, exiting := false, loops := [],
        inflight := if c.tm then c.inflight.filter fun f => !f.prog else c.inflight,
        trapEntries := [] }
      ((s.leaveIssue key).leaseDrop key).exitWriteBacks c.grp

/-- EXIT: the other slots of the bundle issue; then the context is EXITED (R333). -/
def exitOp : SlotOp where
  own := noCheck
  need := noNeed
  effect := fun s key _ => s.mapCtx key fun c => { c with exiting := true }

def execExit (s : State) : Host.Outcome State Fault Refusal :=
  match issueSlot .exit exitOp s with
  | .next s' =>
    match s.cur with
    | some key => .next (s'.leaveByExit key)
    | none => .next s'
  | r => r

/-! ## Stopping at a boundary (03 R63, R64) -/

/-- The group's pre-emption request: none, ordinary, or forced. -/
def State.stopAsked (s : State) (c : Ctx) : Option Bool := ((s.group? c.grp).bind (·.stop)).map (·.2)

/-- A context stops (R47): its stall ends there (15 R309), and it gives up issue and the lease (R62). -/
def State.stopContext (s : State) (key : Nat) (forced : Bool) : State :=
  let s := (s.endStall key).mapCtx key fun c => { c with status := .stopped, leaseWait := none }
  ((s.leaveIssue key).leaseDrop key).trace key (pktPreempt (key % 4) false forced)

/-- Whether a context may stop between two bundles: any boundary when forced (13 R274), an empty loop stack otherwise (R63). A pair's
follower stops where its leader did (R67). -/
def State.stopsHere (s : State) (c : Ctx) : Option Bool :=
  if c.rte.isSome || c.exiting || c.status = .exited || c.status = .stopped then none
  else
    match s.stopAsked c, s.leaderOf c with
    | some true, _ => some true
    | some false, some (_, lc) =>
      if lc.status = .stopped && lc.issued = c.issued && lc.trapLog.length = c.trapLog.length then some false else none
    | some false, none => if !c.tm && c.loops.isEmpty then some false else none
    | none, _ => none

/-- Contexts of a group that are at a boundary stop at once. -/
def State.stopGroup (s : State) (g : Nat) : State :=
  (s.groupKeys g).foldl (fun s k => match s.ctx? k with
    | none => s
    | some c => match s.stopsHere c with
      | some f => s.stopContext k f
      | none => s) s

/-- The depth of the entry that loops back after a bundle at A (R345). -/
def loopDepth (a : Word) : List LoopEnt → Option Nat
  | [] => none
  | e :: rest => if e.last ≠ a then none else if 1 < e.trip then some (rest.length + 1) else loopDepth a rest

/-! ## Every slot's meaning -/

/-- A device step has no place in a bundle. -/
def idleOp : SlotOp where
  own := noCheck
  need := noNeed
  effect := fun s _ _ => s

/-- The meaning of each instruction at issue. -/
def slotOp : Instr → SlotOp
  | .add d a b => addOp d a b
  | .addImm d a imm => addImmOp d a imm
  | .sub d a b => subOp d a b
  | .subImm d a imm => subImmOp d a imm
  | .mul d a b => mulOp d a b
  | .mulImm d a imm => mulImmOp d a imm
  | .mulh u d a b => mulhOp u d a b
  | .mulhImm u d a imm => mulhImmOp u d a imm
  | .div u d a b => divOp u d a b
  | .divImm u d a imm => divImmOp u d a imm
  | .mod u d a b => modOp u d a b
  | .modImm u d a imm => modImmOp u d a imm
  | .and d a b => andOp d a b
  | .andImm d a imm => andImmOp d a imm
  | .andn d a b => andnOp d a b
  | .andnImm d a imm => andnImmOp d a imm
  | .or d a b => orOp d a b
  | .orImm d a imm => orImmOp d a imm
  | .xor d a b => xorOp d a b
  | .xorImm d a imm => xorImmOp d a imm
  | .shl d a b => shlOp d a b
  | .shlImm d a imm => shlImmOp d a imm
  | .shr d a b => shrOp d a b
  | .shrImm d a imm => shrImmOp d a imm
  | .sar d a b => sarOp d a b
  | .sarImm d a imm => sarImmOp d a imm
  | .rotl d a b => rotlOp d a b
  | .rotlImm d a imm => rotlImmOp d a imm
  | .min u d a b => minOp u d a b
  | .minImm u d a imm => minImmOp u d a imm
  | .max u d a b => maxOp u d a b
  | .maxImm u d a imm => maxImmOp u d a imm
  | .cmp c u d a b => cmpOp c u d a b
  | .cmpImm c u d a imm => cmpImmOp c u d a imm
  | .sel d a b c => selOp d a b c
  | .mov d a => movOp d a
  | .clz d a => clzOp d a
  | .ctz d a => ctzOp d a
  | .popc d a => popcOp d a
  | .bswap d a => bswapOp d a
  | .sext w d a => sextOp w d a
  | .zext w d a => zextOp w d a
  | .li d imm => liOp d imm
  | .lih d imm => lihOp d imm
  | .br off => brOp off
  | .brc c a off => brcOp c a off
  | .bl off => blOp off
  | .ret => retOp
  | .loopImm n last => loopImmOp n last
  | .loopReg a last => loopRegOp a last
  | .loopx => loopxOp
  | .stg e a => stgOp e a
  | .gts d e => gtsOp d e
  | .spl d idx => splOp d idx
  | .sps a idx => spsOp a idx
  | .sysr d idx => sysrOp d idx
  | .sysw idx a => syswOp idx a
  | .trap code => trapOp code
  | .rte => rteOp
  | .exit => exitOp
  | .flgclr sets => flgclrOp sets
  | .pop heads => popOp heads
  | .hold n => holdOp n
  | .brk => brkOp
  | .mark => markOp
  | .vadd h a b => vaddOp h a b
  | .vsub h a b => vsubOp h a b
  | .vmul h a b => vmulOp h a b
  | .vfma h a b c => vfmaOp h a b c
  | .vfms h a b c => vfmsOp h a b c
  | .vfnma h a b c => vfnmaOp h a b c
  | .vmin h a b => vminOp h a b
  | .vmax h a b => vmaxOp h a b
  | .vabs h a => vabsOp h a
  | .vneg h a => vnegOp h a
  | .vabd h a b => vabdOp h a b
  | .vcmp h ty c a b => vcmpOp h ty c a b
  | .vsel h a b => vselOp h a b
  | .vand h a b => vandOp h a b
  | .vor h a b => vorOp h a b
  | .vxor h a b => vxorOp h a b
  | .vandn h a b => vandnOp h a b
  | .vnot h a => vnotOp h a
  | .vshl h a b => vshlOp h a b
  | .vshr h a b => vshrOp h a b
  | .vsar h a b => vsarOp h a b
  | .vclmul hi h a b => vclmulOp hi h a b
  | .vpopc h a => vpopcOp h a
  | .vclz h a => vclzOp h a
  | .vcvt src h a => vcvtOp src h a
  | .vqtxb src tn h a b => vqtxbOp src tn h a b
  | .vdqtxb src tn h a k => vdqtxbOp src tn h a k
  | .vrcp h a => vrcpOp h a
  | .vrsq h a => vrsqOp h a
  | .vsqrt h a => vsqrtOp h a
  | .vexp2 h a => vexp2Op h a
  | .vlog2 h a => vlog2Op h a
  | .vtanh h a => vtanhOp h a
  | .vsum h a => vsumOp h a
  | .vscan fn h a => vscanOp fn h a
  | .vmaxr h a => vmaxrOp h a
  | .vperm h a b => vpermOp h a b
  | .vbcast k h a => vbcastOp k h a
  | .vins k h a b => vinsOp k h a b
  | .vext k h a => vextOp k h a
  | .viota h => viotaOp h
  | .vrng h l hi k => vrngOp h l hi k
  | .vmov h a => vmovOp h a
  | .vslide dist h a b => vslideOp dist h a b
  | .vpack sat src h a b => vpackOp sat src h a b
  | .vunpk hi src h a => vunpkOp hi src h a
  | .vcmpr h a => vcmprOp h a
  | .mand h a b => mandOp h a b
  | .mor h a b => morOp h a b
  | .mxor h a b => mxorOp h a b
  | .mnot h a => mnotOp h a
  | .mpopc h a => mpopcOp h a
  | .mfirst h a => mfirstOp h a
  | .mset h n => msetOp h n
  | .mma cell wb src dst acc fmt => mmaOp cell wb src dst acc fmt
  | .mmaVirtual cell wb x dst acc fmt => mmaVirtualOp cell wb x dst acc fmt
  | .mdlt lent tnw give after => mdltOp lent tnw give after
  | .mwld wb tn give after => mwldOp wb tn give after
  | .macz dst n => maczOp dst n
  | .munf h => munfOp h
  | .mlease => mleaseOp
  | .mrel => mrelOp
  | .xpush a => xpushOp a
  | .xpop d => xpopOp d
  | .xcfg => xcfgOp
  | .ld l ty d h bs off => ldOp l ty d h bs off
  | .vld l d h bs off p => vldOp l d h bs off p
  | .vldt l d tn is mr p => vldtOp l d tn is mr p
  | .vgath l d tn idx mr p => vgathOp l d tn idx mr p
  | .st t ty v h bs off => stOp t ty v h bs off
  | .vst t v h bs off p => vstOp t v h bs off p
  | .vstt t v tn is p => vsttOp t v tn is p
  | .vscat t v tn idx p => vscatOp t v tn idx p
  | .cp give after oc => cpOp give after oc
  | .cpBindHandle give after oc => cpBindHandleOp give after oc
  | .cpBindTensor give after oc => cpBindTensorOp give after oc
  | .cpw give after oc => cpwOp give after oc
  | .cpwb give after oc => cpwbOp give after oc
  | .cpfill give after oc => cpfillOp give after oc
  | .atom op oc lsel rd ty => atomOp op oc lsel rd ty
  | .red op oc ty => redOp op oc ty
  | .arrive rel classes => arriveOp rel classes
  | .waitph acq classes => waitphOp acq classes
  | .waitcnt acq classes => waitcntOp acq classes
  | .drain path => drainOp path
  | .fence scope classes => fenceOp scope classes
  | .pagereq => pagereqOp
  | .launch => launchOp
  | .signal vec => signalOp vec
  | .shoot kind => shootOp kind
  | .shmap => shmapOp
  | .lnctlInval lent => lnctlInvalOp lent
  | .lnctlInvalall => lnctlInvalallOp
  | .lnctlSetref lent => lnctlSetrefOp lent
  | .mdltExecute .. | .leaseTimeout .. | .copyExecute .. | .bindingComplete .. | .resultLands .. | .replyArrive ..
  | .messageDepart .. | .messageArrive .. | .effectRelease .. | .effectReleaseWall .. | .contextSwitch ..
  | .atomicApply .. | .reductionContribution .. | .phaseArrival .. | .counterArrival .. | .phaseWaitComplete ..
  | .counterWaitComplete .. | .drainComplete .. | .windowAccessAtTarget .. | .windowStoreAck .. | .launchAppend ..
  | .signalDeliver .. | .pagereqRecord .. | .shmapInstall .. | .homeFenceRequest .. | .queuedAtomicResend ..
  | .qtailWrite .. | .queueEnable .. | .queueDisable .. | .queueThaw .. | .queueFlush .. | .queueCmdRefused ..
  | .registerWrite .. | .launchEntryFetch .. | .fenceEntryConsume .. | .priorityAging | .schedulingPeriod
  | .groupPlace .. | .forcedPreempt .. | .groupSave .. | .nodeComplete .. | .nodeHang .. | .uncorrectableConsumed ..
  | .windowPreciseFault .. | .interruptTaken .. | .hostSignalWrite .. | .cpendClear .. | .spendClear ..
  | .imaskWrite .. | .hostMemoryRead .. | .hostMemoryWrite .. | .tenantNew .. | .tenantDel .. | .grantMem ..
  | .setRoot .. | .mantleGrant .. | .mantleDrop .. | .counters .. | .traceBind .. | .quote .. | .quarantine ..
  | .logRead .. | .mailboxUnknown .. | .tileDiagnostic .. | .strikeReport .. | .undoLogRetire
  | .targetedRefreshDone .. | .linkReplay .. | .ucieRetry .. | .ualinkStationRetrain .. | .ualinkUnsupported ..
  | .peerAccessArrive .. | .powerOn .. | .traceSyncPeriod .. | .traceSamplePeriod .. | .btimeExhausted ..
  | .powerRemoval => idleOp

/-! ## The checks of a bundle -/

/-- What the checks of a bundle come to. -/
inductive Verdict where
  | ok (b : Bundle)
  | trap (i : Option Instr) (cause : Cause) (sw : BitVec 16)
  | wait (cause : Nat)
  deriving DecidableEq, Repr

/-- Own checks of the slots in order (R114). -/
def ownChecks (s : State) (key : Nat) (c : Ctx) : List Instr → Option Instr × Chk
  | [] => (none, .ok)
  | i :: rest =>
    match (slotOp i).own s key c with
    | .ok => ownChecks s key c rest
    | r => (some i, r)

/-- BRK of the header (R94). -/
def brkBit (w : Nat) : Bool := bf w 495 495 = 1

/-- BRK, decoding, privilege, POP, own checks, then the heads that POP alone names (R114; 13 R263). No rule places those heads' checks of
02 R39 among the others or gives their SLOT: they come after every slot's own, with SLOT 15 (DESIGN CHOICE, log entry 58). -/
def State.verdict (s : State) (key : Nat) (c : Ctx) (w : Nat) : Verdict :=
  if brkBit w && !c.skipBrk then .trap none ⟨0x0F, 0, .none, 0⟩ 0
  else
    match decode c.acct w with
    | .error (sl, e) => .trap none ⟨decodeCause e, 0, sl, 0⟩ 0
    | .ok b =>
      let is := b.slots.map (·.2)
      match is.find? (privileged c) with
      | some i => .trap (some i) ⟨0x0E, 0, i.slot, 0⟩ 0
      | none =>
        match popOwn b.hdr.pop c with
        | .trap cause sw => .trap none cause sw
        | _ =>
          match ownChecks s key c is with
          | (i, .trap cause sw) => .trap i cause sw
          | (_, .wait n) => .wait n
          | (_, .ok) =>
            match popReady b.hdr.pop c with
            | .trap cause sw => .trap none cause sw
            | .wait n => .wait n
            | .ok => .ok b

/-- Twin coupling (03 R66): the twin has issued its bundle 32 lc back, in program and trap time together. -/
def State.coupled (s : State) (c : Ctx) : Bool :=
  match s.twinOf c with
  | none => true
  | some (_, t) => t.status = .exited || c.comb < t.comb + 32

/-- Waits for capacity of the slots in order, each after what the earlier ones take. -/
def needChecks (s : State) (key : Nat) (c : Ctx) : List Need → List Instr → Option Instr × Chk
  | _, [] => (none, .ok)
  | l, i :: rest =>
    let n := (slotOp i).need s key c
    match needChk s key c l n with
    | .ok => needChecks s key c (l ++ [n]) rest
    | r => (some i, r)

/-! ## Causes before the bundle -/

/-- The window-precise fault that is due: that of the oldest load, two bundles having issued since (13 R264). -/
def Ctx.windowDue (c : Ctx) : Option Trap :=
  match c.windows with
  | w :: _ => if w.num + 3 ≤ c.issued then some w.trap else none
  | [] => none

/-- The first cause at the trap point (13 R263, R265): a restored one, whose SRC is then 4, a window, a landing with MWLD faults first. -/
def Ctx.dueTrap (c : Ctx) : Option Trap :=
  match c.restored with
  | t :: _ => some { t with src := 4 }
  | [] => c.windowDue.or ((c.landed.find? fun t => t.cause.code != 0x11).or c.landed.head?)

def Ctx.interruptOf (c : Ctx) (code : Nat) : Trap := ⟨⟨code, 0, .none, 0⟩, 5, c.pc, 0, c.issued⟩

/-- A pending interrupt, HOSTSIG first (13 R263). -/
def Ctx.interrupt (c : Ctx) : Option Trap :=
  if c.tm then none
  else if c.hostsig then some (c.interruptOf 0x16)
  else if c.sample then some (c.interruptOf 0x15)
  else none

/-- A load whose translation is not known yet (R264, R265). -/
def Pend.unknown (p : Pend) : Bool := !p.known && p.reply.isNone

/-- What trap entry waits for: every result due by its lc, since the trap point comes after those have landed (R262; 02 R33), and the
translation of every load in its window (R265). -/
def Ctx.entryWait (c : Ctx) : Option Nat :=
  if (c.overdue c.time).isEmpty then if c.pend.any Pend.unknown then some 12 else none else some 1

/-- The third bundle after a load waits until the load's translation is known (R264). -/
def Ctx.windowWaits (c : Ctx) : Bool := c.pend.any fun p => p.unknown && p.num + 3 ≤ c.issued

/-! ## Pairs (03 R66, R67; log entry 11) -/

/-- What a context of a pair does at its place in program order: a leader, or a context without a twin, goes its own way; a follower does what
its leader did there. -/
inductive Course where
  | own
  | issue
  | trap (code : Nat)
  | wait (cause : Nat)
  | broken
  deriving DecidableEq, Repr

/-- The follower's course: the trap that its leader took there, the bundle when the leader has issued it, else a wait. It gives up issue where
the leader has. A trap of the leader at a place that the follower has passed breaks the pair. -/
def State.course (s : State) (c : Ctx) : Course :=
  match s.leaderOf c with
  | none => .own
  | some (_, lc) =>
    match lc.trapLog[c.trapLog.length]? with
    | some m => if m.1 = c.issued then .trap m.2.1 else if c.issued < m.1 then .issue else .broken
    | none =>
      if c.issued < lc.issued then .issue
      else .wait (match lc.stall with
        | some (_, n) => if lc.status = .blocked then n else 11
        | none => 11)

/-- The interrupt that a context may take: of a pair, the leader takes those of both, and the follower the same at the same place. -/
def State.interruptFor (s : State) (c : Ctx) : Option Trap :=
  if c.tm then none
  else match s.course c with
  | .own =>
    match s.followerOf c with
    | some (_, tc) => { c with hostsig := c.hostsig || tc.hostsig, sample := c.sample || tc.sample }.interrupt
    | none => c.interrupt
  | .trap code => if code = 0x15 || code = 0x16 then some (c.interruptOf code) else none
  | _ => none

/-- An interrupt is pending no more, in either copy of a pair. -/
def Ctx.taken (c : Ctx) (code : Nat) : Ctx := if code = 0x16 then { c with hostsig := false } else { c with sample := false }

def State.takenIn (s : State) (key : Nat) (c : Ctx) (code : Nat) : State :=
  match s.course c, s.followerOf c with
  | .own, some (k, _) => (s.mapCtx key fun c => c.taken code).mapCtx k fun c => c.taken code
  | .own, none => s.mapCtx key fun c => c.taken code
  | _, _ => s

/-! ## Waits -/

/-- What holds the context at its cycle before any bundle: R33, a store that waits for its version word's addition (11 R232), or a load
whose translation must be known first (13 R264). -/
def State.cycleWait (s : State) (key : Nat) (c : Ctx) : Option Nat :=
  if c.nextLanding.any c.landingBlocked || (c.rte.isNone && s.bundleBlocked key c) then some 1
  else if c.nextLanding.any (s.bumpBlocked c) then some 12
  else if c.rte.isNone && c.windowWaits then some 12
  else none

/-- The wait that a bundle meets, if any. -/
def State.bundleWait (s : State) (key : Nat) (c : Ctx) : Option Nat :=
  match s.course c with
  | .wait n => some n
  | _ =>
    match s.fetch key c with
    | .ok w =>
      match (s.seen c).verdict key c w with
      | .wait n => some n
      | .ok b => match (needChecks s key c [] (b.slots.map (·.2))).2 with
        | .wait n => some n
        | _ => none
      | _ => none
    | _ => none

/-- The wait that a context meets at its cycle, if any. -/
def State.waitNow (s : State) (key : Nat) (c : Ctx) : Option Nat := (s.cycleWait key c).or (s.bundleWait key c)

/-- A BLOCKED context whose wait for a reply, a message, a credit or its pair's leader is satisfied (R47; log entry 8). Leases, drains, phases
and counters have steps of their own. -/
def State.satisfied (s : State) (key : Nat) (c : Ctx) : Bool :=
  match c.stall with
  | some (_, n) => c.status = .blocked && (n = 1 || n = 2 || n = 3 || (s.leaderOf c).isSome) && s.waitNow key c != some n
  | none => false

/-- CONTEXT_SWITCH: with no holder of issue, the satisfied contexts are READY and the selector chooses one (R49). -/
def State.switchStep (s : State) (tile : Nat) : Option State :=
  if (s.tile tile).holder.isSome then none
  else
    let s := (s.tileCtxs tile).foldl (fun s p => if s.satisfied (tile * 4 + p.1) p.2 then s.wake (tile * 4 + p.1) else s) s
    if (s.tileCtxs tile).any fun p => p.2.status = .ready then some (s.select tile) else none

def execContextSwitch (tile : Nat) (s : State) : Host.Outcome State Fault Refusal := .next ((s.switchStep tile).getD s)

/-! ## Issue -/

/-- The undo log keeps the context as it was before the bundle, its wait not yet over: a bundle that is executed again waits again (14 R286,
R287; 18 R407). The bytes that it takes have come through the decoders. -/
def State.snapshot (s : State) (key : Nat) (c : Ctx) : State :=
  { s with undo := s.undo ++ [⟨s.clock, key, { c with waitDone := false, flaws := [] }, 0⟩] }

/-! ### The undo log's room (14 R287) -/

/-- Old bytes that a landing takes into the log. -/
def Act.logBytes (m : Mask) : Act → Nat
  | .scalar _ | .stage _ | .ctl _ | .spill _ | .flgclr _ => 8
  | .row .. | .mx .. => 512
  | .mask _ => 64
  | .hbytes .. => ((List.range 512).filter (bit m)).length
  | .macz _ n => 512 * n
  | .tstore _ _ _ _ (some l) => (l.map (·.2.2)).foldl (· + ·) 0
  | .tstore .. => 512
  | .unfold => 24
  | .port _ | .latchOnly => 0

def Inflight.logBytes (f : Inflight) : Nat := f.act.logBytes f.mask + if f.latch.isSome then 512 else 0

/-- The same of a reply: a weight buffer's image with its scale store, or a register with its latch and residency mask. -/
def Pend.logBytes (p : Pend) : Nat :=
  (if p.wb.isSome then 32768 + 4096 else 0) + (p.act.map (Act.logBytes 0)).getD 0 + (if p.latch.isSome then 512 else 0)
    + (if p.mres.isSome then 64 else 0) + (p.gran.map fun g => 4096 * g.2.length).getD 0

/-- What a bundle takes of the log: what its results will write, and the skid entries that it pops (DEDUCED, log entry 49). -/
def bundleBytesLogged (old new : Ctx) : Nat :=
  ((new.inflight.filter fun f => !old.inflight.any fun g => g.uid = f.uid).map Inflight.logBytes).foldl (· + ·) 0
    + ((new.pend.filter fun p => !old.pend.any fun q => q.uid = p.uid).map Pend.logBytes).foldl (· + ·) 0
    + (((List.range 8).map fun q => (old.head q).skid.length - (new.head q).skid.length).foldl (· + ·) 0) * 576

/-- What the log of a tile holds: entries of the last 64 ns. -/
def State.logHeld (s : State) (tile : Nat) : Nat :=
  ((s.undo.filter fun u => keyTile u.key = tile && s.clock < u.clock + 96).map (·.bytes)).foldl (· + ·) 0

/-- The undo log of a tile holds 160 KiB. -/
def logRoom : Nat := 163840

/-- The depth of the entry that loops back when a LOOPX takes its loop's end (16 R344). -/
def leaveDepth : List LoopEnt → Option Nat
  | [] => none
  | e :: rest => loopDepth e.last rest

/-- After a bundle at A: the counter advances, the next bundle is named, and a loop-back may be a boundary, one that a LOOPX in `old`'s loops
makes too (02 R22; 16 R344, R345; R63). A pair's follower stops only where its leader has. -/
def State.afterBundle (s : State) (key : Nat) (old : Ctx) (leaves : Bool) : State :=
  match s.ctx? key with
  | none => s
  | some c =>
    let a := old.pc
    let r := match c.next with
      | some v => (c.loops, v)
      | none => let e := loopEnd a c.loops; (e.1, e.2.getD (pcOf (bundleAt a 1)))
    let depth := if leaves then leaveDepth old.loops else if c.next.isSome then none else loopDepth a c.loops
    let s := s.setCtx key { c.advance 1 with
      loops := r.1, pc := r.2, next := none, issued := c.issued + 1, skipBrk := false, blockedAt := none,
      idleTill := Nat.max c.idleTill (s.clock + 1) }
    let s := s.mapGroup c.grp fun g => { g with issued := s.clock }
    if c.exiting then s.leaveByExit key
    else if c.rte.isSome then s.returnStep key
    else
      match depth, s.stopAsked c with
      | some d, some false => if !c.tm && d ≤ c.pk.plevel && (s.leaderOf c).isNone then s.stopContext key false else s
      | _, _ => s

/-! ### Poisoned units that a bundle reads (14 R280) -/

/-- The pieces that a load reads. -/
def State.loadPlan (s : State) (c : Ctx) : Instr → Option Plan
  | .ld _ ty _ h bs off => some (ldPlan ty h bs off c)
  | .vld _ _ h bs off p => some (vldPlan h bs off p c)
  | .vldt _ _ tn is _ p => some (s.linearPlan c (c.tensor tn).desc is (c.onMask p c.lanes))
  | .vgath _ _ tn ix _ p => some (s.gatherPlan (c.tensor tn).desc (c.onMask p c.lanes) (c.indexLanes ix))
  | _ => none

/-- Whether a place in a handle is an element of the virtual row that a push reads (10 R218). -/
def Ctx.unfoldReads (c : Ctx) (h a : Nat) : Instr → Bool
  | .mmaVirtual _ _ x _ _ f => c.unf.any fun u => u.h = h && (List.range (128 * f.kd)).any fun k =>
      let b := f.ty.bits / 8
      (u.element (128 * f.kd) (field (c.readE 24) 31 0) x (field (c.readE 24) 63 32) k).any fun i =>
        u.offb + i * b < a + 64 && a < u.offb + (i + 1) * b
  | _ => false

/-- Whether an instruction reads a unit of the context's storage. -/
def State.readsUnit (s : State) (c : Ctx) (i : Instr) : CUnit → Bool
  | .row d _ => (readsOf c i).contains (.v d)
  | .weights b _ | .scales b _ => (readsOf c i).contains (.wb b)
  | .skid q n _ => (readsOf c i).contains (.q q) && (c.head q).skid.head?.any fun m => m.seq.toNat = n
  | .spill u => match i with
    | .spl _ k => !c.tm && k / 8 = u
    | _ => false
  | .scratch u => match i with
    | .spl _ k => c.tm && k / 8 = u
    | _ => false
  | .handle h u => (s.loadPlan c i).any (fun pl => pl.h = some h && c.isTile h && pl.chunks.any fun p => 0 < unitShare u p.va.toNat p.len)
      || c.unfoldReads h (64 * u) i

/-- Whether a bundle reads a poisoned unit: the node consumes the error. -/
def State.meetsBad (s : State) (c : Ctx) (is : List Instr) : Bool := c.bad.any fun u => is.any fun i => s.readsUnit c i u

/-- What precedes a bundle's effects: its stall ends, its fetch has read memory, the undo log keeps the context, and the trace counts the
bundle. -/
def State.prelude (s : State) (key : Nat) (c : Ctx) : State :=
  { ((((s.endStall key).touchFetch key c).snapshot key c).traceIssue key) with cur := some key }

/-- The effects of a bundle: those of its slots in their order, and of its header, under the context as it stands at the bundle's lc. -/
def State.bundleEffects (s : State) (key : Nat) (c : Ctx) (b : Bundle) : State :=
  (b.slots.map (·.2) ++ b.hdr.instrs).foldl (fun s i => (slotOp i).effect s key c) s

/-- The units that a bundle reads are put right where they hold bits in error (14 R279). -/
def State.correctRead (s : State) (key : Nat) (c : Ctx) (is : List Instr) : State :=
  s.correctUnits key fun u => is.any fun i => s.readsUnit c i u

/-- The copy that the undo log took for the bundle counts the bytes that it takes. -/
def State.countLog (s : State) (key n : Nat) : State :=
  { s with undo := s.undo.map fun u => if u.key = key && u.clock = s.clock then { u with bytes := n } else u }

/-- The bundle takes its room in the undo log, or waits for it with issue held (14 R287); s0 is the state that the prelude gives. A bundle whose
own entries are more than the log holds (a VGATH that fills more than 40 granules) would wait for ever by R287, which gives its stall no end: it
issues once the log is empty (DESIGN CHOICE, log entry 49). -/
def State.logAndIssue (s s0 : State) (key : Nat) (c : Ctx) (b : Bundle) : State :=
  let s2 := (s0.noteView c .bundle c.trapLog.length).correctRead key c (b.slots.map (·.2))
  match s2.ctx? key with
  | none => s
  | some c2 =>
    let t := s2.bundleEffects key c2 b
    let n := ((t.ctx? key).map (bundleBytesLogged c2)).getD 0
    let held := s0.logHeld (keyTile key)
    if held = 0 || held + n ≤ logRoom then (t.afterBundle key c2 (b.slots.any fun p => p.2 = .loopx)).countLog key n
    else s.stallOn key 9

/-- Capacity, then issue from the state s0 that the prelude gives. A pair's follower that comes to issue a bundle before which its leader
trapped breaks the pair (R67). -/
def State.tryIssue (s s0 : State) (key : Nat) (c : Ctx) (b : Bundle) : State :=
  match needChecks s0 key c [] (b.slots.map (·.2)) with
  | (i, .wait 5) => s.leaseAwait key (i != some .mlease)
  | (_, .wait n) => s.stallOn key n
  | _ =>
    if s.trapMissed c then s.breakPair c.node
    else if !s0.coupled c then s.stallOn key 11
    else if s.meetsBad c (b.slots.map (·.2)) then s.consumeError c.node
    else s.logAndIssue s0 key c b

/-- The trap that a bundle's check raises, once nothing holds its entry (13 R262, R265). -/
def State.verdictTrap (s : State) (key : Nat) (c : Ctx) (i : Option Instr) (cause : Cause) (sw : BitVec 16) : State :=
  match c.entryWait with
  | some n => s.stallOn key n
  | none =>
    let s := (s.endStall key).touchFetch key c
    match i with
    | some i => s.slotTrap key i cause sw
    | none => s.raiseOwn key cause sw 0

/-- The bundle at PC, when nothing lands and no earlier cause is due. A trap or a wait leaves the state without the prelude. -/
def State.tryBundle (s : State) (key : Nat) (c : Ctx) : State :=
  match s.fetch key c with
  | .fault f => (s.logFault f 0).verdictTrap key c none ⟨f.code, f.detail, .none, c.pc⟩ 0
  | .poison => s.consumeError c.node
  | .ok w =>
    let s0 := s.prelude key c
    match s0.ctx? key with
    | none => s
    | some c0 =>
      match (s0.seen c0).verdict key c0 w with
      | .trap i cause sw => s.verdictTrap key c i cause sw
      | .wait n => s.stallOn key n
      | .ok b => s.tryIssue s0 key c0 b

/-- The context is at a trap point at which it may trap: nothing holds it at its cycle, it does not stop here, every load in its window is
known and every due result has landed, and a pair's follower knows what its leader did there. -/
def State.ready? (s : State) (key : Nat) (c : Ctx) : Bool :=
  (s.cycleWait key c).isNone && (s.stopsHere c).isNone && c.entryWait.isNone && (match s.course c with
    | .wait _ | .broken => false
    | _ => true)

/-- WINDOW_PRECISE_FAULT: the fault is taken at the trap point before the third bundle after the load's (13 R264). -/
def State.windowFaultStep (s : State) (key : Nat) : Option State :=
  match s.ctx? key with
  | none => none
  | some c =>
    if (c.status = .running || c.status = .trap) && c.rte.isNone && c.restored.isEmpty && s.ready? key c then
      c.windowDue.map fun t => (s.endStall key).enterTrap key t
    else none

def execWindowPreciseFault (key : Nat) (s : State) : Host.Outcome State Fault Refusal := .next ((s.windowFaultStep key).getD s)

/-- The bundle at PC raises no trap of its own (13 R273): it would issue, or wait. -/
def State.interruptible (s : State) (key : Nat) (c : Ctx) : Bool :=
  match s.fetch key c with
  | .ok w => match (s.seen c).verdict key c w with
    | .ok _ | .wait _ => true
    | .trap .. => false
  | _ => false

/-- INTERRUPT_TAKEN: at the first trap point of a RUNNING context at which no other cause is due (13 R273). -/
def State.interruptStep (s : State) (key : Nat) : Option State :=
  match s.ctx? key with
  | none => none
  | some c =>
    if c.status = .running && c.dueTrap.isNone && s.ready? key c && s.interruptible key c then
      (s.interruptFor c).map fun t => ((s.endStall key).takenIn key c t.cause.code).enterTrap key t
    else none

def execInterruptTaken (key : Nat) (s : State) : Host.Outcome State Fault Refusal := .next ((s.interruptStep key).getD s)

/-- The turn of a context that holds issue, once nothing may land and no interrupt is taken. -/
def State.turn (s : State) (key : Nat) : State :=
  match s.ctx? key with
  | none => s
  | some c =>
    match s.stopsHere c, s.cycleWait key c with
    | some f, _ => s.stopContext key f
    | none, some n => s.stallOn key n
    | none, none =>
      if c.rte.isSome then s.returnStep key
      else
        match s.course c, c.dueTrap with
        | .wait n, _ => s.stallOn key n
        | .broken, _ => s.breakPair c.node
        | _, some t => match c.entryWait with
          | some n => s.stallOn key n
          | none => (s.endStall key).enterTrap key t
        | _, none => s.tryBundle key c

end Sys2Proof.Machine
end

