-- ==== Sys2Proof/Machine/Dispatcher.lean ====
section
/-! DEFINITION. The dispatcher: entries and nodes (04 R72, R73, R76), LAUNCH (R89, R90), aging and periods (R77, R78), placement, pre-
emption and saving (03 R52, R53, R56; 04 R79 to R82; 13 R274 to R277), completion and hangs (R86 to R88). -/

namespace Sys2Proof.Machine

/-! ## Entries (R72, R73) -/

/-- Physical address of the ring slot of a count. -/
def Queue.slotAt (v : Queue) (n : BitVec 32) : Nat := v.base + 64 * (n.toNat % 2 ^ v.log2n)

/-- The entry at HEAD can be read. -/
def State.entryReadable (s : State) (v : Queue) : Bool := runInMap (v.slotAt v.head) 64 && !s.poisoned (v.slotAt v.head) 64

def State.entryWord (s : State) (v : Queue) (i : Nat) : Word := s.read64 (v.slotAt v.head + 8 * i)

/-- KIND of the entry at HEAD, 0 where it cannot be read. -/
def State.nextKind (s : State) (v : Queue) : Nat := if s.entryReadable v then field (s.entryWord v 0) 63 60 else 0

/-- Something to fetch. -/
def Queue.ready (v : Queue) : Bool := v.st = .active && v.head != v.tail

def State.refuse (s : State) (q : Nat) : State := s.setQueue q { s.queue q with err := true }

/-- Successors that the entry's node block names, where it can be read. -/
def State.entrySuccessors (s : State) (e : Entry) : List Nat :=
  match s.block? e.node with
  | .ok b => if b.kind = 3 then s.succAt b.succ b.succn else []
  | _ => []

/-- The record of an entry completes without a node (R73, R89; the order of R86). -/
def State.bareComplete (s : State) (q : Nat) (e : Entry) (kind : Nat) : State :=
  let succ := s.entrySuccessors e
  let tok := tokenWord kind e.crec
  let s := (s.write64 (e.crec + 8) e.cookie).finishRecord e.crec stCancelled tok 0
  let s := s.write64 (e.crec + 0x30) (BitVec.ofNat 64 succ.length)
  let s := if e.irq then s.signalQueue q else s
  s.work (succ.map fun r => .arrive r tok)

/-- A dispatcher read met poison: the record is written whole, KILLED with POISON (14 R280). -/
def State.barePoison (s : State) (q : Nat) (e : Entry) : State :=
  let succ := s.entrySuccessors e
  let s := (s.recKilledPoison e.crec).write64 (e.crec + 0x30) (BitVec.ofNat 64 succ.length)
  let s := if e.irq then s.signalQueue q else s
  s.work (succ.map fun r => .arrive r (tokenWord tokPoison e.crec))

/-! ## Nodes -/

def Packet.tiles (p : Packet) : Nat := p.w * p.h

/-- A paired group counts both copies against every budget (03 R56). -/
def Packet.copies (p : Packet) : Nat := if p.pair then 2 else 1

/-- Pending nodes under a block. -/
def State.pendingUnder (s : State) (addr : Nat) : Nat :=
  ((s.nodes.filter fun p => p.2.chain.any fun b => b.addr = addr).map fun p => p.2.pk.copies).foldl (· + ·) 0

/-- One group exceeds a BTILE of the chain. -/
def overTile (p : Packet) (chain : List Block) : Bool :=
  chain.any fun b => match b.btile with
    | some n => n < p.copies * p.tiles
    | none => false

/-- What an entry's node block gives; the flag says that a group cannot fit in BTILE. -/
def State.fetchNode (s : State) (q : Nat) (e : Entry) : Parsed (Node × Bool) :=
  (s.block? e.node).bind fun b =>
  Parsed.need (b.kind = 3 && s.succOk b.succ b.succn) <|
  (s.chain e.node).bind fun c =>
  (s.packet b.launch).bind fun p =>
  (s.stagedList (chainTenant c) (resolve c 10) b.stagedn).bind fun st =>
    .ok ({ queue := q, tenant := chainTenant c, irq := e.irq, pk := p, prio := resolve c 0, pcap := resolve c 1, fdom := resolve c 2,
           pdl := resolve c 3, trapv := BitVec.ofNat 64 (resolve c 9), staged := st, chain := budgets c, predn := b.predn, succn := b.succn,
           succ := b.succ, eff := resolve c 0, background := false, nextGrid := 0, hostsig := false, lining := [], commit := none },
         overTile p (budgets c))

/-- Frames of the staged pages of an entry's node that fail the ownership check, which firmware logs (08 R180). -/
def State.nodeOwners (s : State) (e : Entry) : List Nat :=
  match (s.block? e.node).bind fun b => (s.chain e.node).bind fun c => .ok (b, c) with
  | .ok (b, c) => s.stagedOwners (chainTenant c) (stagedRanges (s.stagedWords (resolve c 10) b.stagedn))
  | _ => []

/-- The copies of the node that the entry at HEAD names, as far as it can be read: a pair counts twice (03 R56). -/
def State.entryCopies (s : State) (q : Nat) (v : Queue) : Nat :=
  match (parseEntry (s.entryWord v)).map (s.fetchNode q) with
  | some (.ok (n, _)) => n.pk.copies
  | _ => 1

/-- One more pending node would exceed a BQD of the queue's chain. -/
def State.bqdFull (s : State) (q : Nat) (v : Queue) : Bool :=
  match s.chain v.regionAddr with
  | .ok c => (budgets c).any fun b => match b.bqd with
    | some n => n < s.pendingUnder b.addr + s.entryCopies q v
    | none => false
  | _ => false

/-- The checks of a NODE entry whose record is NEW. -/
def State.takeNode (s : State) (q : Nat) (e : Entry) : State :=
  let s := (s.nodeOwners e).foldl (fun s pa => s.log (.owner pa)) s
  match s.fetchNode q e with
  | .poison => s.barePoison q e
  | .malformed => s.bareComplete q e tokMalformed
  | .ok (n, past) =>
    if past then s.bareComplete q e tokBudget
    else
      let s := (s.write64 (e.crec + 8) e.cookie).setRecState e.crec stWaiting
      let r := { s with nodes := s.nodes.insert e.crec n }.readiness e.crec n
      r.1.work r.2

/-- LAUNCH_ENTRY_FETCH. -/
def State.fetchEntry (s : State) (q : Nat) : Option State :=
  let v := s.queue q
  let kind := s.nextKind v
  if !v.ready || kind = 2 || (kind = 1 && s.bqdFull q v) then none
  else
    let s' := (s.meet (v.slotAt v.head) 64).setQueue q { v with head := v.head + 1 }
    match if s.entryReadable v then parseEntry (s.entryWord v) else none with
    | none => some (s'.refuse q)
    | some e =>
      if e.crec = 0 || !runInMap e.crec 64 then some (s'.refuse q)
      else if s.poisoned e.crec 64 then some (s'.barePoison q e)
      else if s.recState e.crec ≠ stNew then some ((s'.meet e.crec 64).refuse q)
      else some ((s'.meetAll ((e.crec, 64) :: s.nodeRuns e.node)).takeNode q e)

def execLaunchEntryFetch (q : Nat) (s : State) : Host.Outcome State Fault Refusal := .next ((s.fetchEntry q).getD s)

/-- FENCE_ENTRY_CONSUME: no node fetched earlier from the queue is pending. -/
def State.consumeFence (s : State) (q : Nat) : Option State :=
  let v := s.queue q
  if !v.ready || s.nextKind v ≠ 2 || s.nodes.any (fun p => p.2.queue = q) then none
  else
    let s' := (s.meet (v.slotAt v.head) 64).setQueue q { v with head := v.head + 1 }
    some (if (parseEntry (s.entryWord v)).isNone then s'.refuse q else s')

def execFenceEntryConsume (q : Nat) (s : State) : Host.Outcome State Fault Refusal := .next ((s.consumeFence q).getD s)

/-! ## LAUNCH (R89, R90) -/

/-- A launch is refused: a record that its entry names completes when it is NEW. A malformed entry names no record here, so that nothing is
written: R89 does not say (DESIGN CHOICE, log entry 57). -/
def State.refuseLaunch (s : State) (q : Nat) (w : Nat → Word) (kind : Nat) : State :=
  match parseEntry w with
  | none => s
  | some e =>
    if e.fence || e.crec = 0 || !runInMap e.crec 64 || s.poisoned e.crec 64 then s
    else if s.recState e.crec != stNew then s.meet e.crec 64
    else s.bareComplete q e kind

/-- The append: the entry is written and TAIL advances in one step. A slot outside the map is not written; its fetch refuses it. -/
def State.appendEntry (s : State) (q : Nat) (w : Nat → Word) : State :=
  let v := s.queue q
  let pa := v.slotAt v.tail
  let bytes := (List.range 8).flatMap fun i => bytesOf 8 (w i).toNat
  let s := s.setQueue q { v with tail := v.tail + 1 }
  if runInMap pa 64 then ({ s with poison := s.poison.filter (· != lineOf pa) }).writeLoc (.phys pa) bytes |>.meet pa 64 else s

/-- LAUNCH_APPEND: the last thing in a clock, so that a tear-down in the same clock comes first (R90). -/
def State.launchStep (s : State) (id : Nat) : Option State :=
  match s.acc? id with
  | none => none
  | some a =>
    match a.op with
    | .launch q entry =>
      if !a.released || !s.depsDone a || !s.round.isEmpty then none
      else
        let v := s.queue q
        let w (i : Nat) : Word := entry.getD i 0
        let s' := s.finishAcc a
        if (a.who.node.bind s.node?).isNone then some (s'.refuseLaunch q w tokTeardown)
        else if v.st = .disabled || v.owner != a.who.tenant then some (s'.refuseLaunch q w tokPerm)
        else if 2 ^ v.log2n ≤ (v.tail - v.head).toNat then some (s'.refuseLaunch q w tokQfull)
        else some (s'.appendEntry q w)
    | _ => none

def execLaunchAppend (id : Nat) (s : State) : Host.Outcome State Fault Refusal := .next ((s.launchStep id).getD s)

/-! ## Aging and periods (R77, R78) -/

def Node.effAt (n : Node) (t tready : Nat) : Nat := Nat.min n.pcap (n.prio + (t - tready) / 100000)

/-- PRIORITY_AGING: at a package time that is a multiple of 100,000 ns. -/
def State.agingStep (s : State) : Option State :=
  let k := s.now / 100000
  if k ≤ s.aging then none
  else
    some { s with
      aging := k
      nodes := s.nodes.map fun p =>
        if s.recState p.1 = stReady || s.recState p.1 = stRunning then (p.1, { p.2 with eff := p.2.effAt (k * 100000) (s.recReady p.1) })
        else p }

def execPriorityAging (s : State) : Host.Outcome State Fault Refusal := .next (s.agingStep.getD s)

/-- SCHEDULING_PERIOD: every BTIME count becomes zero. -/
def State.periodStep (s : State) : Option State :=
  let k := s.now / 1000000
  if k ≤ s.period then none
  else some { s with period := k, btime := [], nodes := s.nodes.map fun p => (p.1, { p.2 with background := false }) }

def execSchedulingPeriod (s : State) : Host.Outcome State Fault Refusal := .next (s.periodStep.getD s)

/-- Tiles of placed groups under a block, except some groups. -/
def State.placedUnder (s : State) (addr : Nat) (skip : List Nat) (f : Packet → Nat) : Nat :=
  (s.groups.map fun p =>
    if p.2.place.isNone || skip.contains p.1 then 0
    else match s.node? p.2.node with
      | some n => if n.chain.any fun b => b.addr = addr then f n.pk else 0
      | none => 0).foldl (· + ·) 0

/-- Blocks of pending nodes, each once. -/
def State.blocks (s : State) : List Block :=
  s.nodes.foldl (fun l p => p.2.chain.foldl (fun l b => if l.any fun x => x.addr = b.addr then l else l ++ [b]) l) []

/-- One clock of placed groups: `btime` counts tile clocks, 3 of which are 2 tile ns (R56; 00 R7). -/
def State.countTime (s : State) : State :=
  s.blocks.foldl (fun s b =>
    if b.btime.isNone then s else { s with btime := s.btime.update 0 b.addr (· + s.placedUnder b.addr [] Packet.tiles) }) s

/-- A block's BTIME is used up in this period. -/
def State.exhausted (s : State) (b : Block) : Bool :=
  match b.btime with
  | some n => 3 * n ≤ 2 * s.btime.read 0 b.addr
  | none => false

/-- BTIME_EXHAUSTED: the nodes under the block are background. -/
def State.exhaust (s : State) (addr : Nat) : Option State :=
  let hit (n : Node) : Bool := !n.background && n.chain.any fun b => b.addr = addr && s.exhausted b
  if s.nodes.any fun p => hit p.2 then
    some { s with nodes := s.nodes.map fun p => if hit p.2 then (p.1, { p.2 with background := true }) else p }
  else none

def execBtimeExhausted (addr : Nat) (s : State) : Host.Outcome State Fault Refusal := .next ((s.exhaust addr).getD s)

/-! ## Budgets at placement (03 R56) -/

/-- Resident pages of 32 KiB in HBM4 below a table, a leaf of 128 MiB counting as 4096. -/
def residentFrom (mem : List Host.Cell) : Nat → Nat → Nat
  | level, table =>
    let size := if level = 3 then 256 else 32768
    let es := (mem.filter fun c => table ≤ c.1 && c.1 < table + size && c.1 % 8 = 7).map fun c =>
      (BitVec.ofNat 64 (numOf (readMem mem (c.1 - 7) 8)) : Word)
    (es.map fun e =>
      if !pteV e || pteMalformed level e then 0
      else if pteLeaf e then (if pteAper e = 0 && pteRes e != 0 then (if level = 1 then 4096 else 1) else 0)
      else match level with
        | 0 => 0
        | l + 1 => residentFrom mem l (pteFrame e)).foldl (· + ·) 0

def Node.under (n : Node) (addr : Nat) : Bool := n.chain.any fun b => b.addr = addr

/-- The tenant block of a node's chain. -/
def Node.rootIs (n : Node) (addr : Nat) : Bool := n.chain.getLast?.any fun b => b.addr = addr

/-- Pages that the nodes under a block use: the shadow frames of their staged pages in HBM4 and the save areas of their groups; and, under the
tenant's own block, the tenant's resident pages in HBM4, which belong to no one node (R56; 13 R276; DESIGN CHOICE, log entry 8). -/
def State.pagesUnder (s : State) (addr tenant : Nat) (root : Bool) : Nat :=
  let tree := match (s.tenants.find tenant).bind (·.root) with
    | some r => if root then residentFrom s.mem 3 r else 0
    | none => 0
  let shadows := (s.nodes.map fun p =>
    if p.2.under addr then ((p.2.staged.filter fun r => inHbm r.sframe).map (·.npages)).foldl (· + ·) 0 else 0).foldl (· + ·) 0
  tree + shadows + (s.groups.map fun p =>
    if p.2.saved.isEmpty then 0
    else match s.node? p.2.node with
      | some n => if n.under addr then Config.saveAreaPages n.pk.tiles n.pk.rows n.pk.banks n.pk.spill else 0
      | none => 0).foldl (· + ·) 0

def within (limit : Option Nat) (use : Nat) : Bool :=
  match limit with
  | some n => use ≤ n
  | none => true

/-- A group that waits for a place: its node, grid index, and, when it is saved, its groups' numbers (leader, then twin). -/
structure Waiting where
  id    : Nat
  node  : Node
  grid  : Nat
  saved : List Nat
  deriving DecidableEq, Repr

/-- Claims of other groups with their nodes. -/
def State.claimsOf (s : State) (w : Waiting) : List (Claim × Node) :=
  [0, 1, 2, 3].filterMap fun d => (s.die d).claim.bind fun c =>
    if c.node = w.id && c.grid = w.grid then none else (s.node? c.node).map fun n => (c, n)

/-- What claims will use under a block. -/
def claimUse (cs : List (Claim × Node)) (addr : Nat) (f : Packet → Nat) : Nat :=
  (cs.map fun c => if c.2.under addr then c.2.pk.copies * f c.2.pk else 0).foldl (· + ·) 0

/-- Entries that groups without a place, or that will have none, hold under a block; what placed groups hold is within what they reserve, as
is what the group `own` that is to be placed holds (11 R231). -/
def State.heldUnder (s : State) (addr : Nat) (own gone : List Nat) : Nat :=
  let under (g : Nat) : Bool := ((s.group? g).bind fun x => s.node? x.node).any (Node.under · addr)
  let stays (g : Nat) : Bool := own.contains g || (((s.group? g).bind (·.place)).isSome && !gone.contains g)
  ([0, 1, 2, 3].map fun d => ((s.die d).lining.filter fun p =>
    p.2.hold.any (fun h => under h.1) && !p.2.hold.any fun h => under h.1 && stays h.1).length).foldl (· + ·) 0

/-- Lining entries in use under a block: reserved, held by saved groups, and under the tenant's own block retained (R56; 11 R231). -/
def State.liningUnder (s : State) (n : Node) (addr : Nat) (own gone : List Nat) : Nat :=
  s.placedUnder addr (own ++ gone) Packet.lining + s.heldUnder addr own gone
    + if n.rootIs addr then ((s.tenantEntries n.tenant).filter fun e => e.2.2.hold.isEmpty).length else 0

/-- BTILE and BLIN of the chain admit the group, once some groups have gone and some claims are met. -/
def State.admitsAfter (s : State) (w : Waiting) (gone : List Nat) (cs : List (Claim × Node)) : Bool :=
  let pk := w.node.pk
  w.node.chain.all fun b =>
    within b.btile (s.placedUnder b.addr (w.saved ++ gone) Packet.tiles + claimUse cs b.addr Packet.tiles + pk.copies * pk.tiles)
      && within b.blin (s.liningUnder w.node b.addr w.saved gone + claimUse cs b.addr Packet.lining + pk.copies * pk.lining)

/-- Every budget of the node's chain admits the group once some groups have gone; what is reserved for others stays theirs (R81). -/
def State.admits (s : State) (w : Waiting) (gone : List Nat) : Bool :=
  let cs := s.claimsOf w
  s.admitsAfter w gone [] && (cs.isEmpty || s.admitsAfter w (gone ++ cs.flatMap (·.1.victims)) cs)
    && w.node.chain.all fun b => within b.bqd (s.pendingUnder b.addr)
      && (b.bhbm.isNone || within b.bhbm (s.pagesUnder b.addr w.node.tenant (w.node.rootIs b.addr)))

/-! ## Where a group fits (03 R52; 04 R80) -/

/-- Tiles of a rectangle. -/
def Place.tiles (p : Place) (w h : Nat) : List Nat :=
  (List.range h).flatMap fun dy => (List.range w).map fun dx => p.die * 64 + (p.y + dy) * 8 + (p.x + dx)

/-- Positions on a die in the order of R80. -/
def positions (d w h : Nat) : List Place :=
  (List.range 4).flatMap fun k => (List.range (9 - h)).flatMap fun y => (List.range (9 - w)).map fun x => ⟨d, x, y, k⟩

/-- Dies in the order of R80. -/
def dieOrder (d : Nat) : List Nat := d :: [0, 1, 2, 3].filter (· != d)

/-- What a tile's contexts share out, with its capacity (01 R20). -/
def tileStores : List ((Packet → Nat) × Nat) := [(Packet.rows, 2048), (Packet.banks, 48), (Packet.handles, 1024)]

def State.tileUse (s : State) (tile : Nat) (skip : List Nat) (f : Packet → Nat) : Nat :=
  ((s.tileCtxs tile).filter fun p => !skip.contains p.2.grp).foldl (fun n p => n + f p.2.pk) 0

/-- Claims of other groups, as (position, packet, victims). -/
def State.otherClaims (s : State) (w : Waiting) : List (Place × Packet × List Nat) :=
  (s.claimsOf w).flatMap fun c => (c.1.place :: c.1.twin.toList).map fun p => (p, c.2.pk, c.1.victims)

/-- What other claims reserve on a tile leaves context k and room there, once they and a set of groups have gone (R81). -/
def State.claimsLeave (s : State) (claims : List (Place × Packet × List Nat)) (set : List Nat) (pk : Packet) (k tile : Nat) : Bool :=
  let here := claims.filter fun c => (c.1.tiles c.2.1.w c.2.1.h).contains tile
  let gone := set ++ here.flatMap fun c => c.2.2
  here.isEmpty || (here.all (fun c => c.1.k != k) && tileStores.all fun f =>
    s.tileUse tile gone f.1 + (here.map fun c => f.1 c.2.1).foldl (· + ·) 0 + f.1 pk ≤ f.2)

/-- A tile has a FREE context k and room, whatever others keep there; it is not quarantined (14 R290). -/
def State.tileFits (s : State) (claims : List (Place × Packet × List Nat)) (pk : Packet) (k tile : Nat) : Bool :=
  (s.ctx? (tile * 4 + k)).isNone && !s.quarantine.contains (s.unitOf tile) && s.claimsLeave claims [] pk k tile
    && tileStores.all fun f => s.tileUse tile [] f.1 + f.1 pk ≤ f.2

/-- Columns that a retirement in progress keeps free (14 R291). -/
def Die.columnsFree (d : Die) (x w : Nat) : Bool :=
  match d.retiring with
  | some c => x + w ≤ c
  | none => true

/-- Entries that a group still needs on a die: those bound there are not needed again (11 R231, R245). -/
def State.liningNeed (s : State) (w : Waiting) (d : Nat) (i : Nat) : Nat :=
  match (w.saved[i]?).bind s.group? with
  | some g => if g.die = d then w.node.pk.lining - g.slots.length else w.node.pk.lining
  | none => w.node.pk.lining

/-- Unbound slots that some placed groups have on a die. -/
def State.unboundSlots (s : State) (gs : List Nat) (d : Nat) : Nat :=
  (gs.map fun g => match s.group? g with
    | some x => if x.die = d && x.place.isSome then ((s.node? x.node).map fun n => n.pk.lining - x.slots.length).getD 0 else 0
    | none => 0).foldl (· + ·) 0

/-- The die takes the group: it is not failed, its directory is not full for a new group, and its Lining entries are enough, those that
other claims reserve apart (R52, R81; 14 R280). -/
def State.dieFits (s : State) (w : Waiting) (d i : Nat) (freed : Nat) : Bool :=
  let need := s.liningNeed w d i
  let free := s.liningFree d w.node.tenant + freed
  let cs := (s.otherClaims w).filter fun c => c.1.die = d
  !(s.die d).failed && !(s.directoryFull d && w.saved.isEmpty) && decide ((need : Int) ≤ free)
    && (cs.isEmpty || decide (((need + (cs.map fun c => c.2.1.lining).foldl (· + ·) 0 : Nat) : Int)
      ≤ free + s.unboundSlots (cs.flatMap (·.2.2)).eraseDups d))

def State.findPlace (s : State) (w : Waiting) (d i : Nat) : Option Place :=
  let pk := w.node.pk
  let claims := s.otherClaims w
  if !s.dieFits w d i 0 then none
  else (positions d pk.w pk.h).find? fun p =>
    (s.die d).columnsFree p.x pk.w && (p.tiles pk.w pk.h).all (s.tileFits claims pk p.k)

/-- The leader's position, and the twin's on die d XOR 1. -/
def State.findBoth (s : State) (w : Waiting) : Option (Place × Option Place) :=
  (dieOrder (w.node.queue / 4096)).findSome? fun d =>
    match s.findPlace w d 0 with
    | none => none
    | some p =>
      if !w.node.pk.pair then some (p, none) else (s.findPlace w (d ^^^ 1) 1).map fun t => (p, some t)

/-! ## Work in its order (R79) -/

/-- What a node has waiting. -/
def State.nodeWaiting (s : State) (rec : Nat) (n : Node) : List Waiting :=
  let st := s.recState rec
  if (st = stReady && (s.queue n.queue).st != .frozen) || st = stRunning then
    let saved := s.groups.filter fun p => p.2.node = rec && p.2.place.isNone && p.2.leader
      && (match p.2.twin with
        | some t => (s.group? t).any fun g => g.place.isNone
        | none => true)
    let saved := sortBy (fun a b => a.2.order < b.2.order) saved
    (saved.map fun p => ⟨rec, n, p.2.grid, p.1 :: p.2.twin.toList⟩) ++ if n.nextGrid < n.pk.grid then [⟨rec, n, n.nextGrid, []⟩] else []
  else []

/-- Rank under items 1 and 2 of R79: 0 for background, else 1 + eff. -/
def Node.rank (n : Node) : Nat := if n.background then 0 else n.eff + 1

/-- Items 1 to 4 of R79. Two nodes of one queue that are equal in all of them have no stated order: the lower record address goes first (DESIGN
CHOICE, log entry 57). -/
def State.ahead (s : State) (a b : Nat × Node) : Bool :=
  if a.2.background != b.2.background then !a.2.background
  else if a.2.eff != b.2.eff then b.2.eff < a.2.eff
  else if s.recReady a.1 != s.recReady b.1 then s.recReady a.1 < s.recReady b.1
  else if a.2.queue != b.2.queue then a.2.queue < b.2.queue
  else a.1 < b.1

/-- Everything that waits at a die's dispatcher, in the order of R79. -/
def State.waiting (s : State) (d : Nat) : List Waiting :=
  (sortBy s.ahead (s.nodes.filter fun p => p.2.queue / 4096 = d)).flatMap fun p => s.nodeWaiting p.1 p.2

/-! ## Placing (03 R53; 13 R277) -/

/-- The initial scalars of a context. -/
def initialScalars (pk : Packet) (grid dx dy : Nat) : Tab Word :=
  let s10 := dx + dy * 2 ^ 8 + pk.w * 2 ^ 16 + pk.h * 2 ^ 24
  let args : List (Nat × Word) := (List.range 8).map fun i => (i + 1, pk.args.getD i 0)
  (args ++ [(9, BitVec.ofNat 64 grid), (10, BitVec.ofNat 64 s10)]).foldl (fun (t : Tab Word) (p : Nat × Word) => Tab.write 0 t p.1 p.2) []

/-- A context as it is placed (R53; reset values of 06 R142). -/
def Ctx.initial (g rec : Nat) (n : Node) (grid dx dy : Nat) : Ctx where
  grp := g
  node := rec
  tenant := n.tenant
  dx := dx
  dy := dy
  pk := n.pk
  status := .ready
  pc := n.pk.entry
  loops := []
  lcc := 0
  tm := false
  tlc := 0
  comb := 0
  sregs := initialScalars n.pk grid dx dy
  bank := []
  rows := []
  masks := []
  latches := []
  rings := 0
  eregs := []
  spill := []
  scratch := []
  acct := .f32
  rnd := 0
  flg := 0
  fer := 0
  tvec := n.trapv
  tframe := 0
  limit := []
  out := []
  handles := []
  tensors := []
  tokens := []
  heads := []
  ports := []
  inflight := []
  pend := []
  wb0 := .empty
  wb1 := .empty
  unf := none
  xpose := .empty
  issued := 0
  windows := []
  landed := []
  restored := []
  trapEntries := []
  drainFaults := []
  winFault := none
  peerFault := none
  hostsig := false
  sample := false
  brkAt := none
  skipBrk := false
  next := none
  exiting := false
  rte := none
  waitDone := false
  leaseWait := none
  blockedAt := none
  fences := []
  progNo := 0
  trapLog := []
  tracePc := 0
  bnd := 0
  sinceSync := 0
  needSync := false
  firstSync := true
  stall := none
  idleTill := 0
  defNums := []
  bad := []
  flaws := []

/-- Offsets of a group. -/
def Packet.offsets (p : Packet) : List (Nat × Nat) := (List.range p.h).flatMap fun dy => (List.range p.w).map fun dx => (dx, dy)

/-- A new group's contexts. -/
def State.startGroup (s : State) (g : Nat) (w : Waiting) (p : Place) (twin : Option Nat) (leader : Bool) : State :=
  let grp : Group := ⟨w.id, w.grid, twin, leader, some p, p.die, [], none, s.now, s.clock, 0, []⟩
  let s := { s with groups := s.groups.insert g grp }
  w.node.pk.offsets.foldl (fun s o => s.setCtx (p.key o.1 o.2) (Ctx.initial g w.id w.node w.grid o.1 o.2)) s

/-- The place on a die that a moved entry takes: an EMPTY one, else that of the tenant's least recently used retained one, which R231 counts
as free. -/
def Die.freeEntry (d : Die) (tenant : Nat) : Option Nat :=
  ((List.range 512).find? fun i => !(d.lining.read .empty i).claimed).or
    ((better (d.lining.filter fun p => p.2.claimed && p.2.tenant = tenant && p.2.hold.isEmpty) fun a b => a.used < b.used).map (·.1))

/-- Nodes that have updated an entry have updated it where it has moved (11 R246). -/
def State.renote (s : State) (d i e j layer : Nat) : State :=
  { s with nodes := s.nodes.map fun p =>
    if p.2.lining.contains (d, i, layer) then (p.1, { p.2 with lining := p.2.lining.filter (· != (d, i, layer)) ++ [(e, j, layer)] }) else p }

/-- The slots of other groups that hold an entry are unbound. -/
def State.unbindOthers (s : State) (g d i : Nat) : State :=
  ((s.lent d i).hold.filter fun h => h.1 != g).foldl (fun s h => s.mapGroup h.1 fun v => { v with slots := v.slots.erase h.2 }) s

/-- An entry bound by a group that resumes on another die moves to an EMPTY entry there, with all of the group's slots that hold it, and the old
entry becomes EMPTY, so that slots of other groups which held it are unbound (11 R245; DEDUCED, log entry 40). Where the new die has no room the
group's slots are unbound. -/
def State.moveEntry (s : State) (g old d i : Nat) : State :=
  let e := s.lent old i
  let mine := e.hold.filter fun h => h.1 = g
  let s := (s.unbindOthers g old i).setLent old i .empty
  match (s.die d).freeEntry e.tenant with
  | none => s.mapGroup g fun v => { v with slots := v.slots.filter fun p => p.2 != 512 + i }
  | some j =>
    let n := (s.die d).liningUse + 1
    let s := (s.mapDie d fun v => { v with liningUse := n }).setLent d j { e with hold := mine, used := n, moved := true }
    (s.mapGroup g fun v => { v with slots := v.slots.map fun p => if p.2 = 512 + i then (p.1, j) else p }).renote old i d j e.layer

/-- All of a group's bound entries move, the least recently used first: an index still to be moved is 512 higher until it is. -/
def State.moveEntries (s : State) (g d : Nat) : State :=
  match s.group? g with
  | none => s
  | some grp =>
    if grp.die = d then s
    else
      let old := sortBy (fun a b => (s.lent grp.die a).used < (s.lent grp.die b).used) (grp.slots.map (·.2)).eraseDups
      let s := s.mapGroup g fun v => { v with slots := v.slots.map fun p => (p.1, 512 + p.2) }
      old.foldl (fun s i => s.moveEntry g grp.die d i) s

/-- A saved group resumes (13 R277). -/
def State.resumeGroup (s : State) (g : Nat) (p : Place) : State :=
  match s.group? g with
  | none => s
  | some grp =>
    let s := (s.moveEntries g p.die).mapGroup g fun v =>
      { v with place := some p, die := p.die, saved := [], stop := none, placed := s.now, issued := s.clock }
    grp.saved.foldl (fun s x =>
      let key := p.key (x.1 % 8) (x.1 / 8)
      let c := x.2
      if c.status = .exited then s.setCtx key c
      else (s.setCtx key { c with status := .ready, stall := none }).traceThenSync key (pktPreempt (key % 4) true false)) s

/-- The signal that waits for a first group goes to its context at (0, 0) (15 R298). -/
def State.giveSignal (s : State) (rec : Nat) (key : Nat) : State :=
  match s.node? rec with
  | some n =>
    if n.hostsig then (s.mapCtx key fun c => { c with hostsig := true }).mapNode rec fun n => { n with hostsig := false } else s
  | none => s

/-- A claim is met, or no longer wanted. -/
def State.dropClaim (s : State) (d : Nat) : State := s.mapDie d fun v => { v with claim := none }

def State.clearClaim (s : State) (w : Waiting) : State :=
  let d := w.node.queue / 4096
  match (s.die d).claim with
  | some c => if c.node = w.id && c.grid = w.grid then s.dropClaim d else s
  | none => s

/-- Place one waiting group where it fits. -/
def State.placeOne (s : State) (w : Waiting) : Option State :=
  if !s.admits w [] then none
  else
    match s.findBoth w with
    | none => none
    | some (p, t) =>
      let s := s.clearClaim w
      match w.saved, t with
      | [], _ =>
        let g := s.nextId
        let s := { s with nextId := s.nextId + 2 }
        let s := s.startGroup g w p (t.map fun _ => g + 1) true
        let s := match t with
          | some t => s.startGroup (g + 1) w t (some g) false
          | none => s
        let s := if s.recState w.id = stReady then s.setRecState w.id stRunning else s
        some ((s.mapNode w.id fun n => { n with nextGrid := n.nextGrid + 1 }).giveSignal w.id (p.key 0 0))
      | [g], _ => some (s.resumeGroup g p)
      | g :: h :: _, some t => some ((s.resumeGroup g p).resumeGroup h t)
      | _, none => none

/-! ## Making room (R81) -/

/-- Groups whose contexts block a position, then those whose rows, banks or handle entries do (log entry 8). -/
def State.blockers (s : State) (pk : Packet) (p : Place) : List Nat :=
  let tiles := p.tiles pk.w pk.h
  let a := tiles.filterMap fun t => (s.ctx? (t * 4 + p.k)).map (·.grp)
  let b := tiles.flatMap fun t => tileStores.flatMap fun f =>
    if s.tileUse t a f.1 + f.1 pk ≤ f.2 then []
    else ((s.tileCtxs t).filter fun x => 0 < f.1 x.2.pk).map fun x => x.2.grp
  (a ++ b).eraseDups

/-- A group and its copy. -/
def State.withTwin (s : State) (g : Nat) : List Nat := g :: ((s.group? g).bind (·.twin)).toList

def State.groupNode (s : State) (g : Nat) : Option Node := (s.group? g).bind fun x => s.node? x.node

/-- Room for a group once a set of groups has gone. -/
structure Room where
  place : Place
  twin  : Option Place
  set   : List Nat
  rank  : Nat
  tiles : Nat
  deriving DecidableEq, Repr

/-- A position of leader and twin qualifies. -/
def State.room (s : State) (w : Waiting) (p : Place) (t : Option Place) : Option Room :=
  let pk := w.node.pk
  let ps := p :: t.toList
  let set := ((ps.flatMap (s.blockers pk)).flatMap s.withTwin).eraseDups
  let ranks := set.map fun g => ((s.groupNode g).map Node.rank).getD 0
  let ok := !set.isEmpty && ranks.all (· < w.node.rank)
    && (w.node.eff = 15 || set.all fun g => match s.group? g with | some x => x.placed + 100000 ≤ s.now | none => true)
    && s.admits w set
    && ((List.range ps.length).zip ps).all fun x =>
        s.dieFits w x.2.die x.1 (s.unboundSlots set x.2.die) && (s.die x.2.die).columnsFree x.2.x pk.w
          && (x.2.tiles pk.w pk.h).all fun tile => !s.quarantine.contains (s.unitOf tile) && s.claimsLeave (s.otherClaims w) set pk x.2.k tile
  if ok then
    some ⟨p, t, set, ranks.foldl Nat.max 0, (set.map fun g => ((s.groupNode g).map fun n => n.pk.tiles).getD 0).foldl (· + ·) 0⟩
  else none

/-- Every position that R80 would try, in its order. -/
def State.rooms (s : State) (w : Waiting) : List Room :=
  let pk := w.node.pk
  (dieOrder (w.node.queue / 4096)).flatMap fun d =>
    (positions d pk.w pk.h).flatMap fun p =>
      if pk.pair then (positions (d ^^^ 1) pk.w pk.h).filterMap fun t => s.room w p (some t) else (s.room w p none).toList

/-- The set whose highest rank is lowest, then the fewest tiles, then the first. -/
def bestRoom (l : List Room) : Option Room :=
  l.foldl (fun m r => match m with
    | none => some r
    | some b => if r.rank < b.rank || (r.rank = b.rank && r.tiles < b.tiles) then some r else some b) none

/-- PREEMPT_REQUEST: the highest-ranked waiting group does not fit and its node is not background. -/
def State.requestRoom (s : State) (d : Nat) (ws : List Waiting) : Option State :=
  match ws.head?, (s.die d).claim with
  | some w, none =>
    if w.node.background || (s.admits w [] && (s.findBoth w).isSome) then none
    else (bestRoom (s.rooms w)).map fun r =>
      let s := s.mapDie d fun v => { v with claim := some ⟨w.id, w.grid, r.place, r.twin, r.set⟩ }
      let s := r.set.foldl (fun s g => s.mapGroup g fun x => { x with stop := x.stop.or (some (s.now, false)) }) s
      r.set.foldl State.stopGroup s
  | _, _ => none

/-- A claim that has lost its group, or whose victims have gone without making room. -/
def State.claimStale (s : State) (d : Nat) (ws : List Waiting) : Bool :=
  match (s.die d).claim with
  | none => false
  | some c =>
    match ws.find? fun w => w.id = c.node && w.grid = c.grid with
    | none => true
    | some w =>
      c.victims.all (fun g => ((s.group? g).bind (·.place)).isNone) && !(s.admits w [] && (s.findBoth w).isSome)

/-! ## Freeing and placing -/

/-- A copy that has sent all that it moves: what it has sent stands by itself. -/
def Acc.sentAll (a : Acc) : Bool :=
  match a.op with
  | .copy src dst e late _ u _ => !late && dst.version = 0 && u != 0 && copyLength src dst e ≤ 64 * u
  | _ => false

/-- An access that needs its group no longer: an effect that has been released and stands by itself, or a read on its way (03 R60). A
write-back must be able to tell its bytes, other engine commands complete (16 R333), and a load that is still to be translated may meet a fault
that is fatal (13 R272). A pair's follower's copy goes with its leader's. -/
def State.standsAlone (s : State) (a : Acc) : Bool :=
  s.follows a || a.performed || match a.op with
    | .store .. | .frame .. | .bump .. | .atom .. | .red .. | .arrive .. | .pagereq .. | .launch .. | .signal .. | .shoot .. | .shmap .. =>
      a.released
    | .winStore .. => a.released && a.queued.isNone
    | .writeBack h _ => a.released && s.ordered a && (s.accCtx a).any fun c => c.inflight.isEmpty && (c.handle h).st = .bound
    | .load .. | .fill .. => s.knows a
    | .winLoad .. | .count .. | .bindHandle .. | .bindTensor .. => true
    | .copy .. => a.released && a.sentAll
    | .cpfill .. | .mwld .. | .mdlt .. | .lnctl .. => false

/-- All contexts of a placed group and of its copy have exited, and what is left of them stands by itself (03 R60). -/
def State.finished (s : State) (g : Nat) : Bool :=
  let gs := s.withTwin g
  (gs.all fun g => ((s.group? g).bind (·.place)).isSome) && (s.ctxs.all fun p => !gs.contains p.2.grp || p.2.status = .exited)
    && s.accs.all fun a => !gs.contains a.grp || s.standsAlone a

/-- A finished group goes, with its copy: the effects that it has released are left to perform. -/
def State.releaseGroup (s : State) (g : Nat) : State :=
  let gs := s.withTwin g
  gs.foldl State.freeGroup (s.outlive (fun a => gs.contains a.grp) true [])

/-- GROUP_PLACE at a die's dispatcher: it frees what has finished, asks for room, or places the first group that fits. A node whose record
cannot be read is killed (14 R280). -/
def State.placeStep (s : State) (d : Nat) : Option State :=
  let mine := s.nodes.filter fun p => p.2.queue / 4096 = d
  match mine.find? fun p => s.poisoned p.1 64 with
  | some p => some (s.killNode p.1 tokPoison 0)
  | none =>
    match s.groups.find? fun p => mine.any (fun n => n.1 = p.2.node) && s.finished p.1 with
    | some p => some (s.releaseGroup p.1)
    | none =>
      let ws := s.waiting d
      let s' := if s.claimStale d ws then s.dropClaim d else s
      (s'.requestRoom d ws).or (ws.findSome? s'.placeOne)

def execGroupPlace (d : Nat) (s : State) : Host.Outcome State Fault Refusal := .next ((s.placeStep d).getD s)

/-! ## Pre-emption and saving (03 R64; 13 R274 to R276) -/

/-- FORCED_PREEMPT: the group was not saved within its PDL; both copies of a pair stop at their next boundaries. -/
def State.forceStep (s : State) (g : Nat) : Option State :=
  match s.group? g, s.groupNode g with
  | some grp, some n =>
    match grp.stop with
    | some (t, false) =>
      if grp.place.isNone || s.now < t + n.pdl + 1 then none
      else
        let gs := s.withTwin g
        let s := gs.foldl (fun s g => s.mapGroup g fun x => { x with stop := some (s.now, true) }) s
        some (gs.foldl State.stopGroup s)
    | _ => none
  | _, _ => none

def execForcedPreempt (g : Nat) (s : State) : Host.Outcome State Fault Refusal := .next ((s.forceStep g).getD s)

/-- Contexts of a group that have stopped for good: STOPPED, or EXITED. -/
def Ctx.rests (c : Ctx) : Bool := c.status = .stopped || c.status = .exited

/-- GROUP_SAVE: nothing is outstanding, every reply has arrived, and 64 ns have passed since the last bundle; of a pair, in both copies. -/
def State.saveStep (s : State) (g : Nat) : Option State :=
  match s.group? g with
  | none => none
  | some grp =>
    let cs := s.ctxs.filter fun p => p.2.grp = g
    let both := s.withTwin g
    let all := s.ctxs.filter fun p => both.contains p.2.grp
    if grp.place.isNone || grp.stop.isNone || all.any (fun p => !p.2.rests) || !all.any (fun p => p.2.status = .stopped)
      || s.accs.any (fun a => both.contains a.grp) || all.any (fun p => p.2.pend.any fun q => q.reply.isNone)
      || both.any (fun g => (s.group? g).any fun x => s.clock < x.issued + 96) then none
    else
      let saved : Tab Ctx := cs.foldl (fun t p => Tab.insert t (8 * p.2.dy + p.2.dx) p.2) []
      -- messages on their way stay on their way
      let s := { s.freeContexts g with flights := s.flights }
      some ({ s with nextId := s.nextId + 1 }.mapGroup g fun x => { x with place := none, saved := saved, stop := none, order := s.nextId })

def execGroupSave (g : Nat) (s : State) : Host.Outcome State Fault Refusal := .next ((s.saveStep g).getD s)

/-! ## Completion and failures (R86 to R88) -/

/-- NODE_COMPLETE: the last group has exited and everything of the node has performed, posted window stores acknowledged (R86). The commit's
shoot-down completes once the accesses that used an old translation have performed (08 R184). -/
def State.completeStep (s : State) (rec : Nat) : Option State :=
  match s.node? rec with
  | none => none
  | some n =>
    if s.poisoned rec 64 || s.recState rec ≠ stRunning || n.nextGrid < n.pk.grid || !(s.nodeGroups rec).isEmpty
      || s.accs.any (fun a => a.who.node = some rec) then none
    else
      match n.commit with
      | some l => if l.any s.outstanding then none else some (s.work [.complete rec stDone 0 0])
      | none =>
        let s := s.commit n
        let m (e : TlbEnt) : Bool := !n.pages.isEmpty && n.stagedEntry e
        match s.users m with
        | [] => some ((s.retranslate m).work [.complete rec stDone 0 0])
        | l => some ((s.retranslate m).mapNode rec fun n => { n with commit := some l })

def execNodeComplete (rec : Nat) (s : State) : Host.Outcome State Fault Refusal := .next ((s.completeStep rec).getD s)

/-- NODE_HANG: no bundle for 2^30 ns, or a forced stop that has not led to a save within a further PDL. -/
def State.hangStep (s : State) (g : Nat) : Option State :=
  match s.group? g, s.groupNode g with
  | some grp, some n =>
    let idle := 3 * 2 ^ 30 ≤ 2 * (s.clock - grp.issued)
    let late := match grp.stop with
      | some (t, true) => t + n.pdl < s.now
      | _ => false
    if grp.place.isSome && (idle || late) then some (s.killNode grp.node tokHang 0) else none
  | _, _ => none

def execNodeHang (g : Nat) (s : State) : Host.Outcome State Fault Refusal := .next ((s.hangStep g).getD s)

/-- UNCORRECTABLE_CONSUMED: a node that runs meets an error. -/
def State.errorStep (s : State) (rec : Nat) : Option State :=
  if (s.node? rec).isSome && s.recState rec = stRunning then some (s.consumeError rec) else none

def execUncorrectableConsumed (rec : Nat) (s : State) : Host.Outcome State Fault Refusal := .next ((s.errorStep rec).getD s)

end Sys2Proof.Machine
end

