-- ==== Sys2Proof/Machine/Queue.lean ====
section
/-! DEFINITION. The registers of the work queues and their commands (04 R69 to R71). -/

namespace Sys2Proof.Machine

/-- The mapping through which the management core's firmware writes: it is no host function, whose numbers are 0 to 63 (15 R293). -/
def firmwareFn : Nat := 64

/-- A queue that exists and that a function's mapping reaches: its tenant's, or any for firmware (15 R294). -/
def State.reaches (s : State) (f q : Nat) : Bool :=
  s.ready && q < 16384 && (f = firmwareFn || (f < 64 && (s.fn f).bind = .tenant (s.queue q).owner))

/-- A write or command through a mapping: ignored where the mapping does not reach the queue. -/
def State.onQueue (s : State) (f q : Nat) (act : State → State) : Option State := if s.reaches f q then some (act s) else none

/-- QTAIL_WRITE (R70, R71): bits [31:0] are TAIL. -/
def State.writeTail (s : State) (q : Nat) (t : BitVec 32) : State :=
  let v := s.queue q
  if v.st = .disabled then s.setQueue q { v with tail := t, head := t }
  else if (t - v.head).toNat ≤ 2 ^ v.log2n && (v.tail - v.head).toNat ≤ (t - v.head).toNat then s.setQueue q { v with tail := t }
  else s.refuse q

def State.tailStep (s : State) (f q : Nat) (v : BitVec 64) : Option State := s.onQueue f q fun s => s.writeTail q (v.setWidth 32)

def execQtailWrite (f q : Nat) (v : BitVec 64) (s : State) : Host.Outcome State Fault Refusal := .next ((s.tailStep f q v).getD s)

/-! ## Commands (R70) -/

/-- REGION names a well-formed tenant or region block whose chain resolves to tenant OWNER. -/
def State.regionOk (s : State) (v : Queue) : Bool :=
  match s.block? v.regionAddr, s.chain v.regionAddr with
  | .ok b, .ok c => b.kind != 3 && chainTenant c = v.owner
  | _, _ => false

/-- ENABLE. -/
def State.enableQueue (s : State) (q : Nat) : State :=
  let v := s.queue q
  let s := s.meetAll (s.chainRuns v.regionAddr)
  if v.st = .disabled && s.regionOk v && 6 ≤ v.log2n && v.log2n ≤ 20 then s.setQueue q { v with st := .active } else s.refuse q

/-- DISABLE. -/
def State.disableQueue (s : State) (q : Nat) : State :=
  let v := s.queue q
  if v.st = .active && v.head = v.tail && !s.nodes.any (fun p => p.2.queue = q) then s.setQueue q { v with st := .disabled, err := false }
  else s.refuse q

/-- THAW. -/
def State.thawQueue (s : State) (q : Nat) : State :=
  let v := s.queue q
  if v.st = .frozen then s.setQueue q { v with st := .active, frz := 0 } else s.refuse q

/-- FLUSH of the entry at HEAD: a record that it names and that is NEW completes; one that a fetch would refuse is refused (R73). -/
def State.flushEntry (s : State) (q : Nat) : State :=
  let v := s.queue q
  let s' := (s.meet (v.slotAt v.head) 64).setQueue q { v with head := v.head + 1 }
  match if s.entryReadable v then parseEntry (s.entryWord v) else none with
  | none => s'.refuse q
  | some e =>
    if e.fence then s'
    else if e.crec = 0 || !runInMap e.crec 64 then s'.refuse q
    else if s.poisoned e.crec 64 then s'.barePoison q e
    else if s.recState e.crec ≠ stNew then (s'.meet e.crec 64).refuse q
    else s'.bareComplete q e tokFlushed

def State.flushEntries (s : State) (q : Nat) : Nat → State
  | 0 => s
  | n + 1 => (s.flushEntry q).flushEntries q n

/-- Fetched nodes of a queue that have not begun to run. -/
def State.notRunning (s : State) (q : Nat) : List Nat :=
  (s.nodes.filter fun p => p.2.queue = q && (s.recState p.1 = stWaiting || s.recState p.1 = stReady)).map (·.1)

/-- FLUSH. -/
def State.flushQueue (s : State) (q : Nat) : State :=
  if (s.queue q).st != .frozen then s.refuse q
  else
    let s := (s.notRunning q).foldl (fun s rec =>
      if (s.node? rec).isSome then s.work [.complete rec stCancelled (tokenWord tokFlushed rec) 0] else s) s
    let v := s.queue q
    let s := s.flushEntries q (v.tail - v.head).toNat
    s.setQueue q { s.queue q with st := .active }

def execQueueEnable (f q : Nat) (s : State) : Host.Outcome State Fault Refusal := .next ((s.onQueue f q (·.enableQueue q)).getD s)
def execQueueDisable (f q : Nat) (s : State) : Host.Outcome State Fault Refusal := .next ((s.onQueue f q (·.disableQueue q)).getD s)
def execQueueThaw (f q : Nat) (s : State) : Host.Outcome State Fault Refusal := .next ((s.onQueue f q (·.thawQueue q)).getD s)
def execQueueFlush (f q : Nat) (s : State) : Host.Outcome State Fault Refusal := .next ((s.onQueue f q (·.flushQueue q)).getD s)

/-- Whether the table accepts a command in the queue's state, its conditions included (R70). Command 0 is none. -/
def State.accepts (s : State) (q cmd : Nat) : Bool :=
  let v := s.queue q
  if cmd = 0 then true
  else if cmd = 1 then v.st = .disabled && s.regionOk v && 6 ≤ v.log2n && v.log2n ≤ 20
  else if cmd = 2 then v.st = .active && v.head = v.tail && !s.nodes.any (fun p => p.2.queue = q)
  else if cmd = 3 || cmd = 4 then v.st = .frozen
  else false

/-- QUEUE_CMD_REFUSED: a QCTL code of 5 to 7, or a command that the table does not accept: nothing changes and ERR is set. -/
def State.cmdRefused (s : State) (f q : Nat) (cmd : BitVec 3) : Option State :=
  if s.accepts q cmd.toNat then none else s.onQueue f q (·.refuse q)

def execQueueCmdRefused (f q : Nat) (cmd : BitVec 3) (s : State) : Host.Outcome State Fault Refusal := .next ((s.cmdRefused f q cmd).getD s)

/-! ## Plain registers -/

/-- A write to QBASE or QREGION (R69, R70): refused unless DISABLED; OWNER is firmware's to write. The reserved bits of the value are
dropped, REGION's [47:45] too, since R4 lists no fate for a queue register's reserved bits (DESIGN CHOICE, log entry 57). -/
def State.writeQueueReg (s : State) (f q : Nat) (base : Bool) (v : Word) : State :=
  let r := s.queue q
  if r.st != .disabled then s.refuse q
  else if base then s.setQueue q { r with base := field v 51 12 * 4096, log2n := field v 4 0 }
  else s.setQueue q { r with region := field v 44 0, owner := if f = firmwareFn then field v 63 48 else r.owner }

/-- REGISTER_WRITE: QBASE, QREGION, the mailbox's REQ words and DOOR (15 R305), and firmware's own: a die's row activation threshold, 256 to
16383 (14 R283), and an entry of its gateway's peer table (15 R302), whose form is open: bit 63 marks the peer absent, and the other bits are
the accelerator identifier (DESIGN CHOICE, log entry 47). -/
def State.writeReg (s : State) (f : Nat) (reg : PlainReg) (v : Word) : Option State :=
  match reg with
  | .qbase q => s.onQueue f q fun s => s.writeQueueReg f q true v
  | .qregion q => s.onQueue f q fun s => s.writeQueueReg f q false v
  | .req w => if s.ready && f < 64 && w < 8 then some (s.mapFn f fun x => { x with req := x.req.write 0 w v }) else none
  | .door => if s.ready && f < 64 && bit v 0 then some (s.mapFn f fun x => { x with door := true }) else none
  | .rowTh d =>
    if s.ready && f = firmwareFn && d < 4 && 256 ≤ v.toNat && v.toNat ≤ 16383 then some (s.mapDie d fun x => { x with rowTh := v.toNat }) else none
  | .peerEntry d n =>
    if s.ready && f = firmwareFn && d < 4 && n < 255 then
      some (s.mapDie d fun x => { x with peerTab := if bit v 63 then x.peerTab.erase n else x.peerTab.insert n (field v 62 0) })
    else none

def execRegisterWrite (f : Nat) (reg : PlainReg) (v : Word) (s : State) : Host.Outcome State Fault Refusal :=
  .next ((s.writeReg f reg v).getD s)

end Sys2Proof.Machine
end

