-- ==== Sys2Proof/Machine/HostIf.lean ====
section
/-! DEFINITION. The host's windows: memory, signals and interrupts (15 R293 to R299), and the links to host, dies and packages
(15 R300 to R302). -/

namespace Sys2Proof.Machine

/-! ## Signals (R296 to R298) -/

/-- Tenant of a function. -/
def State.fnTenant (s : State) (f : Nat) : Option Nat :=
  if !s.ready || 64 ≤ f then none
  else match (s.fn f).bind with
    | .tenant t => some t
    | _ => none

/-- The group of a node that HSIG names: the placed or saved one of lowest grid index, the leader of a pair (R298). -/
def State.signalGroup (s : State) (rec : Nat) : Option (Nat × Group) :=
  (s.groups.filter fun p => p.2.node = rec && p.2.leader).foldl (fun m p => match m with
    | none => some p
    | some b => if p.2.grid < b.2.grid then some p else some b) none

/-- HOSTSIG is raised in one context, or stays pending in the node. -/
def State.raiseHostsig (s : State) (rec : Nat) : State :=
  match s.signalGroup rec with
  | none => s.mapNode rec fun n => { n with hostsig := true }
  | some (g, grp) =>
    match grp.place with
    | some p => s.mapSeen (p.key 0 0) fun c => { c with hostsig := true }
    | none => s.mapGroup g fun x => { x with saved := x.saved.map fun c => if c.1 = 0 then (c.1, { c.2 with hostsig := true }) else c }

/-- HOST_SIGNAL_WRITE. -/
def State.hsigStep (s : State) (f : Nat) (v : Word) : Option State :=
  let rec_ := field v 51 6 * 64
  match s.fnTenant f, s.node? rec_ with
  | some t, some n => if n.tenant = t then some (s.raiseHostsig rec_) else none
  | _, _ => none

def execHostSignalWrite (f : Nat) (v : Word) (s : State) : Host.Outcome State Fault Refusal := .next ((s.hsigStep f v).getD s)

/-- Bits of a CPEND word whose queues are the tenant's. -/
def State.ownQueues (s : State) (t word : Nat) : BitVec 64 :=
  BitVec.ofNat 64 (packNat 1 ((List.range 64).map fun i => if (s.queue (64 * word + i)).owner = t then 1 else 0))

/-- CPEND_CLEAR: 1 clears a bit of the tenant's own queues. -/
def State.cpendStep (s : State) (f word : Nat) (v : Word) : Option State :=
  match s.fnTenant f with
  | some t =>
    if word < 256 then
      let m : BitVec 16384 := (v &&& s.ownQueues t word).setWidth 16384 <<< (64 * word)
      some (s.mapFn f fun x => { x with cpend := x.cpend &&& ~~~m })
    else none
  | none => none

def execCpendClear (f word : Nat) (v : Word) (s : State) : Host.Outcome State Fault Refusal := .next ((s.cpendStep f word v).getD s)

/-- SPEND_CLEAR: 1 clears a bit. -/
def State.spendStep (s : State) (f word : Nat) (v : Word) : Option State :=
  match s.fnTenant f with
  | some _ =>
    if word < 4 then
      let m : BitVec 256 := v.setWidth 256 <<< (64 * word)
      some (s.mapFn f fun x => { x with spend := x.spend &&& ~~~m })
    else none
  | none => none

def execSpendClear (f word : Nat) (v : Word) (s : State) : Host.Outcome State Fault Refusal := .next ((s.spendStep f word v).getD s)

/-- Cause bits of vectors 0 and 1 (R297). -/
def Fn.causes (x : Fn) : List Nat := (if x.cpend = 0 then [] else [0]) ++ if x.spend = 0 then [] else [1]

/-- IMASK_WRITE: a vector whose mask clears while a cause bit is set is sent once. -/
def State.imaskStep (s : State) (f : Nat) (v : Word) : Option State :=
  if !s.ready || 64 ≤ f then none
  else
    let x := s.fn f
    let s := s.mapFn f fun x => { x with imask := v.setWidth 4 }
    some (x.causes.foldl (fun s k => if bit x.imask k then s.raiseIrq f k else s) s)

def execImaskWrite (f : Nat) (v : Word) (s : State) : Host.Outcome State Fault Refusal := .next ((s.imaskStep f v).getD s)

/-! ## The memory window (R294, R299) -/

/-- A run of the memory window that the function's tenant may reach: the device's own ranges, granted whole. -/
def State.windowRun (s : State) (f off n : Nat) : Option Nat :=
  match s.fnTenant f with
  | none => none
  | some t =>
    let pa := off - 0x100000000
    if 0x100000000 ≤ off && pa + n ≤ 0x118000000000 && runInMap pa n
      && inRanges (((s.tenants.find t).map (·.ranges)).getD []) pa n then some pa
    else none

/-! ## Registers through a window (R68, R69, R294, R296, R305)

The words of a function's space below the memory window, by their number: the queue window, the signal block, the mailbox. -/

/-- Word k of a queue's register block as a mapping reads it. -/
def Queue.word (v : Queue) (k : Nat) : Word :=
  if k = 0 then BitVec.ofNat 64 (v.base + v.log2n)
  else if k = 1 then BitVec.ofNat 64 (v.owner * 2 ^ 48 + v.region)
  else if k = 2 then v.tail.setWidth 64
  else if k = 3 then
    BitVec.ofNat 64 ((match v.st with | .disabled => 0 | .active => 1 | .frozen => 2) * 2 ^ 62 + (if v.err then 2 ^ 61 else 0) + v.head.toNat)
  else if k = 5 then v.frz
  else 0

/-- Where the windows begin and end, in words, and the first byte of the memory window with its size. -/
def queueWords : Nat := 0x20000
def signalWords : Nat := 0x20000
def mailWords : Nat := 0x22000
def memoryWindow : Nat := 0x100000000
def memoryWindowSize : Nat := 0x200000000000

/-- A word of the registers of a function; other tenants' bits and blocks, and what no table lists, read as zero. -/
def State.regWord (s : State) (f i : Nat) : Word :=
  let x := s.fn f
  if i < queueWords then (if s.reaches f (i / 8) then (s.queue (i / 8)).word (i % 8) else 0)
  else if i < signalWords + 256 then
    match s.fnTenant f with
    | some t => BitVec.ofNat 64 (x.cpend.toNat / 2 ^ (64 * (i - signalWords))) &&& s.ownQueues t (i - signalWords)
    | none => 0
  else if i < signalWords + 260 then (if s.ready then BitVec.ofNat 64 (x.spend.toNat / 2 ^ (64 * (i - signalWords - 256))) else 0)
  else if i = signalWords + 260 then (if s.ready then x.imask.setWidth 64 else 0)
  else if i < mailWords then 0
  else if i < mailWords + 8 then x.req.read 0 (i - mailWords)
  else if i < mailWords + 16 then x.rsp.read 0 (i - mailWords - 8)
  else if i = mailWords + 16 then (if x.door then 1 else 0)
  else 0

/-- Bytes of the registers from an offset. -/
def State.regBytes (s : State) (f off n : Nat) : List Byte :=
  (List.range n).map fun k => BitVec.ofNat 8 ((s.regWord f ((off + k) / 8)).toNat / 2 ^ (8 * ((off + k) % 8)))

/-- A write of QCTL: its command, or its refusal. Bits [63:3] of QCTL, and [63:52] and [5:0] of HSIG (`State.hsigStep`), are ignored: R4 lists no
fate for a reserved bit of a host's write (DESIGN CHOICE, log entry 57). -/
def State.queueCommand (s : State) (f q : Nat) (v : Word) : Option State :=
  let cmd := field v 2 0
  if cmd = 1 then s.onQueue f q (·.enableQueue q)
  else if cmd = 2 then s.onQueue f q (·.disableQueue q)
  else if cmd = 3 then s.onQueue f q (·.thawQueue q)
  else if cmd = 4 then s.onQueue f q (·.flushQueue q)
  else s.cmdRefused f q (BitVec.ofNat 3 cmd)

/-- A write of one word of the registers; one that nothing takes is ignored. -/
def State.regWrite (s : State) (f i : Nat) (v : Word) : State :=
  let w : Option State :=
    if i < queueWords then
      (if i % 8 = 0 then s.writeReg f (.qbase (i / 8)) v
       else if i % 8 = 1 then s.writeReg f (.qregion (i / 8)) v
       else if i % 8 = 2 then s.tailStep f (i / 8) v
       else if i % 8 = 4 then s.queueCommand f (i / 8) v else none)
    else if i < signalWords + 256 then s.cpendStep f (i - signalWords) v
    else if i < signalWords + 260 then s.spendStep f (i - signalWords - 256) v
    else if i = signalWords + 260 then s.imaskStep f v
    else if i = signalWords + 261 then s.hsigStep f v
    else if mailWords ≤ i && i < mailWords + 8 then s.writeReg f (.req (i - mailWords)) v
    else if i = mailWords + 16 then s.writeReg f .door v
    else none
  w.getD s

/-- A write of the registers, word by word from the lowest. One that does not cover its words whole is ignored: the manual gives the registers
no narrower access (DESIGN CHOICE, log entry 41). -/
def State.regWrites (s : State) (f off : Nat) (d : List Byte) : State :=
  if off % 8 != 0 || d.length % 8 != 0 then s
  else (List.range (d.length / 8)).foldl (fun s k => s.regWrite f (off / 8 + k) (BitVec.ofNat 64 (numOf ((d.drop (8 * k)).take 8)))) s

/-- An offset lies in the memory window. -/
def inMemoryWindow (off : Nat) : Bool := memoryWindow ≤ off && off < memoryWindow + memoryWindowSize

/-- HOST_MEMORY_READ: of the memory window granted bytes, all ones otherwise, and no bytes where the read meets poison, which the link reports;
of the registers their bytes. A failed power-on leaves the registers readable, which report its step (R303). -/
def State.hostRead (s : State) (f off n : Nat) : Option State :=
  let answer (s : State) (l : List Byte) : State := { s with answers := s.answers ++ [(f, off, l)] }
  if !s.ready && s.failStep.isNone then none
  else if !inMemoryWindow off then some (answer s (s.regBytes f off n))
  else if !s.ready then none
  else some (match s.windowRun f off n with
    | none => (answer s (List.replicate n 0xFF)).log (.hostAccess f off)
    | some pa => (answer s (if s.locPoisoned (.phys pa) n then [] else readMem s.mem pa n)).meet pa n)

def execHostMemoryRead (f off n : Nat) (s : State) : Host.Outcome State Fault Refusal := .next ((s.hostRead f off n).getD s)

/-- A write from outside: a poisoned line takes one that covers all of it, which clears it, and no other (14 R280). -/
def State.putOutside (s : State) (pa : Nat) (d : List Byte) : State :=
  let s := s.meet pa d.length
  let met := s.poisonMet [(pa, d.length)]
  if met.all (coversLine [(pa, d.length)]) then { s with poison := s.poison.filter fun l => !met.contains l }.writeLoc (.phys pa) d else s

/-- HOST_MEMORY_WRITE. -/
def State.hostWrite (s : State) (f off : Nat) (d : List Byte) : Option State :=
  if !s.ready then none
  else if !inMemoryWindow off then some (s.regWrites f off d)
  else some (match s.windowRun f off d.length with
    | none => s.log (.hostAccess f off)
    | some pa => s.putOutside pa d)

def execHostMemoryWrite (f off : Nat) (d : List Byte) (s : State) : Host.Outcome State Fault Refusal := .next ((s.hostWrite f off d).getD s)

/-! ## Links -/

/-- LINK_REPLAY: a flit is sent again; the reply is late and nothing else changes (R293). -/
def execLinkReplay (_port : Nat) (s : State) : Host.Outcome State Fault Refusal := .next s

/-- UCIE_RETRY: a flit is sent again, or a failed lane is retrained on one of the link's four spares (R300; 14 R292). -/
def State.ucieStep (s : State) (d other : Nat) (lane : Option Nat) : Option State :=
  match lane with
  | none => none
  | some l =>
    let used := (s.die d).lanes.read [] other
    if 4 ≤ d || 4 ≤ other || d = other || used.contains l || 4 ≤ used.length then none
    else
      let put (a b : Nat) (s : State) : State := s.mapDie a fun v => { v with lanes := v.lanes.write [] b (used ++ [l]) }
      some (put d other (put other d s))

def execUcieRetry (d other : Nat) (lane : Option Nat) (s : State) : Host.Outcome State Fault Refusal := .next ((s.ucieStep d other lane).getD s)

/-- UALINK_STATION_RETRAIN: one more lane of the station has failed; its width is x4, x2, then x1 (R301). -/
def State.stationStep (s : State) (d station : Nat) : Option State :=
  if 4 ≤ d || 9 ≤ station || 2 ≤ (s.die d).stations.read 0 station then none
  else some (s.mapDie d fun v => { v with stations := v.stations.update 0 station (· + 1) })

def execUalinkStationRetrain (d station : Nat) (s : State) : Host.Outcome State Fault Refusal := .next ((s.stationStep d station).getD s)

/-- Where an answer to a peer package is listed. -/
def peerAgent (n : Nat) : Nat := 256 + n

/-- UALINK_UNSUPPORTED: the request is answered with an error completion (R301). -/
def State.unsupported (s : State) (peer : Nat) : Option State :=
  if !s.ready then none else some { s with answers := s.answers ++ [(peerAgent peer, 0, [])] }

def execUalinkUnsupported (_d peer : Nat) (s : State) : Host.Outcome State Fault Refusal := .next ((s.unsupported peer).getD s)

/-- An operation's bytes, its kind for the checks, and those that bring bytes back. -/
def peerLen : PeerOp → Nat
  | .read n => n
  | .write d => d.length
  | .atom _ ty .. | .red _ ty .. => ATypeBytes ty
  | .arrive | .count _ => 8

def peerKind : PeerOp → AKind
  | .read _ => .load
  | .write _ => .store
  | .atom .. => .atomic
  | .red .. | .arrive | .count _ => .sync

/-- Where a request of another package performs: one part (08 R188), at its frame, or where the tenant's tree here takes its address, or none
at a handle. The die whose gateway takes the request walks. -/
def State.peerWhere (s : State) (d : Nat) (op : PeerOp) (tenant addr : Nat) : PeerPlace → XRes
  | .frame =>
    if runInMap addr (peerLen op) && inRanges (((s.tenants.find tenant).map (·.ranges)).getD []) addr (peerLen op) then .ok (.phys addr)
    else .fault faultOwner
  | .virt sys tq =>
    let v : Int := signedOf 56 (addr % 2 ^ 56)
    if !vaValid v (peerLen op) then .fault faultCanon
    else match finish (s.viaGateway d) (walkTree s.mem (fun a => s.poisoned a 8) (s.tenants.find tenant) (addr % 2 ^ 56)) sys tq (peerKind op) (addr % 2 ^ 56) with
      | .ok l => if s.peerRefuses tenant l (peerLen op) then .fault faultOwner else .ok l
      | r => r
  | .handle .. => .fault faultUnmapped

/-- The address by which a session stays with its page when that moves; a request that names a frame gives none, and so a number that is no
address (12 R259). -/
def placeVa (addr : Nat) : PeerPlace → Word
  | .virt .. => BitVec.ofInt 64 (signedOf 56 (addr % 2 ^ 56))
  | _ => frameVa

/-- The bytes of an answer. -/
def State.answerPeer (s : State) (peer addr : Nat) (l : List Byte) : State := { s with answers := s.answers ++ [(peerAgent peer, addr, l)] }

/-- A request at its home: reads, whole or partial writes, and the Buckle's operations (09 R203 to R205, R200). A read or an atomic that meets
poison brings no bytes; a reduction, an arrival or a count that meets it changes nothing. None while a reduction finds its store full. -/
def State.peerPerform (s : State) (peer addr : Nat) (op : PeerOp) (tenant : Nat) (place : PeerPlace) (l : Loc) : Option State :=
  let lost := s.locPoisoned l (peerLen op)
  let old := s.readWord l (peerLen op)
  let s := match l, op with
    | .phys pa, .read n => s.touch pa n
    | .phys pa, .write d => (partStarts pa d.length).foldl State.countAccess s
    | _, _ => s
  match op with
  | .read n => some (s.answerPeer peer addr (if lost then [] else s.readLoc l n))
  | .write d => some (match l with
    | .phys pa => s.putOutside pa d
    | .peer .. => s.writeLoc l d)
  | .atom aop ty x cmp =>
    if lost then some (s.answerPeer peer addr [])
    else some ((s.writeWord l (peerLen op) (atomNew aop ty old (atomOperand ty x) (atomOperand ty cmp))).answerPeer peer addr (bytesOf (peerLen op) old))
  | .red aop ty v n i => if lost then some (s.closeSession l) else (s.contributeAt l tenant aop ty (placeVa addr place) v n i none old).map fun r => r.1.finishIds r.2
  | .arrive => some (if lost then s else s.writeWord l 8 (phaseNext old))
  | .count n => some (if lost then s else s.writeWord l 8 ((old + n) % 2 ^ 64))

/-- An access to a handle that a die here exports (08 R173 to R175): while its group is saved it waits. -/
def State.peerHandle (s : State) (peer : Nat) (op : PeerOp) (tenant die key off : Nat) : Option State :=
  match s.target 0 tenant (.key none die key), op with
  | .waits, _ => none
  | .absent, _ => some (s.answerPeer peer off [])
  | f, .read n => some (s.answerPeer peer off (if s.foundPoisoned f off n then [] else s.foundBytes f off n))
  | f, .write d => some (if s.foundTorn f off d.length then s else s.foundWrite f off d)
  | _, _ => s.unsupported peer

/-- PEER_ACCESS_ARRIVE: a request of at most 256 bytes (R301). The frame is checked against the tenant's ranges, and one outside them performs
nothing and is logged (R302); where the tenant's tree here gives another fault, or no page, the completion brings no bytes (12 R254). A write or
an atomic to a page under migration is not served yet: the agenda names the request again (log entry 47). -/
def State.peerAccess (s : State) (d peer : Nat) (op : PeerOp) (tenant : Nat) (place : PeerPlace) (addr : Nat) : Option State :=
  if !s.ready || 4 ≤ d then none
  else if 256 < (peerLen op) then s.unsupported peer
  else match place with
    | .handle die key => s.peerHandle peer op tenant die key addr
    | .frame | .virt .. =>
      match s.peerWhere d op tenant addr place with
      | .ok l => s.peerPerform peer addr op tenant place l
      | .held => none
      | .fault f => some (if f = faultOwner then (s.answerPeer peer addr []).log (.peerRefused peer addr) else s.answerPeer peer addr [])
      | .nonres | .poison _ => some (s.answerPeer peer addr [])

def execPeerAccessArrive (d peer : Nat) (op : PeerOp) (tenant : Nat) (place : PeerPlace) (addr : Nat) (s : State) :
    Host.Outcome State Fault Refusal :=
  .next ((s.peerAccess d peer op tenant place addr).getD s)

end Sys2Proof.Machine
end

