-- ==== Sys2Proof/Machine/Firmware.lean ====
section
/-! DEFINITION. The mailbox's commands (15 R304 to R308; 08 R186; 11 R248; 12 R249; 14 R290). -/

namespace Sys2Proof.Machine

/-! ## Requests and responses (R305) -/

/-- STATUS codes. -/
def stsDone : Nat := 0
def stsRefused : Nat := 1
def stsMalformed : Nat := 2

/-- REQ word k of a function. -/
def State.reqWord (s : State) (f k : Nat) : Word := (s.fn f).req.read 0 k
def State.reqNat (s : State) (f k : Nat) : Nat := (s.reqWord f k).toNat

/-- RSP is written and DOOR[0] reads 0 again. -/
def State.respond (s : State) (f status : Nat) (words : List Word) : State :=
  let rsp : Tab Word := ((List.range 8).zip (BitVec.ofNat 64 status :: words)).foldl (fun (t : Tab Word) (p : Nat × Word) => Tab.write 0 t p.1 p.2) []
  s.mapFn f fun x => { x with rsp := rsp, door := false }

/-- What a command comes to. -/
inductive Answer where
  | done (s : State) (words : List Word)
  | status (n : Nat)

/-- A submitted command with a code: it answers, and changes nothing unless it is done. -/
def State.mailbox (s : State) (f code : Nat) (run : State → Answer) : Option State :=
  if !s.ready || 64 ≤ f || !(s.fn f).door || field (s.reqWord f 0) 7 0 != code then none
  else some (match run s with
    | .done s words => s.respond f stsDone words
    | .status n => s.respond f n [])

/-- Commands of the owner's function. -/
def State.ownerOnly (s : State) (f : Nat) (a : Answer) : Answer := if (s.fn f).bind = .owner then a else .status stsRefused

/-- Commands that act on the issuing function's tenant. -/
def State.forTenant (s : State) (f : Nat) (a : Nat → Tenant → Answer) : Answer :=
  match (s.fn f).bind with
  | .tenant t => match s.tenants.find t with
    | some v => a t v
    | none => .status stsRefused
  | _ => .status stsRefused

/-- An argument in range, or STATUS 2. -/
def argOk (b : Bool) (a : Answer) : Answer := if b then a else .status stsMalformed

/-- A command that may be carried out, or STATUS 1. -/
def mayDo (b : Bool) (a : Answer) : Answer := if b then a else .status stsRefused

/-! ## Tenants -/

/-- Every entry of a tenant on every die becomes EMPTY (11 R248). -/
def State.clearTenantLining (s : State) (t : Nat) : State :=
  let entries := [0, 1, 2, 3].flatMap fun d => ((s.die d).lining.filter fun p => p.2.tenant = t).map fun p => (d, p.1)
  entries.foldl (fun s e => s.clearEntry e.1 e.2) s

/-- TENANT_NEW: tenant identifier, function. What nodes of an earlier tenant of that identifier have claimed since its removal goes (11 R248). -/
def State.tenantNew (s : State) (f : Nat) : Option State :=
  s.mailbox f 0x01 fun s =>
    let t := s.reqNat f 1
    let g := s.reqNat f 2
    s.ownerOnly f <| argOk (t < 65536 && g < 64) <| mayDo ((s.tenants.find t).isNone && (s.fn g).bind = .none) <|
      .done (({ s with tenants := s.tenants.insert t ⟨g, [], none⟩ }.mapFn g fun x => { x with bind := .tenant t }).clearTenantLining t) []

def execTenantNew (f : Nat) (s : State) : Host.Outcome State Fault Refusal := .next ((s.tenantNew f).getD s)

/-- An entry withdrawn from its tenant (12 R249). -/
def MEnt.withdrawn (e : MEnt) (tenant : Option Nat) : MEnt := { MEnt.reset with version := e.version, tenant := tenant }

/-- A tenant goes: its ranges, functions, Lining entries (11 R248), Mantle grants, and the poison of lines that it owned (14 R280). -/
def State.removeTenant (s : State) (t : Nat) (v : Tenant) : State :=
  let s : State := { s with
    tenants := s.tenants.erase t
    poison := s.poison.filter fun l => !inRanges v.ranges (64 * l) 64
    mantle := s.mantle.foldl (fun m p => if p.2.tenant = some t then m.write .reset p.1 (p.2.withdrawn none) else m) s.mantle
    fns := s.fns.foldl (fun m p => if p.2.bind = .tenant t then m.write .reset p.1 { p.2 with bind := .none } else m) s.fns }
  s.clearTenantLining t

/-- TENANT_DEL: tenant. -/
def State.tenantDel (s : State) (f : Nat) : Option State :=
  s.mailbox f 0x02 fun s =>
    let t := s.reqNat f 1
    s.ownerOnly f <| argOk (t < 65536) <|
      match s.tenants.find t with
      | none => .status stsRefused
      | some v => .done (s.removeTenant t v) []

def execTenantDel (f : Nat) (s : State) : Host.Outcome State Fault Refusal := .next ((s.tenantDel f).getD s)

/-- GRANT_MEM: tenant, physical base, size in 32 KiB pages. A range outside the map is malformed (08 R425). -/
def State.grantMem (s : State) (f : Nat) : Option State :=
  s.mailbox f 0x03 fun s =>
    let t := s.reqNat f 1
    let base := s.reqNat f 2
    let n := s.reqNat f 3 * 0x8000
    s.ownerOnly f <| argOk (t < 65536 && base % 0x8000 = 0 && n != 0 && runInMap base n) <|
      match s.tenants.find t with
      | none => .status stsRefused
      | some v => .done { s with tenants := s.tenants.insert t { v with ranges := v.ranges ++ [(base, n)] } } []

def execGrantMem (f : Nat) (s : State) : Host.Outcome State Fault Refusal := .next ((s.grantMem f).getD s)

/-- SET_ROOT: physical address of the root table, 32 KiB aligned (08 R178). One outside the map fails at the first walk (08 R425). -/
def State.setRoot (s : State) (f : Nat) : Option State :=
  s.mailbox f 0x04 fun s =>
    let pa := s.reqNat f 1
    s.forTenant f fun t v =>
      argOk (pa % 0x8000 = 0) (.done { s with tenants := s.tenants.insert t { v with root := some pa } } [])

def execSetRoot (f : Nat) (s : State) : Host.Outcome State Fault Refusal := .next ((s.setRoot f).getD s)

/-! ## The Mantle (12 R249) -/

/-- MANTLE_GRANT: tenant, entry. -/
def State.mantleGrant (s : State) (f : Nat) : Option State :=
  s.mailbox f 0x05 fun s =>
    let t := s.reqNat f 1
    let i := s.reqNat f 2
    s.ownerOnly f <| argOk (t < 65536 && i < 4096) <| mayDo (s.tenants.find t).isSome <|
      .done { s with mantle := s.mantle.update .reset i fun e => e.withdrawn (some t) } []

def execMantleGrant (f : Nat) (s : State) : Host.Outcome State Fault Refusal := .next ((s.mantleGrant f).getD s)

/-- MANTLE_DROP: tenant, entry. -/
def State.mantleDrop (s : State) (f : Nat) : Option State :=
  s.mailbox f 0x0B fun s =>
    let t := s.reqNat f 1
    let i := s.reqNat f 2
    s.ownerOnly f <| argOk (t < 65536 && i < 4096) <| mayDo ((s.mantle.read .reset i).tenant = some t) <|
      .done { s with mantle := s.mantle.update .reset i fun e => e.withdrawn none } []

def execMantleDrop (f : Nat) (s : State) : Host.Outcome State Fault Refusal := .next ((s.mantleDrop f).getD s)

/-! ## Counters and logs -/

/-- Access counters of a die's blocks, and those of the others'. -/
def ownCounters (d : Nat) (t : Tab Nat) : Tab Nat := t.filter fun p => paDie (p.1 * 0x10000) = d
def otherDies (d : Nat) (t : Tab Nat) : Tab Nat := t.filter fun p => paDie (p.1 * 0x10000) != d

/-- COUNTERS: die, threshold. The driver reads the event queue and the die's counters in RSP, and they are empty again (08 R186; how RSP lays them
out is open: log entry 7). -/
def State.counters (s : State) (f : Nat) : Option State :=
  s.mailbox f 0x06 fun s =>
    let d := s.reqNat f 1
    let th := s.reqNat f 2
    s.ownerOnly f <| argOk (d < 4 && th < 65536) <|
      let words := (List.range 7).map fun k => Config.eventWord (s.die d).events (s.die d).overflow (ownCounters d s.accCount) k
      .done ({ s with accCount := otherDies d s.accCount }.mapDie d fun v =>
        { v with accTh := th, events := [], overflow := false }) words

def execCounters (f : Nat) (s : State) : Host.Outcome State Fault Refusal := .next ((s.counters f).getD s)

/-- What a record of the log holds, as numbers: its kind and its places. -/
def Ras.numbers : Ras → List Nat
  | .owner pa => [0, pa]
  | .correctable u => [1, u]
  | .uncorrectable u => [2, u]
  | .successor rec_ => [3, rec_]
  | .hostAccess f off => [4, f, off]
  | .peerRefused n pa => [5, n, pa]
  | .strike u => [6, u]
  | .poisonClear rec_ => [7, rec_]
  | .dieFailed d => [8, d]
  | .spared u => [9, u]

/-- LOG_READ: the next record of the log goes out in RSP (its layout is open: log entry 7); with none left it is refused. -/
def State.logRead (s : State) (f : Nat) : Option State :=
  s.mailbox f 0x0A fun s =>
    s.ownerOnly f <|
      match s.ras with
      | [] => .status stsRefused
      | r :: rest => .done { s with ras := rest } ((List.range 7).map fun k => Config.logWord r.numbers k)

def execLogRead (f : Nat) (s : State) : Host.Outcome State Fault Refusal := .next ((s.logRead f).getD s)

/-! ## Trace (R308) -/

/-- TRACE_BIND: region block, ring base, log2 of its size, sample period. -/
def State.traceBind (s : State) (f : Nat) : Option State :=
  s.mailbox f 0x07 fun s =>
    let region := s.reqNat f 1
    let base := s.reqNat f 2
    let k := s.reqNat f 3
    s.forTenant f fun t v =>
      argOk (16 ≤ k && k ≤ 36 && base % 2 ^ k = 0 && runInMap base (2 ^ k)) <|
      match s.block? region, s.chain region with
      | .ok b, .ok c =>
        argOk (b.kind != 3) <| mayDo (chainTenant c = t && inRanges v.ranges base (2 ^ k)) <|
          .done { s.meetAll (s.chainRuns region) with
            rings := (s.rings.filter fun r => r.region != region) ++ [⟨region, base, k, s.reqNat f 4⟩] } []
      | _, _ => .status stsMalformed

def execTraceBind (f : Nat) (s : State) : Host.Outcome State Fault Refusal := .next ((s.traceBind f).getD s)

/-! ## Attestation (R306, R307) -/

/-- The quote's first 160 bytes. -/
def State.quoteBody (s : State) (t : Nat) (nonce : List Byte) : List Byte :=
  nonce ++ hashBytes s.meas0 ++ hashBytes s.meas1 ++ bytesOf 8 capWord.toNat ++ bytesOf 8 t ++ List.replicate 16 0

/-- The signature of a quote's first 160 bytes by the device's attestation key (R306). -/
def quoteSignature (body : List Byte) : List Byte :=
  signatureBytes (ecdsaSign Config.attestKey (Config.signNonce body) (sha384 body))

/-- QUOTE: it is written into the tenant's first granted page, and RSP word 1 is its physical address: R307 names a pointer and not its form
(DESIGN CHOICE, log entry 7). -/
def State.quote (s : State) (f : Nat) : Option State :=
  s.mailbox f 0x08 fun s =>
    s.forTenant f fun t v =>
      match v.ranges with
      | [] => .status stsRefused
      | r :: _ =>
        let body := s.quoteBody t ((List.range 4).flatMap fun k => bytesOf 8 (s.reqNat f (k + 1)))
        .done (s.putOutside r.1 (body ++ quoteSignature body)) [BitVec.ofNat 64 r.1]

def execQuote (f : Nat) (s : State) : Host.Outcome State Fault Refusal := .next ((s.quote f).getD s)

/-! ## Quarantine (14 R289, R290) -/

/-- QUARANTINE: unit identifier, 1 set or 0 clear. -/
def State.quarantineStep (s : State) (f : Nat) : Option State :=
  s.mailbox f 0x09 fun s =>
    let u := BitVec.ofNat 32 (s.reqNat f 1)
    let set := s.reqNat f 2
    s.ownerOnly f <| argOk (s.reqNat f 1 < 2 ^ 32 && set < 2 && unitOk u) <|
      if set = 1 then .done ((s.setQuarantine u).breakPairs fun t => s.unitOf t = u) []
      else .done { s with quarantine := s.quarantine.filter (· != u) } []

def execQuarantine (f : Nat) (s : State) : Host.Outcome State Fault Refusal := .next ((s.quarantineStep f).getD s)

/-- MAILBOX_UNKNOWN: STATUS 2. -/
def State.mailboxUnknown (s : State) (f : Nat) : Option State :=
  let code := field (s.reqWord f 0) 7 0
  if 1 ≤ code && code ≤ 0x0B then none else s.mailbox f code fun _ => .status stsMalformed

def execMailboxUnknown (f : Nat) (s : State) : Host.Outcome State Fault Refusal := .next ((s.mailboxUnknown f).getD s)

end Sys2Proof.Machine
end

