-- ==== Sys2Proof/Machine/Reliability.lean ====
section
/-! DEFINITION. Power (15 R303, R306), tile repair (14 R290, R291; 01 R16 to R18), strikes and rewind (14 R285 to R288; 13 R278), and row
refreshes (14 R283). -/

namespace Sys2Proof.Machine

/-! ## Power -/

/-- A die that cannot present its mesh is failed: firmware hears of it, nothing is placed on it, and pairs with a copy there are broken
(01 R18; 03 R67). -/
def State.failDie (s : State) (d : Nat) : State :=
  if (s.die d).failed then s
  else ((s.mapDie d fun v => { v with failed := true }).log (.dieFailed d)).breakPairs fun t => tileDie t = d

/-- The tile tests: the physical columns of a die with a bad tile set its mapping, or fail it (01 R16, R18; R303 step 4). -/
def State.testTiles (s : State) (bad : List (Nat × Nat × Nat)) (d : Nat) : State :=
  match ((bad.filter fun b => b.1 = d).map (·.2.1)).eraseDups with
  | [] => s.mapDie d fun v => { v with retired := none }
  | [c] => s.mapDie d fun v => { v with retired := some c }
  | _ => s.failDie d

/-- The entries of a die's peer table (R302; R303 step 5): (die, peer number, accelerator identifier). -/
def State.loadPeers (s : State) (peers : List (Nat × Nat × Nat)) (d : Nat) : State :=
  s.mapDie d fun v => { v with
    peerTab := (peers.filter fun e => e.1 = d && e.2.1 < 255).foldl (fun (t : Tab Nat) e => Tab.insert t e.2.1 e.2.2) [] }

/-- The step that stops the sequence: one that fails of itself, or the first whose image is not accepted (R303, R306). -/
def powerFailure (failStep : Option Nat) : Option Nat :=
  let f (n : Nat) : Option Nat := if failStep.any fun k => k < n then failStep else if imageOk n then none else some n
  (f 1).or ((f 2).or failStep)

/-- POWER_ON (R303). A step's image is measured before it is verified. `bad`: the tiles that fail their tests; `peers`: what firmware loads
into the peer tables. Function 0 is the device owner's (log entry 3). -/
def State.powerOn (s : State) (failStep : Option Nat) (bad : List (Nat × Nat × Nat)) (peers : List (Nat × Nat × Nat)) : Option State :=
  if s.ready || s.failStep.isSome then none
  else
    let failed := powerFailure failStep
    let reached (n : Nat) : Bool := failed.all fun k => n ≤ k
    let done (n : Nat) : Bool := failed.all fun k => n < k
    let s := { s with
      failStep := failed
      meas0 := if reached 1 then extend 0 (Config.image 1) else 0
      meas1 := if reached 2 then extend 0 (Config.image 2) else 0
      poison := if done 3 then [] else s.poison
      ecc := if done 3 then { s.ecc with lines := [] } else s.ecc
      accCount := if done 3 then [] else s.accCount
      fns := s.fns.write .reset 0 { Fn.reset with bind := .owner } }
    let s := if done 4 then [0, 1, 2, 3].foldl (fun s d => s.testTiles bad d) s else s
    let s := if done 5 then [0, 1, 2, 3].foldl (fun s d => s.loadPeers peers d) s else s
    match failed with
    | none => some { s with ready := true }
    | some n =>
      some ((List.range 64).foldl (fun s f => s.mapFn f fun x => { x with rsp := Tab.write 0 x.rsp 0 (BitVec.ofNat 64 (0x10 + n)) }) s)

def execPowerOn (found : PowerOn) (s : State) :
    Host.Outcome State Fault Refusal :=
  .next ((s.powerOn found.failStep found.bad found.peers).getD s)

/-- POWER_REMOVAL: no device state survives. What is outside the device does: host memory, the peer packages, what the host has been
told, and the order of outside events that the model is given. -/
def State.powerRemoval (s : State) : State :=
  { State.reset with
    mem := s.mem.filter fun c => inHost c.1
    peers := s.peers, irqs := s.irqs, answers := s.answers, agenda := s.agenda, free := s.free
    upsets := s.upsets.map fun p => (p.1 - s.clock, p.2) }

def execPowerRemoval (s : State) : Host.Outcome State Fault Refusal := .next s.powerRemoval

/-! ## Columns (R290, R291) -/

/-- The groups with a context in the logical columns from k on of a die. -/
def State.groupsInColumns (s : State) (d k : Nat) : List Nat := s.groupsOn fun t => tileDie t = d && k ≤ t % 8

/-- A column's retirement begins: nothing is placed there, and the groups there are pre-empted, both copies of a pair. On a die that has
retired a column already the die is failed, and its pairs are broken. -/
def State.beginRetire (s : State) (d c : Nat) : State :=
  if (s.die d).retired.isSome then s.failDie d
  else
    let s := s.mapDie d fun v => { v with retiring := some c }
    let gs := ((s.groupsInColumns d c).flatMap s.withTwin).eraseDups
    let s := gs.foldl (fun s g => s.mapGroup g fun x => { x with stop := x.stop.or (some (s.now, false)) }) s
    gs.foldl State.stopGroup s

/-- The mapping takes the column once all of its groups are saved or gone. -/
def State.endRetire (s : State) (d c : Nat) : State := s.mapDie d fun v => { v with retired := some c, retiring := none }

/-- TILE_DIAGNOSTIC of a quarantined tile: a pass lifts the quarantine, a failure retires the column, in two steps. -/
def State.diagnostic (s : State) (u : BitVec 32) (pass : Bool) : Option State :=
  match unitTile u with
  | none => none
  | some (d, c, _) =>
    if !s.ready || !s.quarantine.contains u then none
    else if pass then some { s with quarantine := s.quarantine.filter (· != u) }
    else
      match (s.die d).retiring with
      | some k => if k != c then (if (s.die d).failed then none else some (s.failDie d))
        else if (s.groupsInColumns d c).isEmpty then some (s.endRetire d c) else none
      | none => if (s.die d).retired = some c || (s.die d).failed then none else some (s.beginRetire d c)

def execTileDiagnostic (u : BitVec 32) (pass : Bool) (s : State) : Host.Outcome State Fault Refusal := .next ((s.diagnostic u pass).getD s)

/-! ## Errors that are found (R279, R292) -/

/-- A tile that firmware no longer trusts: it is quarantined, its pairs are broken, and its column's retirement begins (R290 to R292). -/
def State.retireTile (s : State) (u : BitVec 32) : State :=
  match unitTile u with
  | none => s
  | some (d, c, _) =>
    if s.quarantine.contains u || (s.die d).failed then s
    else
      let s := (s.setQuarantine u).breakPairs fun t => s.unitOf t = u
      match (s.die d).retiring with
      | some k => if k = c then s else s.failDie d
      | none => s.beginRetire d c

/-- Tiles with more correctable events than firmware lets pass: each is retired, and its count begins anew (R292). -/
def State.retireWorn (s : State) : State :=
  s.ecc.events.foldl (fun s p =>
    let u := BitVec.ofNat 32 p.1
    if (unitTile u).isSome && s.worn u then ({ s with ecc := { s.ecc with events := s.ecc.events.erase p.1 } }).retireTile u else s) s

/-- An uncorrectable event of a tile. -/
def State.tileLost (s : State) (tile : Nat) : State := (s.log (.uncorrectable (s.unitOf tile).toNat)).retireTile (s.unitOf tile)

/-! ## Rewind (R285 to R288) -/

/-- Clocks of 1.5 GHz in 64 ns. -/
def rewindClocks : Nat := 96

/-- The tile at a physical place is affected by a report: the named one and its four neighbours. -/
def nearby (pcol row c r : Nat) : Bool := (c = pcol && (r = row || r + 1 = row || r = row + 1)) || (r = row && (c + 1 = pcol || c = pcol + 1))

/-- Groups that a report rewinds, with their copies. -/
def State.struck (s : State) (d pcol row : Nat) : List Nat :=
  ((s.groupsOn fun t => tileDie t = d && nearby pcol row ((s.die d).physical (t % 8)) (t % 64 / 8)).flatMap s.withTwin).eraseDups

/-- The older copy at which a context's first bundle since a wall time issued. -/
def State.firstSince (s : State) (key t : Nat) : Option Snap := s.undo.find? fun u => u.key = key && t ≤ u.clock

/-- The combined count that a context goes back to by itself. -/
def State.ownPosition (s : State) (t : Nat) (key : Nat) (c : Ctx) : Nat := ((s.firstSince key t).map fun u => u.ctx.comb).getD c.comb

/-- Both twins take the lower of their two positions. -/
def State.position (s : State) (t : Nat) (key : Nat) (c : Ctx) : Nat :=
  let n := s.ownPosition t key c
  match s.twinOf c with
  | some (k, tc) => Nat.min n (s.ownPosition t k tc)
  | none => n

/-- The context as it stood at a combined count. -/
def State.contextAt (s : State) (key : Nat) (c : Ctx) (n : Nat) : Ctx :=
  if c.comb ≤ n then c
  else match s.undo.find? fun u => u.key = key && u.ctx.grp = c.grp && n ≤ u.ctx.comb with
    | some u => u.ctx
    | none => c

/-- A unit that an error beyond its code has struck since stays poisoned, and bits in error stay in error (14 R279; DESIGN CHOICE, log entry
55). What the log holds comes out of it corrected. -/
def Ctx.keepErrors (old cur : Ctx) : Ctx :=
  { old with bad := old.bad ++ cur.bad.filter fun u => !old.bad.contains u, flaws := cur.flaws }

/-- What a restored context keeps of the present: its trace, and STOPPED when its group was being saved (13 R275). -/
def Ctx.restoredOver (old cur : Ctx) (saving : Bool) : Ctx :=
  { old.keepErrors cur with
    status := if saving then .stopped else .ready
    leaseWait := none, stall := none, idleTill := 0, tracePc := cur.tracePc, bnd := cur.bnd, sinceSync := cur.sinceSync
    needSync := cur.needSync, firstSync := cur.firstSync }

/-- Messages that a channel's sender has taken back leave the head, and the sender has a credit for each place left (02 R40). -/
def State.settleChannel (s : State) (g : Nat) (ch : Chan) : State :=
  match s.groupKey g ch.sdx ch.sdy, s.groupKey g ch.rdx ch.rdy with
  | some ks, some kr =>
    match s.ctx? ks, s.ctx? kr with
    | some cs, some cr =>
      let h := cr.head ch.rhead
      let sent := ((cs.port ch.sport).seq - h.next).toNat
      let skid := h.skid.take sent
      let going := s.flights.filter fun f => f.grp = g && f.dx = ch.rdx && f.dy = ch.rdy && f.head = ch.rhead
      let keep := going.take (sent - skid.length)
      let pending := ((cs.inflight ++ cs.trapEntries).filter fun f => f.act = .port ch.sport).length
      let s := { s with flights := s.flights.filter fun f => !going.any (fun x => x.id = f.id) || keep.any fun x => x.id = f.id }
      let s := s.mapCtx kr fun c => { c with heads := c.heads.write .empty ch.rhead { h with skid := skid } }
      s.mapCtx ks fun c =>
        { c with ports := c.ports.write .empty ch.sport { c.port ch.sport with credits := 16 - (skid.length + keep.length + pending) } }
    | _, _ => s
  | _, _ => s

/-- The group is being saved: every context of it, in both copies of a pair, has stopped or exited (13 R275). -/
def State.saving (s : State) (g : Nat) : Bool :=
  let both := s.withTwin g
  let all := s.ctxs.filter fun p => both.contains p.2.grp
  all.all (fun p => p.2.rests) && all.any fun p => p.2.status = .stopped

/-- Views that a leader which goes back will leave again. -/
def State.dropViews (s : State) (c old : Ctx) : State :=
  { s with views := s.views.filter fun v =>
      !(v.grp = c.grp && v.dx = c.dx && v.dy = c.dy && (old.issued < v.num || (v.num = old.issued && old.trapLog.length ≤ v.traps))) }

/-- Exports that bindings have added or removed since the state to which a context goes back (08 R174); a pair's are its leader's. -/
def State.undoExports (s : State) (key : Nat) (c old : Ctx) : State :=
  if (s.group? c.grp).all fun g => !g.leader then s
  else
    let changed := ((c.handles ++ old.handles).map (·.1)).eraseDups.filter fun h => (c.handle h).exportKey != (old.handle h).exportKey
    changed.foldl (fun s h =>
      let s := s.removeExport c.grp c h
      match (old.handle h).exportKey with
      | some k => s.addExport (keyDie key) c.grp c h k
      | none => s) s

/-- One context goes back; one that stays where it is loses nothing, and its trace says so. -/
def State.rewindContext (s : State) (key : Nat) (old : Ctx) (saving : Bool) : State :=
  match s.ctx? key with
  | none => s
  | some c =>
    if old.comb = c.comb then s.traceThenSync key (pktRewind (key % 4) 0)
    else
      let s := s.endStall key
      let c := (s.ctx? key).getD c
      let s := old.flaws.foldl (fun s _ => s.correctable (s.unitOf (keyTile key))) s
      let s := ((s.leaveIssue key).undoExports key c old).setCtx key (old.restoredOver c saving)
      let s := { s.dropViews c old with
        accs := s.accs.filter fun a => !(a.ctx = key && a.grp = c.grp && old.progNo ≤ a.order)
        undo := s.undo.filter fun u => !(u.key = key && old.comb ≤ u.ctx.comb)
        cur := if s.cur = some key then none else s.cur }
      s.traceThenSync key (pktRewind (key % 4) (c.comb - old.comb))

/-- The contexts of some groups with the state that each goes back to. -/
def State.rewindPlan (s : State) (gs : List Nat) : List (Nat × Ctx × Bool) :=
  let t := s.clock - rewindClocks
  (s.ctxs.filter fun p => gs.contains p.2.grp).map fun p =>
    (p.1, s.contextAt p.1 p.2 (s.position t p.1 p.2), s.saving p.2.grp)

/-! ## Errors that strike (R279) -/

/-- Bits of a unit turn over: a code that can still correct keeps them as bits in error, and one that cannot poisons the unit; whether it is
newly poisoned. -/
def Ctx.upset (c : Ctx) (u : CUnit) (bits : List Nat) : Ctx × Bool :=
  if c.bad.contains u then (c, false)
  else
    let now := mergeBits (((c.flaws.find? fun p => p.1 = u).map (·.2)).getD []) bits
    let rest := c.flaws.filter fun p => p.1 != u
    if secdedCorrects now then ({ c with flaws := if now.isEmpty then rest else rest ++ [(u, now)] }, false)
    else ({ c with bad := c.bad ++ [u], flaws := rest }, true)

/-- The correctable bits of the contexts of a tile, and of its undo log, are put right. -/
def State.scrubTile (s : State) (tile : Nat) : State :=
  let n := ((s.ctxs.filter fun p => keyTile p.1 = tile).map fun p => p.2.flaws.length).foldl (· + ·) 0
    + ((s.undo.filter fun u => keyTile u.key = tile).map fun u => u.ctx.flaws.length).foldl (· + ·) 0
  let s := { s with
    ctxs := s.ctxs.map fun p => if keyTile p.1 = tile then (p.1, { p.2 with flaws := [] }) else p
    undo := s.undo.map fun u => if keyTile u.key = tile then { u with ctx := { u.ctx with flaws := [] } } else u }
  (List.range n).foldl (fun s _ => s.correctable (s.unitOf tile)) s

/-- The words of a Buckle are put right. -/
def State.scrubBuckle (s : State) (d : Nat) : State :=
  let mine := s.ecc.words.filter fun p => paDie p.1 = d
  mine.foldl (fun s p => (({ s with ecc := { s.ecc with words := s.ecc.words.erase p.1 } }).correctable (unitId kindBuckle d 0 0 0)).countBuckleRow
    p.1) s

/-- Firmware scrubs the storage of a unit that is no tile (R285): a Buckle's words, or the lines of a stack or a module. -/
def State.scrub (s : State) (u : BitVec 32) : State :=
  if unitKind u = kindBuckle then s.scrubBuckle (unitDie u)
  else if unitKind u = kindStack || unitKind u = kindModule then
    ((s.ecc.lines.map (·.1)).filter fun l => lineUnit l = u).foldl State.meetLine s
  else s

/-- An error strikes. What its code corrects is found by the next access to a line, or by a scrub; what it cannot correct is found at once
(DESIGN CHOICE, log entry 55). The manual says nothing of an export directory entry past correction: it is lost. A parity error of a TLB drops
its entry; one of an instruction cache or a reply skid makes the bundle or the reply late, which changes no value (R279). -/
def State.upset (s : State) : Upset → State
  | .line l e =>
    if s.poison.contains l || !(inHbm (64 * l) || inCap (64 * l)) then s
    else
      let s := { s with ecc := { s.ecc with lines := s.ecc.lines.write [] l (mergeSymbols (s.ecc.lines.read [] l) e) } }
      if s.unreadable l then s.lineLost l else s
  | .unit key u bits =>
    match s.ctx? key with
    | none => s
    | some c => let r := c.upset u bits; let s := s.setCtx key r.1; if r.2 then s.tileLost (keyTile key) else s
  | .undo key clock u bits =>
    match s.undo.find? fun x => x.key = key && x.clock = clock with
    | none => s
    | some x =>
      let r := x.ctx.upset u bits
      let s := { s with undo := s.undo.map fun y => if y.key = key && y.clock = clock then { y with ctx := r.1 } else y }
      if r.2 then s.tileLost (keyTile key) else s
  | .word pa bits =>
    let pa := pa / 8 * 8
    let now := mergeBits (s.ecc.words.read [] pa) bits
    let u := unitId kindBuckle (paDie pa) 0 0 0
    if secdedCorrects now then { s with ecc := { s.ecc with words := s.ecc.words.write [] pa now } }
    else
      let s := { s with ecc := { s.ecc with words := s.ecc.words.erase pa } }.poisonWord (.phys pa) 8
      (s.log (.uncorrectable u.toNat)).spareBuckleRow (Config.buckleRowOf pa) (paDie pa)
  | .lining d i bits =>
    let u := unitId kindDispatcher d 0 0 0
    if secdedCorrects bits then s.correctable u else (s.clearEntry d i).log (.uncorrectable u.toNat)
  | .mantle d _ bits =>
    let u := unitId kindDispatcher d 0 0 0
    if secdedCorrects bits then s.correctable u else s.log (.uncorrectable u.toNat)
  | .exports d i bits =>
    let u := unitId kindDispatcher d 0 0 0
    if secdedCorrects bits then s.correctable u
    else (s.mapDie d fun v => { v with exports := v.exports.eraseIdx i }).log (.uncorrectable u.toNat)
  | .tlb tile i => s.mapTile tile fun t => { t with tlb := t.tlb.eraseIdx i }
  | .icache _ | .skidReply .. => s
  | .counter row bits =>
    { s with rowCount := s.rowCount.update 0 row fun w => w ^^^ (bits.filter (· < 16)).foldl (fun n b => n ^^^ 2 ^ b) 0 }
  | .tsv t => if s.ecc.tsvBad.contains t then s else { s with ecc := { s.ecc with tsvBad := s.ecc.tsvBad ++ [t] } }

/-- The errors that strike by now. -/
def State.upsetsDue (s : State) : State :=
  if s.upsets.isEmpty then s
  else ((s.upsets.filter fun p => p.1 ≤ s.clock).map (·.2)).foldl State.upset { s with upsets := s.upsets.filter fun p => s.clock < p.1 }

/-! ## Strikes (R285) -/

/-- Tiles of a die that a report affects. -/
def State.affected (s : State) (d pcol row : Nat) : List Nat :=
  ((List.range 64).map (64 * d + ·)).filter fun t => nearby pcol row ((s.die d).physical (t % 8)) (t % 64 / 8)

/-- A strike at a tile: the groups on it and its neighbours go back, and their tiles' storage is scrubbed (R286). -/
def State.strikeTile (s : State) (d pcol row : Nat) : State :=
  let gs := s.struck d pcol row
  let s := (s.rewindPlan gs).foldl (fun s p => s.rewindContext p.1 p.2.1 p.2.2) s
  let s := gs.foldl (fun s g => match s.groupNode g with
    | some n => n.pk.chans.foldl (fun s ch => s.settleChannel g ch) s
    | none => s) s
  (s.affected d pcol row).foldl State.scrubTile s

/-- STRIKE_REPORT: of a tile, or of another unit of a die, whose storage alone is scrubbed. -/
def State.strike (s : State) (u : BitVec 32) : Option State :=
  if !s.ready || !unitOk u then none
  else
    let s := match unitTile u with
      | some (d, pcol, row) => s.strikeTile d pcol row
      | none => s.scrub u
    some (s.log (.strike u.toNat))

/-- A unit's word from its KIND, its die and bits [25:0] (R289); none where a field does not fit. -/
def unitWord (kind die place : Nat) : Option (BitVec 32) :=
  if kind < 16 && die < 4 && place < 2 ^ 26 then some (BitVec.ofNat 32 (kind * 2 ^ 28 + die * 2 ^ 26 + place)) else none

def execStrikeReport (kind die place : Nat) (s : State) : Host.Outcome State Fault Refusal :=
  .next (((unitWord kind die place).bind s.strike).getD s)

/-! ## The undo log (R287) -/

/-- An old copy that no rewind can need: 64 ns old, and, for a paired context, 128 lc back (R286). -/
def State.retirable (s : State) (u : Snap) : Bool :=
  u.clock + rewindClocks < s.clock
    && match s.ctx? u.key with
      | some c => !c.pk.pair || u.ctx.grp != c.grp || u.ctx.comb + 128 < c.comb
      | none => true

/-- UNDO_LOG_RETIRE. -/
def State.undoRetire (s : State) : Option State :=
  if s.undo.any s.retirable then some { s with undo := s.undo.filter fun u => !s.retirable u } else none

def execUndoLogRetire (s : State) : Host.Outcome State Fault Refusal := .next (s.undoRetire.getD s)

/-! ## Rows (R283) -/

/-- TARGETED_REFRESH_DONE: the row's counter becomes 0, with correct parity (R283). -/
def State.refreshDone (s : State) (row : Nat) : Option State :=
  if s.refresh.contains row then some { s with refresh := s.refresh.filter (· != row), rowCount := s.rowCount.write 0 row 0 } else none

def execTargetedRefreshDone (row : Nat) (s : State) : Host.Outcome State Fault Refusal := .next ((s.refreshDone row).getD s)

end Sys2Proof.Machine
end

