-- ==== Sys2Proof/Machine/TraceEvents.lean ====
section
/-! DEFINITION. The trace unit's periods (15 R308, R310). -/

namespace Sys2Proof.Machine

/-- TRACE_SYNC_PERIOD: 4096 bundles after its last SYNC a traced context owes one (R310). -/
def State.syncPeriod (s : State) (key : Nat) : Option State :=
  match s.ctx? key with
  | none => none
  | some c =>
    if c.sinceSync < 4096 || (s.traceRing c.node).isNone then none else some (s.traceSync key)

def execTraceSyncPeriod (key : Nat) (s : State) : Host.Outcome State Fault Refusal := .next ((s.syncPeriod key).getD s)

/-- TRACE_SAMPLE_PERIOD: after every P bundles that the tile issues for the node, SAMPLE is raised in the running context (R308). -/
def State.samplePeriod (s : State) (key : Nat) : Option State :=
  match s.ctx? key with
  | none => none
  | some c =>
    match s.traceRing c.node with
    | none => none
    | some r =>
      let n := (s.tile (keyTile key)).bundles.read 0 c.node
      if r.period = 0 || n < r.period || (s.tile (keyTile key)).holder != some (key % 4) then none
      else
        let s := s.mapTile (keyTile key) fun t => { t with bundles := t.bundles.write 0 c.node (n - r.period) }
        some (s.mapSeen key fun c => { c with sample := true })

def execTraceSamplePeriod (key : Nat) (s : State) : Host.Outcome State Fault Refusal := .next ((s.samplePeriod key).getD s)

end Sys2Proof.Machine
end

