-- ==== Sys2Proof/Machine/Dispatch.lean ====
section
/-! DEFINITION. The meaning of every instruction: one arm for each row of spec/opcode_table.json. -/

namespace Sys2Proof.Machine

/-- What an instruction does in a state. -/
def exec (i : Instr) (s : State) : Host.Outcome State Fault Refusal :=
  match i with
  | .add d a b => Sys2Proof.Machine.execAdd d a b s
  | .addImm d a imm => Sys2Proof.Machine.execAddImm d a imm s
  | .sub d a b => Sys2Proof.Machine.execSub d a b s
  | .subImm d a imm => Sys2Proof.Machine.execSubImm d a imm s
  | .mul d a b => Sys2Proof.Machine.execMul d a b s
  | .mulImm d a imm => Sys2Proof.Machine.execMulImm d a imm s
  | .mulh u d a b => Sys2Proof.Machine.execMulh u d a b s
  | .mulhImm u d a imm => Sys2Proof.Machine.execMulhImm u d a imm s
  | .div u d a b => Sys2Proof.Machine.execDiv u d a b s
  | .divImm u d a imm => Sys2Proof.Machine.execDivImm u d a imm s
  | .mod u d a b => Sys2Proof.Machine.execMod u d a b s
  | .modImm u d a imm => Sys2Proof.Machine.execModImm u d a imm s
  | .and d a b => Sys2Proof.Machine.execAnd d a b s
  | .andImm d a imm => Sys2Proof.Machine.execAndImm d a imm s
  | .andn d a b => Sys2Proof.Machine.execAndn d a b s
  | .andnImm d a imm => Sys2Proof.Machine.execAndnImm d a imm s
  | .or d a b => Sys2Proof.Machine.execOr d a b s
  | .orImm d a imm => Sys2Proof.Machine.execOrImm d a imm s
  | .xor d a b => Sys2Proof.Machine.execXor d a b s
  | .xorImm d a imm => Sys2Proof.Machine.execXorImm d a imm s
  | .shl d a b => Sys2Proof.Machine.execShl d a b s
  | .shlImm d a imm => Sys2Proof.Machine.execShlImm d a imm s
  | .shr d a b => Sys2Proof.Machine.execShr d a b s
  | .shrImm d a imm => Sys2Proof.Machine.execShrImm d a imm s
  | .sar d a b => Sys2Proof.Machine.execSar d a b s
  | .sarImm d a imm => Sys2Proof.Machine.execSarImm d a imm s
  | .rotl d a b => Sys2Proof.Machine.execRotl d a b s
  | .rotlImm d a imm => Sys2Proof.Machine.execRotlImm d a imm s
  | .min u d a b => Sys2Proof.Machine.execMin u d a b s
  | .minImm u d a imm => Sys2Proof.Machine.execMinImm u d a imm s
  | .max u d a b => Sys2Proof.Machine.execMax u d a b s
  | .maxImm u d a imm => Sys2Proof.Machine.execMaxImm u d a imm s
  | .cmp c u d a b => Sys2Proof.Machine.execCmp c u d a b s
  | .cmpImm c u d a imm => Sys2Proof.Machine.execCmpImm c u d a imm s
  | .sel d a b c => Sys2Proof.Machine.execSel d a b c s
  | .mov d a => Sys2Proof.Machine.execMov d a s
  | .clz d a => Sys2Proof.Machine.execClz d a s
  | .ctz d a => Sys2Proof.Machine.execCtz d a s
  | .popc d a => Sys2Proof.Machine.execPopc d a s
  | .bswap d a => Sys2Proof.Machine.execBswap d a s
  | .sext w d a => Sys2Proof.Machine.execSext w d a s
  | .zext w d a => Sys2Proof.Machine.execZext w d a s
  | .li d imm => Sys2Proof.Machine.execLi d imm s
  | .lih d imm => Sys2Proof.Machine.execLih d imm s
  | .br off => Sys2Proof.Machine.execBr off s
  | .brc c a off => Sys2Proof.Machine.execBrc c a off s
  | .bl off => Sys2Proof.Machine.execBl off s
  | .ret => Sys2Proof.Machine.execRet s
  | .loopImm n last => Sys2Proof.Machine.execLoopImm n last s
  | .loopReg a last => Sys2Proof.Machine.execLoopReg a last s
  | .loopx => Sys2Proof.Machine.execLoopx s
  | .stg e a => Sys2Proof.Machine.execStg e a s
  | .gts d e => Sys2Proof.Machine.execGts d e s
  | .spl d idx => Sys2Proof.Machine.execSpl d idx s
  | .sps a idx => Sys2Proof.Machine.execSps a idx s
  | .sysr d idx => Sys2Proof.Machine.execSysr d idx s
  | .sysw idx a => Sys2Proof.Machine.execSysw idx a s
  | .trap code => Sys2Proof.Machine.execTrap code s
  | .rte => Sys2Proof.Machine.execRte s
  | .exit => Sys2Proof.Machine.execExit s
  | .flgclr sets => Sys2Proof.Machine.execFlgclr sets s
  | .pop heads => Sys2Proof.Machine.execPop heads s
  | .hold n => Sys2Proof.Machine.execHold n s
  | .brk => Sys2Proof.Machine.execBrk s
  | .mark => Sys2Proof.Machine.execMark s
  | .vadd h a b => Sys2Proof.Machine.execVadd h a b s
  | .vsub h a b => Sys2Proof.Machine.execVsub h a b s
  | .vmul h a b => Sys2Proof.Machine.execVmul h a b s
  | .vfma h a b c => Sys2Proof.Machine.execVfma h a b c s
  | .vfms h a b c => Sys2Proof.Machine.execVfms h a b c s
  | .vfnma h a b c => Sys2Proof.Machine.execVfnma h a b c s
  | .vmin h a b => Sys2Proof.Machine.execVmin h a b s
  | .vmax h a b => Sys2Proof.Machine.execVmax h a b s
  | .vabs h a => Sys2Proof.Machine.execVabs h a s
  | .vneg h a => Sys2Proof.Machine.execVneg h a s
  | .vabd h a b => Sys2Proof.Machine.execVabd h a b s
  | .vcmp h ty c a b => Sys2Proof.Machine.execVcmp h ty c a b s
  | .vsel h a b => Sys2Proof.Machine.execVsel h a b s
  | .vand h a b => Sys2Proof.Machine.execVand h a b s
  | .vor h a b => Sys2Proof.Machine.execVor h a b s
  | .vxor h a b => Sys2Proof.Machine.execVxor h a b s
  | .vandn h a b => Sys2Proof.Machine.execVandn h a b s
  | .vnot h a => Sys2Proof.Machine.execVnot h a s
  | .vshl h a b => Sys2Proof.Machine.execVshl h a b s
  | .vshr h a b => Sys2Proof.Machine.execVshr h a b s
  | .vsar h a b => Sys2Proof.Machine.execVsar h a b s
  | .vclmul hi h a b => Sys2Proof.Machine.execVclmul hi h a b s
  | .vpopc h a => Sys2Proof.Machine.execVpopc h a s
  | .vclz h a => Sys2Proof.Machine.execVclz h a s
  | .vcvt src h a => Sys2Proof.Machine.execVcvt src h a s
  | .vqtxb src tn h a b => Sys2Proof.Machine.execVqtxb src tn h a b s
  | .vdqtxb src tn h a k => Sys2Proof.Machine.execVdqtxb src tn h a k s
  | .vrcp h a => Sys2Proof.Machine.execVrcp h a s
  | .vrsq h a => Sys2Proof.Machine.execVrsq h a s
  | .vsqrt h a => Sys2Proof.Machine.execVsqrt h a s
  | .vexp2 h a => Sys2Proof.Machine.execVexp2 h a s
  | .vlog2 h a => Sys2Proof.Machine.execVlog2 h a s
  | .vtanh h a => Sys2Proof.Machine.execVtanh h a s
  | .vsum h a => Sys2Proof.Machine.execVsum h a s
  | .vscan fn h a => Sys2Proof.Machine.execVscan fn h a s
  | .vmaxr h a => Sys2Proof.Machine.execVmaxr h a s
  | .vperm h a b => Sys2Proof.Machine.execVperm h a b s
  | .vbcast k h a => Sys2Proof.Machine.execVbcast k h a s
  | .vins k h a b => Sys2Proof.Machine.execVins k h a b s
  | .vext k h a => Sys2Proof.Machine.execVext k h a s
  | .viota h => Sys2Proof.Machine.execViota h s
  | .vrng h l hi k => Sys2Proof.Machine.execVrng h l hi k s
  | .vmov h a => Sys2Proof.Machine.execVmov h a s
  | .vslide dist h a b => Sys2Proof.Machine.execVslide dist h a b s
  | .vpack sat src h a b => Sys2Proof.Machine.execVpack sat src h a b s
  | .vunpk hi src h a => Sys2Proof.Machine.execVunpk hi src h a s
  | .vcmpr h a => Sys2Proof.Machine.execVcmpr h a s
  | .mand h a b => Sys2Proof.Machine.execMand h a b s
  | .mor h a b => Sys2Proof.Machine.execMor h a b s
  | .mxor h a b => Sys2Proof.Machine.execMxor h a b s
  | .mnot h a => Sys2Proof.Machine.execMnot h a s
  | .mpopc h a => Sys2Proof.Machine.execMpopc h a s
  | .mfirst h a => Sys2Proof.Machine.execMfirst h a s
  | .mset h n => Sys2Proof.Machine.execMset h n s
  | .mma cell wb src dst acc fmt => Sys2Proof.Machine.execMma cell wb src dst acc fmt s
  | .mmaVirtual cell wb x dst acc fmt => Sys2Proof.Machine.execMmaVirtual cell wb x dst acc fmt s
  | .mdlt lent tnw give after => Sys2Proof.Machine.execMdlt lent tnw give after s
  | .mdltExecute acc => Sys2Proof.Machine.execMdltExecute acc s
  | .mwld wb tn give after => Sys2Proof.Machine.execMwld wb tn give after s
  | .macz dst n => Sys2Proof.Machine.execMacz dst n s
  | .munf h => Sys2Proof.Machine.execMunf h s
  | .mlease => Sys2Proof.Machine.execMlease s
  | .mrel => Sys2Proof.Machine.execMrel s
  | .leaseTimeout tile => Sys2Proof.Machine.execLeaseTimeout tile s
  | .xpush a => Sys2Proof.Machine.execXpush a s
  | .xpop d => Sys2Proof.Machine.execXpop d s
  | .xcfg => Sys2Proof.Machine.execXcfg s
  | .ld l ty d h bs off => Sys2Proof.Machine.execLd l ty d h bs off s
  | .vld l d h bs off p => Sys2Proof.Machine.execVld l d h bs off p s
  | .vldt l d tn is mr p => Sys2Proof.Machine.execVldt l d tn is mr p s
  | .vgath l d tn idx mr p => Sys2Proof.Machine.execVgath l d tn idx mr p s
  | .st t ty v h bs off => Sys2Proof.Machine.execSt t ty v h bs off s
  | .vst t v h bs off p => Sys2Proof.Machine.execVst t v h bs off p s
  | .vstt t v tn is p => Sys2Proof.Machine.execVstt t v tn is p s
  | .vscat t v tn idx p => Sys2Proof.Machine.execVscat t v tn idx p s
  | .cp give after oc => Sys2Proof.Machine.execCp give after oc s
  | .cpBindHandle give after oc => Sys2Proof.Machine.execCpBindHandle give after oc s
  | .cpBindTensor give after oc => Sys2Proof.Machine.execCpBindTensor give after oc s
  | .cpw give after oc => Sys2Proof.Machine.execCpw give after oc s
  | .cpwb give after oc => Sys2Proof.Machine.execCpwb give after oc s
  | .cpfill give after oc => Sys2Proof.Machine.execCpfill give after oc s
  | .copyExecute acc => Sys2Proof.Machine.execCopyExecute acc s
  | .bindingComplete acc => Sys2Proof.Machine.execBindingComplete acc s
  | .atom op oc lsel rd ty => Sys2Proof.Machine.execAtom op oc lsel rd ty s
  | .red op oc ty => Sys2Proof.Machine.execRed op oc ty s
  | .arrive rel classes => Sys2Proof.Machine.execArrive rel classes s
  | .waitph acq classes => Sys2Proof.Machine.execWaitph acq classes s
  | .waitcnt acq classes => Sys2Proof.Machine.execWaitcnt acq classes s
  | .drain path => Sys2Proof.Machine.execDrain path s
  | .fence scope classes => Sys2Proof.Machine.execFence scope classes s
  | .pagereq => Sys2Proof.Machine.execPagereq s
  | .launch => Sys2Proof.Machine.execLaunch s
  | .signal vec => Sys2Proof.Machine.execSignal vec s
  | .shoot kind => Sys2Proof.Machine.execShoot kind s
  | .shmap => Sys2Proof.Machine.execShmap s
  | .lnctlInval lent => Sys2Proof.Machine.execLnctlInval lent s
  | .lnctlInvalall => Sys2Proof.Machine.execLnctlInvalall s
  | .lnctlSetref lent => Sys2Proof.Machine.execLnctlSetref lent s
  | .resultLands ctx => Sys2Proof.Machine.execResultLands ctx s
  | .replyArrive acc => Sys2Proof.Machine.execReplyArrive acc s
  | .messageDepart msg => Sys2Proof.Machine.execMessageDepart msg s
  | .messageArrive msg => Sys2Proof.Machine.execMessageArrive msg s
  | .effectRelease acc => Sys2Proof.Machine.execEffectRelease acc s
  | .effectReleaseWall acc => Sys2Proof.Machine.execEffectReleaseWall acc s
  | .contextSwitch tile => Sys2Proof.Machine.execContextSwitch tile s
  | .atomicApply acc => Sys2Proof.Machine.execAtomicApply acc s
  | .reductionContribution acc => Sys2Proof.Machine.execReductionContribution acc s
  | .phaseArrival acc => Sys2Proof.Machine.execPhaseArrival acc s
  | .counterArrival acc => Sys2Proof.Machine.execCounterArrival acc s
  | .phaseWaitComplete ctx => Sys2Proof.Machine.execPhaseWaitComplete ctx s
  | .counterWaitComplete ctx => Sys2Proof.Machine.execCounterWaitComplete ctx s
  | .drainComplete ctx => Sys2Proof.Machine.execDrainComplete ctx s
  | .windowAccessAtTarget acc => Sys2Proof.Machine.execWindowAccessAtTarget acc s
  | .windowStoreAck ctx handle cls => Sys2Proof.Machine.execWindowStoreAck ctx handle cls s
  | .launchAppend acc => Sys2Proof.Machine.execLaunchAppend acc s
  | .signalDeliver acc => Sys2Proof.Machine.execSignalDeliver acc s
  | .pagereqRecord acc => Sys2Proof.Machine.execPagereqRecord acc s
  | .shmapInstall acc => Sys2Proof.Machine.execShmapInstall acc s
  | .homeFenceRequest acc => Sys2Proof.Machine.execHomeFenceRequest acc s
  | .queuedAtomicResend acc => Sys2Proof.Machine.execQueuedAtomicResend acc s
  | .qtailWrite fn q tail => Sys2Proof.Machine.execQtailWrite fn q tail s
  | .queueEnable fn q => Sys2Proof.Machine.execQueueEnable fn q s
  | .queueDisable fn q => Sys2Proof.Machine.execQueueDisable fn q s
  | .queueThaw fn q => Sys2Proof.Machine.execQueueThaw fn q s
  | .queueFlush fn q => Sys2Proof.Machine.execQueueFlush fn q s
  | .queueCmdRefused fn q cmd => Sys2Proof.Machine.execQueueCmdRefused fn q cmd s
  | .registerWrite fn reg v => Sys2Proof.Machine.execRegisterWrite fn reg v s
  | .launchEntryFetch q => Sys2Proof.Machine.execLaunchEntryFetch q s
  | .fenceEntryConsume q => Sys2Proof.Machine.execFenceEntryConsume q s
  | .priorityAging => Sys2Proof.Machine.execPriorityAging s
  | .schedulingPeriod => Sys2Proof.Machine.execSchedulingPeriod s
  | .groupPlace die => Sys2Proof.Machine.execGroupPlace die s
  | .forcedPreempt grp => Sys2Proof.Machine.execForcedPreempt grp s
  | .groupSave grp => Sys2Proof.Machine.execGroupSave grp s
  | .nodeComplete node => Sys2Proof.Machine.execNodeComplete node s
  | .nodeHang grp => Sys2Proof.Machine.execNodeHang grp s
  | .uncorrectableConsumed node => Sys2Proof.Machine.execUncorrectableConsumed node s
  | .windowPreciseFault ctx => Sys2Proof.Machine.execWindowPreciseFault ctx s
  | .interruptTaken ctx => Sys2Proof.Machine.execInterruptTaken ctx s
  | .hostSignalWrite fn v => Sys2Proof.Machine.execHostSignalWrite fn v s
  | .cpendClear fn word v => Sys2Proof.Machine.execCpendClear fn word v s
  | .spendClear fn word v => Sys2Proof.Machine.execSpendClear fn word v s
  | .imaskWrite fn v => Sys2Proof.Machine.execImaskWrite fn v s
  | .hostMemoryRead fn off len => Sys2Proof.Machine.execHostMemoryRead fn off len s
  | .hostMemoryWrite fn off data => Sys2Proof.Machine.execHostMemoryWrite fn off data s
  | .tenantNew fn => Sys2Proof.Machine.execTenantNew fn s
  | .tenantDel fn => Sys2Proof.Machine.execTenantDel fn s
  | .grantMem fn => Sys2Proof.Machine.execGrantMem fn s
  | .setRoot fn => Sys2Proof.Machine.execSetRoot fn s
  | .mantleGrant fn => Sys2Proof.Machine.execMantleGrant fn s
  | .mantleDrop fn => Sys2Proof.Machine.execMantleDrop fn s
  | .counters fn => Sys2Proof.Machine.execCounters fn s
  | .traceBind fn => Sys2Proof.Machine.execTraceBind fn s
  | .quote fn => Sys2Proof.Machine.execQuote fn s
  | .quarantine fn => Sys2Proof.Machine.execQuarantine fn s
  | .logRead fn => Sys2Proof.Machine.execLogRead fn s
  | .mailboxUnknown fn => Sys2Proof.Machine.execMailboxUnknown fn s
  | .tileDiagnostic unit pass => Sys2Proof.Machine.execTileDiagnostic unit pass s
  | .strikeReport kind die place => Sys2Proof.Machine.execStrikeReport kind die place s
  | .undoLogRetire => Sys2Proof.Machine.execUndoLogRetire s
  | .targetedRefreshDone row => Sys2Proof.Machine.execTargetedRefreshDone row s
  | .linkReplay port => Sys2Proof.Machine.execLinkReplay port s
  | .ucieRetry die other lane => Sys2Proof.Machine.execUcieRetry die other lane s
  | .ualinkStationRetrain die station => Sys2Proof.Machine.execUalinkStationRetrain die station s
  | .ualinkUnsupported die peer => Sys2Proof.Machine.execUalinkUnsupported die peer s
  | .peerAccessArrive die peer op tenant place addr => Sys2Proof.Machine.execPeerAccessArrive die peer op tenant place addr s
  | .powerOn found => Sys2Proof.Machine.execPowerOn found s
  | .traceSyncPeriod ctx => Sys2Proof.Machine.execTraceSyncPeriod ctx s
  | .traceSamplePeriod ctx => Sys2Proof.Machine.execTraceSamplePeriod ctx s
  | .btimeExhausted block => Sys2Proof.Machine.execBtimeExhausted block s
  | .powerRemoval => Sys2Proof.Machine.execPowerRemoval s

end Sys2Proof.Machine
end

