-- ==== Sys2Proof/Machine/Auto.lean ====
section
/-! DEFINITION. Which steps of the device may happen now, when each happens as soon as it may (log entry 1), the turn of a context that
holds issue, and a clock of the package (00 R7). -/

namespace Sys2Proof.Machine

/-! ## Steps that may be due -/

/-- The steps that may be due for an outstanding access. -/
def Acc.steps (a : Acc) : List Instr :=
  let release := [.effectRelease a.id, .effectReleaseWall a.id]
  match a.op with
  | .load .. | .fill .. | .mwld .. => [.replyArrive a.id]
  | .winLoad .. => [.windowAccessAtTarget a.id]
  | .store .. | .bump .. | .frame .. | .writeBack .. | .lnctl .. | .launch .. => release
  | .winStore .. => release ++ [.windowAccessAtTarget a.id]
  | .atom .. => release ++ [.atomicApply a.id, .queuedAtomicResend a.id]
  | .red .. => release ++ [.reductionContribution a.id, .queuedAtomicResend a.id]
  | .arrive .. => release ++ [.phaseArrival a.id, .queuedAtomicResend a.id]
  | .count .. => [.counterArrival a.id, .queuedAtomicResend a.id]
  | .bindHandle .. | .bindTensor .. => [.bindingComplete a.id]
  | .copy .. => release ++ [.copyExecute a.id]
  | .cpfill .. => [.copyExecute a.id]
  | .mdlt .. => release ++ [.mdltExecute a.id]
  | .pagereq .. => release ++ [.pagereqRecord a.id]
  | .signal .. => release ++ [.signalDeliver a.id]
  | .shoot .. => release ++ [.homeFenceRequest a.id]
  | .shmap .. => release ++ [.shmapInstall a.id]

/-- Those of a context beside its issue. -/
def ctxSteps (key : Nat) : List Instr :=
  [.phaseWaitComplete key, .counterWaitComplete key, .drainComplete key, .traceSyncPeriod key, .traceSamplePeriod key]

/-- Those of a mailbox whose doorbell has rung. -/
def doorSteps (f : Nat) : List Instr :=
  [.tenantNew f, .tenantDel f, .grantMem f, .setRoot f, .mantleGrant f, .mantleDrop f, .counters f, .traceBind f, .quote f, .quarantine f,
    .logRead f, .mailboxUnknown f]

/-- Every step that may be due, the effects of the oldest accesses first, and the appends of LAUNCH last: a tear-down in the same clock wins
(04 R90). -/
def State.candidates (s : State) : List Instr :=
  s.accs.flatMap Acc.steps
  ++ s.streams.flatMap (fun x => (s.groupKey x.grp (x.off % 8) (x.off / 8)).toList.map fun k => .windowStoreAck k x.h x.cls)
  ++ s.flights.flatMap (fun f => [.messageDepart f.id, .messageArrive f.id])
  ++ s.ctxs.flatMap (fun p => (if p.2.status = .exited then [.resultLands p.1] else []) ++ ctxSteps p.1)
  ++ s.fns.flatMap (fun p => if p.2.door then doorSteps p.1 else [])
  ++ s.queues.flatMap (fun p => [.launchEntryFetch p.1, .fenceEntryConsume p.1])
  ++ s.groups.flatMap (fun p => [.forcedPreempt p.1, .groupSave p.1, .nodeHang p.1])
  ++ s.nodes.map (fun p => .nodeComplete p.1)
  ++ [.priorityAging, .schedulingPeriod] ++ s.blocks.map (fun b => .btimeExhausted b.addr)
  ++ (List.range 4).map .groupPlace
  ++ s.refresh.map .targetedRefreshDone
  ++ s.quarantine.map (fun u => .tileDiagnostic u false)
  ++ s.tiles.flatMap (fun p => [.leaseTimeout p.1])
  ++ ((s.ctxs.map fun p => keyTile p.1).eraseDups.map .contextSwitch)
  ++ [.undoLogRetire]
  ++ s.accs.filterMap fun a => match a.op with
    | .launch .. => some (.launchAppend a.id)
    | _ => none

/-- A diagnostic that has begun to retire its own column and may end (14 R291). -/
def State.retirementEnds (s : State) (u : BitVec 32) : Bool :=
  match unitTile u with
  | some (d, c, _) => (s.die d).retiring = some c && (s.diagnostic u false).isSome
  | none => false

/-- Whether a step may happen now of the device's own accord. -/
def State.fires (s : State) : Instr → Bool
  | .replyArrive a => (s.replyStep a).isSome
  | .windowAccessAtTarget a => (s.windowStep a).isSome
  | .effectRelease a => (s.effectRelease a).isSome
  | .effectReleaseWall a => (s.effectReleaseWall a).isSome
  | .atomicApply a => (s.applyAtom a).isSome
  | .reductionContribution a => (s.applyRed a).isSome
  | .phaseArrival a => (s.applyArrive a).isSome
  | .counterArrival a => (s.applyCount a).isSome
  | .queuedAtomicResend a => (s.resend a).isSome
  | .bindingComplete a => (s.bindStep a).isSome
  | .copyExecute a => (s.copyExecute a).isSome
  | .mdltExecute a => (s.mdltStep a).isSome
  | .pagereqRecord a => (s.pagereqStep a).isSome
  | .launchAppend a => (s.launchStep a).isSome
  | .signalDeliver a => (s.signalStep a).isSome
  | .homeFenceRequest a => (s.homeFence a).isSome
  | .shmapInstall a => (s.shmapStep a).isSome
  | .windowStoreAck k h cls => (s.ackStep k h cls).isSome
  | .messageDepart m => (s.departStep m).isSome
  | .messageArrive m => (s.arriveStep m).isSome
  | .resultLands k => (s.land k).isSome
  | .phaseWaitComplete k => (s.waitComplete k .phase).isSome
  | .counterWaitComplete k => (s.waitComplete k .counter).isSome
  | .drainComplete k => (s.drainComplete k).isSome
  | .traceSyncPeriod k => (s.syncPeriod k).isSome
  | .traceSamplePeriod k => (s.samplePeriod k).isSome
  | .tenantNew f => (s.tenantNew f).isSome
  | .tenantDel f => (s.tenantDel f).isSome
  | .grantMem f => (s.grantMem f).isSome
  | .setRoot f => (s.setRoot f).isSome
  | .mantleGrant f => (s.mantleGrant f).isSome
  | .mantleDrop f => (s.mantleDrop f).isSome
  | .counters f => (s.counters f).isSome
  | .traceBind f => (s.traceBind f).isSome
  | .quote f => (s.quote f).isSome
  | .quarantine f => (s.quarantineStep f).isSome
  | .logRead f => (s.logRead f).isSome
  | .mailboxUnknown f => (s.mailboxUnknown f).isSome
  | .launchEntryFetch q => (s.fetchEntry q).isSome
  | .fenceEntryConsume q => (s.consumeFence q).isSome
  | .forcedPreempt g => (s.forceStep g).isSome
  | .groupSave g => (s.saveStep g).isSome
  | .nodeHang g => (s.hangStep g).isSome
  | .nodeComplete n => (s.completeStep n).isSome
  | .priorityAging => s.agingStep.isSome
  | .schedulingPeriod => s.periodStep.isSome
  | .btimeExhausted b => (s.exhaust b).isSome
  | .groupPlace d => (s.placeStep d).isSome
  | .targetedRefreshDone r => (s.refreshDone r).isSome
  | .tileDiagnostic u pass => !pass && s.retirementEnds u
  | .leaseTimeout t => leaseStale s t
  | .contextSwitch t => (s.switchStep t).isSome
  | .undoLogRetire => s.undoRetire.isSome
  | _ => false

/-- The step that happens next of the device's own accord. -/
def State.autoEvent (s : State) : Option Instr := s.candidates.find? s.fires

/-- A step of the device or of an agent outside it: what the agenda may hold. -/
def deviceStep : Instr → Bool
  | .mdltExecute .. | .leaseTimeout .. | .copyExecute .. | .bindingComplete .. | .resultLands .. | .replyArrive .. | .messageDepart ..
  | .messageArrive .. | .effectRelease .. | .effectReleaseWall .. | .contextSwitch .. | .atomicApply .. | .reductionContribution ..
  | .phaseArrival .. | .counterArrival .. | .phaseWaitComplete .. | .counterWaitComplete .. | .drainComplete .. | .windowAccessAtTarget ..
  | .windowStoreAck .. | .launchAppend .. | .signalDeliver .. | .pagereqRecord .. | .shmapInstall .. | .homeFenceRequest ..
  | .queuedAtomicResend .. | .qtailWrite .. | .queueEnable .. | .queueDisable .. | .queueThaw .. | .queueFlush .. | .queueCmdRefused ..
  | .registerWrite .. | .launchEntryFetch .. | .fenceEntryConsume .. | .priorityAging | .schedulingPeriod | .groupPlace .. | .forcedPreempt ..
  | .groupSave .. | .nodeComplete .. | .nodeHang .. | .uncorrectableConsumed .. | .windowPreciseFault .. | .interruptTaken ..
  | .hostSignalWrite .. | .cpendClear .. | .spendClear .. | .imaskWrite .. | .hostMemoryRead .. | .hostMemoryWrite .. | .tenantNew ..
  | .tenantDel .. | .grantMem .. | .setRoot .. | .mantleGrant .. | .mantleDrop .. | .counters .. | .traceBind .. | .quote .. | .quarantine ..
  | .logRead .. | .mailboxUnknown .. | .tileDiagnostic .. | .strikeReport .. | .undoLogRetire | .targetedRefreshDone .. | .linkReplay ..
  | .ucieRetry .. | .ualinkStationRetrain .. | .ualinkUnsupported .. | .peerAccessArrive .. | .powerOn .. | .traceSyncPeriod ..
  | .traceSamplePeriod .. | .btimeExhausted .. | .powerRemoval => true
  | _ => false

/-! ## Contexts -/

/-- Whether a context of the round has its turn: it still holds issue, and no HOLD keeps it. -/
def State.hasTurn (s : State) (key : Nat) : Bool :=
  match s.ctx? key with
  | none => false
  | some c => (s.tile (keyTile key)).holder = some (key % 4) && c.idleTill ≤ s.clock

/-- A context's turn in a clock: what lands at its cycle lands, and then a window-precise fault is due, or an interrupt, or it takes the one
action that ends its turn (13 R262; 05 R114). -/
def State.contextTurn (s : State) (key : Nat) (rest : List Nat) : Host.Outcome State Fault Refusal :=
  let s' := { s with round := rest }
  if !s.hasTurn key then .next s'
  else if (s.land key).isSome then exec (.resultLands key) s
  else if (s'.windowFaultStep key).isSome then exec (.windowPreciseFault key) s'
  else if (s'.interruptStep key).isSome then exec (.interruptTaken key) s'
  else .next (s'.turn key)

/-! ## The clock -/

/-- A clock of the package: the errors of its time strike, firmware retires what has worn out, and every context that holds issue has a turn in it. -/
def State.tick (s : State) : State :=
  let s := if s.ready then s.countTime else s
  ({ s with
    clock := s.clock + 1
    round := s.tiles.filterMap fun p => p.2.holder.map fun k => p.1 * 4 + k } : State).upsetsDue.retireWorn

end Sys2Proof.Machine
end

