-- ==== Sys2Proof/Machine/Program.lean ====
section
/-! DEFINITION. Placing a bundle where the next one is fetched: at the program counter of the context whose turn it is, or, when no context
is about to fetch, in a package with one node of one context loaded from outside (log entry 1). -/

namespace Sys2Proof.Machine

/-- The 64 bytes of a bundle whose low bits are given and whose other bits are 0. -/
def bundleBytes (nbits w : Nat) : List Byte := bytesOf 64 (w % 2 ^ nbits)

/-- The physical address from which the machine's next step fetches, when it is about to fetch. -/
def State.nextFetch (s : State) : Option Nat :=
  if !s.ready || !s.agenda.isEmpty || s.autoEvent.isSome then none
  else
    match s.round with
    | [] => none
    | key :: _ =>
      match s.ctx? key with
      | none => none
      | some c =>
        if !s.hasTurn key || (s.land key).isSome || (s.windowFaultStep key).isSome || (s.interruptFor c).isSome || (s.stopsHere c).isSome
          || (s.cycleWait key c).isSome || c.rte.isSome || c.dueTrap.isSome || (s.leaderOf c).isSome then none
        else match s.translate (c.who key) .fetch false (vaOf c.pc) 64 with
          | .ok (.phys pa) => if s.locPoisoned (.phys pa) 64 then none else some pa
          | _ => none

/-! ## A package with one context -/

/-- Where the one node's record, tables and code stand. -/
def soloRecord : Nat := 0x1000
def soloRoot : Nat := 0x8000
def soloFrame : Nat := 0x8000000
def soloPc : Nat := 0x10000

/-- A launch packet of one tile with the largest allotments, each send port joined to the head of its number (03 R58). -/
def soloPacket : Packet where
  entry := BitVec.ofNat 64 soloPc
  w := 1
  h := 1
  pair := false
  plevel := 6
  grid := 1
  rows := 2048
  banks := 48
  handles := 256
  tns := 256
  tokens := 32
  sends := 8
  recvs := 8
  spill := 256
  lining := 512
  lat := 0
  args := []
  chans := (List.range 8).map fun q => ⟨0, 0, q, 0, 0, q, BitVec.ofNat 64 (2 ^ q)⟩

def soloNode : Node where
  queue := 0
  tenant := 1
  irq := false
  pk := soloPacket
  prio := 0
  pcap := 0
  fdom := 0
  pdl := 0
  trapv := 0
  staged := []
  chain := []
  predn := 0
  succn := 0
  succ := 0
  eff := 0
  background := false
  nextGrid := 1
  hostsig := false
  lining := []
  commit := none

/-- Three tables down to one leaf of 128 MiB with every permission, and the record in STATE RUNNING (08 R179; 04 R72). -/
def soloMemory : List Host.Cell :=
  let table (next : Nat) : Nat := 2 ^ 63 + next
  let m := writeMem [] soloRecord (bytesOf 8 (stRunning * 2 ^ 60))
  let m := writeMem m soloRoot (bytesOf 8 (table (soloRoot + 0x8000)))
  let m := writeMem m (soloRoot + 0x8000) (bytesOf 8 (table (soloRoot + 0x10000)))
  writeMem m (soloRoot + 0x10000) (bytesOf 8 (2 ^ 63 + 2 ^ 62 + soloFrame + 2 ^ 13 + 2 ^ 10 + 2 ^ 9 + 2 ^ 8))

/-- The package with that node placed at tile 0, about to fetch its first bundle; what is outside the package stays. -/
def State.solo (s : State) : State :=
  { State.powerRemoval s with
    ready := true
    mem := soloMemory ++ s.mem.filter fun c => inHost c.1
    tenants := [(1, ⟨0, [(0, 0x6000000000)], some soloRoot⟩)]
    nodes := [(soloRecord, soloNode)]
    groups := [(0, ⟨soloRecord, 0, none, true, some ⟨0, 0, 0, 0⟩, 0, [], none, 0, 0, 0, []⟩)]
    ctxs := [(0, { Ctx.initial 0 soloRecord soloNode 0 0 0 with status := .running })]
    tiles := [(0, { Tile.reset with holder := some 0, last := 0 })]
    agenda := []
    round := [0]
    nextId := 1 }

/-- The bundle stands where the next step fetches. -/
def State.placeBundle (s : State) (nbits w : Nat) : State :=
  match s.nextFetch with
  | some pa => { s with mem := writeMem s.mem pa (bundleBytes nbits w) }
  | none =>
    let s := s.solo
    { s with mem := writeMem s.mem (soloFrame + soloPc) (bundleBytes nbits w) }

end Sys2Proof.Machine
end

