-- ==== Sys2Proof/Machine/Step.lean ====
section
/-! DEFINITION. One step of the machine, and placing an instruction for it. -/

namespace Sys2Proof.Machine

/-- One step. What the agenda names happens first; a package without power gets it; then what the device does of its own accord; then the
turns of the contexts that hold issue; with nothing left to do in this clock, the next clock (log entry 1). -/
def step (s : State) : Host.Outcome State Fault Refusal :=
  match s.agenda with
  | i :: rest => if deviceStep i then exec i { s with agenda := rest } else .next { s with agenda := rest }
  | [] =>
    if !s.ready && s.failStep.isNone then exec (.powerOn ⟨none, [], []⟩) s
    else
      match s.autoEvent with
      | some i => exec i s
      | none =>
        match s.round with
        | key :: rest => s.contextTurn key rest
        | [] => .next s.tick

/-- The state with a bundle of the given bits where the next step fetches. -/
def State.withFetchWord (s : State) (nbits w : Nat) : State := s.placeBundle nbits w

end Sys2Proof.Machine
end

