-- ==== Sys2Proof/Safety.lean ====
section
/-! DEFINITION. What claims call a safe run and a canonical state. -/

namespace Sys2Proof.Machine

/-- Every memory of the state is in its canonical form: this package's and the peers'. -/
def State.canonical (s : State) : Prop := Memory.wf s.mem = true ∧ ∀ p ∈ s.peers, Memory.wf p.2.mem = true

/-- The machine goes on from a state: after any number of steps it has neither faulted nor refused. -/
def State.safe (s : State) : Prop := ∀ k, ∃ t, Sys2Proof.core.run k s = .next t

end Sys2Proof.Machine
end

