-- ==== Sys2Proof/Certificates/Slice0/Obligations.lean ====
section
/-! DEFINITION. The statements for the provers. `Sys2Proof.Claims` holds the terms they are stated in: what the rules of spec/ give
an instruction, written out beside the model. A statement whose conclusion is an equation for the next state fixes that whole state: every
register, flag, byte of memory and other field that the equation does not name is as it was. -/

namespace Sys2Proof.Claims

open Sys2Proof.Machine

/-! ## Terms -/

/-- The context c, of number key, holds issue: the instruction executed is its own. -/
def Issues (s : State) (key : Nat) (c : Ctx) : Prop := s.cur = some key ∧ s.ctx? key = some c

/-- s with another content of the context; nothing else changes. -/
def withCtx (s : State) (key : Nat) (c : Ctx) : State := { s with ctxs := s.ctxs.insert key c }

/-- A result of the instruction at issue: it lands `latency` lc after the context's own count, in its destination and, where it produces one,
in the latch that its slot's ring assigns (R27, R134). -/
def result (s : State) (c : Ctx) (sl : Slot) (latency : Nat) (act : Act) (latched : Bool) (mask : Mask) (value : Row) (flags : BitVec 5) :
    Inflight where
  uid := s.nextId
  prog := !c.tm
  issue := c.time
  land := c.time + BitVec.ofNat 48 latency
  slot := sl
  pc := c.pc
  act := act
  latch := if latched then c.nextLatch sl else none
  mask := mask
  value := value
  flags := flags
  num := c.issued

/-- The state in which the context c has just put that result in flight and, where it takes a latch, moved its ring on. -/
def launched (s : State) (key : Nat) (c : Ctx) (f : Inflight) : State :=
  { s with
    nextId := s.nextId + 1
    ctxs := s.ctxs.insert key { c with
      inflight := c.inflight ++ [f]
      rings := match f.latch with
        | some _ => (c.advanceRing f.slot).rings
        | none => c.rings } }

/-- A scalar result with its flags: no destination register when NW = 1 (R312). -/
def scalarState (s : State) (key : Nat) (c : Ctx) (d : SDst) (latency : Nat) (v : Word) (flags : BitVec 5) : State :=
  launched s key c (result s c .s latency (match d with | .s n => .scalar n | .off => .latchOnly) true 0 (v.setWidth 4096) flags)

/-! ## Scalar results (R312, R313, R320, R321, R331, R341, R350, R356, R366, R409) -/

/-- a < b under the suffix's signedness: `unsigned` for .N64. -/
def below (unsigned : Bool) (a b : Word) : Bool := if unsigned then a.toNat < b.toNat else a.toInt < b.toInt

/-- The condition of CMP (R321). -/
def compares (unsigned : Bool) (a b : Word) : Cond → Bool
  | .eq => a == b
  | .ne => a != b
  | .lt => below unsigned a b
  | .ge => !below unsigned a b
  | .le => !below unsigned b a
  | .gt => below unsigned b a

/-- Bits [127:64] of the exact 128-bit product (R350). -/
def highProduct (unsigned : Bool) (a b : Word) : Word :=
  if unsigned then (a.setWidth 128 * b.setWidth 128).extractLsb' 64 64 else (a.signExtend 128 * b.signExtend 128).extractLsb' 64 64

/-- DIV's result and flags (R331). -/
def quotient (unsigned : Bool) (a b : Word) : Word × BitVec 5 :=
  if b = 0 then (0xFFFFFFFFFFFFFFFF, 0b01000)
  else if unsigned then (BitVec.ofNat 64 (a.toNat / b.toNat), 0)
  else if a.toInt = -2 ^ 63 ∧ b.toInt = -1 then (BitVec.ofInt 64 (-2 ^ 63), 0b10000)
  else (BitVec.ofInt 64 (a.toInt.tdiv b.toInt), 0)

/-- MOD's result and flags (R331): a - q * b, with no flag where the quotient overflows. -/
def modulus (unsigned : Bool) (a b : Word) : Word × BitVec 5 :=
  if b = 0 then (a, 0b01000)
  else if unsigned then (BitVec.ofNat 64 (a.toNat - a.toNat / b.toNat * b.toNat), 0)
  else if a.toInt = -2 ^ 63 ∧ b.toInt = -1 then (0, 0)
  else (BitVec.ofInt 64 (a.toInt - a.toInt.tdiv b.toInt * b.toInt), 0)

/-- Bits [5:0] (R350). -/
def low6 (b : Word) : Nat := (b.extractLsb' 0 6).toNat

/-- Zero bits above the highest one bit; 64 for 0: the bit places k that reach above a (R320). -/
def zerosAbove (a : Word) : Word := BitVec.ofNat 64 ((List.range 64).countP fun k => decide (a.toNat < 2 ^ k))

/-- Zero bits below the lowest one bit; 64 for 0: the powers 2, 4, ... that divide a (R320). -/
def zerosBelow (a : Word) : Word := BitVec.ofNat 64 ((List.range 64).countP fun k => decide (a.toNat % 2 ^ (k + 1) = 0))

/-- The number of one bits (R356). -/
def onesIn (a : Word) : Word := BitVec.ofNat 64 ((List.range 64).countP fun k => a.getLsbD k)

/-- Byte k of the result is byte 7 - k of a (R320). -/
def swapped (a : Word) : Word :=
  a.extractLsb' 0 8 ++ a.extractLsb' 8 8 ++ a.extractLsb' 16 8 ++ a.extractLsb' 24 8 ++ a.extractLsb' 32 8 ++ a.extractLsb' 40 8
    ++ a.extractLsb' 48 8 ++ a.extractLsb' 56 8

/-- Destination, latency, result and flags of a scalar instruction, its operands read at lc t. -/
def scalarResult (c : Ctx) : Instr → Option (SDst × Nat × Word × BitVec 5)
  | .add d a b => some (d, 1, (c.scalar a) + (c.scalar b), 0)
  | .addImm d a i => some (d, 1, (c.scalar a) + (i.signExtend 64), 0)
  | .sub d a b => some (d, 1, (c.scalar a) - (c.scalar b), 0)
  | .subImm d a i => some (d, 1, (c.scalar a) - (i.signExtend 64), 0)
  | .mul d a b => some (d, 3, (c.scalar a) * (c.scalar b), 0)
  | .mulImm d a i => some (d, 3, (c.scalar a) * (i.signExtend 64), 0)
  | .mulh u d a b => some (d, 3, highProduct u (c.scalar a) (c.scalar b), 0)
  | .mulhImm u d a i => some (d, 3, highProduct u (c.scalar a) (i.signExtend 64), 0)
  | .div u d a b => some (d, 16, quotient u (c.scalar a) (c.scalar b))
  | .divImm u d a i => some (d, 16, quotient u (c.scalar a) (i.signExtend 64))
  | .mod u d a b => some (d, 16, modulus u (c.scalar a) (c.scalar b))
  | .modImm u d a i => some (d, 16, modulus u (c.scalar a) (i.signExtend 64))
  | .and d a b => some (d, 1, (c.scalar a) &&& (c.scalar b), 0)
  | .andImm d a i => some (d, 1, (c.scalar a) &&& (i.signExtend 64), 0)
  | .andn d a b => some (d, 1, (c.scalar a) &&& ~~~(c.scalar b), 0)
  | .andnImm d a i => some (d, 1, (c.scalar a) &&& ~~~(i.signExtend 64), 0)
  | .or d a b => some (d, 1, (c.scalar a) ||| (c.scalar b), 0)
  | .orImm d a i => some (d, 1, (c.scalar a) ||| (i.signExtend 64), 0)
  | .xor d a b => some (d, 1, (c.scalar a) ^^^ (c.scalar b), 0)
  | .xorImm d a i => some (d, 1, (c.scalar a) ^^^ (i.signExtend 64), 0)
  | .shl d a b => some (d, 1, (c.scalar a) <<< low6 (c.scalar b), 0)
  | .shlImm d a i => some (d, 1, (c.scalar a) <<< low6 (i.signExtend 64), 0)
  | .shr d a b => some (d, 1, (c.scalar a) >>> low6 (c.scalar b), 0)
  | .shrImm d a i => some (d, 1, (c.scalar a) >>> low6 (i.signExtend 64), 0)
  | .sar d a b => some (d, 1, (c.scalar a).sshiftRight (low6 (c.scalar b)), 0)
  | .sarImm d a i => some (d, 1, (c.scalar a).sshiftRight (low6 (i.signExtend 64)), 0)
  | .rotl d a b => some (d, 1, (c.scalar a) <<< low6 (c.scalar b) ||| (c.scalar a) >>> (64 - low6 (c.scalar b)), 0)
  | .rotlImm d a i => some (d, 1, (c.scalar a) <<< low6 (i.signExtend 64) ||| (c.scalar a) >>> (64 - low6 (i.signExtend 64)), 0)
  | .min u d a b => some (d, 1, (if below u (c.scalar b) (c.scalar a) then (c.scalar b) else (c.scalar a)), 0)
  | .minImm u d a i => some (d, 1, (if below u (i.signExtend 64) (c.scalar a) then (i.signExtend 64) else (c.scalar a)), 0)
  | .max u d a b => some (d, 1, (if below u (c.scalar a) (c.scalar b) then (c.scalar b) else (c.scalar a)), 0)
  | .maxImm u d a i => some (d, 1, (if below u (c.scalar a) (i.signExtend 64) then (i.signExtend 64) else (c.scalar a)), 0)
  | .cmp k u d a b => some (d, 1, if compares u (c.scalar a) (c.scalar b) k then 1 else 0, 0)
  | .cmpImm k u d a i => some (d, 1, if compares u (c.scalar a) (i.signExtend 64) k then 1 else 0, 0)
  | .sel d a b e => some (d, 1, if c.scalar e ≠ 0 then c.scalar a else c.scalar b, 0)
  | .mov d a => some (d, 1, c.scalar a, 0)
  | .clz d a => some (d, 1, zerosAbove (c.scalar a), 0)
  | .ctz d a => some (d, 1, zerosBelow (c.scalar a), 0)
  | .popc d a => some (d, 1, onesIn (c.scalar a), 0)
  | .bswap d a => some (d, 1, swapped (c.scalar a), 0)
  | .sext w d a => some (d, 1, ((c.scalar a).setWidth w).signExtend 64, 0)
  | .zext w d a => some (d, 1, ((c.scalar a).setWidth w).setWidth 64, 0)
  | .li d i => some (d, 1, i.signExtend 64, 0)
  | .lih (.s n) i => some (.s n, 1, i ++ (c.readS n).setWidth 32, 0)
  | .lih .off i => some (.off, 1, i ++ (0 : BitVec 32), 0)
  | .gts d e => some (d, 1, c.readE e, 0)
  | _ => none

/-! ## Transfers of control (R317 to R319, R343 to R345, R364) -/

/-- The exact address of the bundle k bundles after the context's own. -/
def bundleAfter (c : Ctx) (k : Int) : Int := c.pc.toInt + 64 * k

/-- Both canonical halves, read as signed (R181). -/
def validAddress (a : Int) : Prop := -2 ^ 55 ≤ a ∧ a ≤ 2 ^ 55 - 1

/-- The context whose next bundle stands at a. -/
def goingTo (c : Ctx) (a : Int) : Ctx := { c with next := some (BitVec.ofInt 64 a) }

/-- A condition of BRC on a value read as signed (R318). -/
def zeroTest (a : Word) : ZCond → Prop
  | .eqz => a.toInt = 0
  | .nez => a.toInt ≠ 0
  | .ltz => a.toInt < 0
  | .gez => 0 ≤ a.toInt
  | .gtz => 0 < a.toInt
  | .lez => a.toInt ≤ 0

/-- The loop entry that LOOP pushes (R343). -/
def loopEntry (c : Ctx) (n : Word) (last : Nat) : LoopEnt where
  first := BitVec.ofInt 64 (bundleAfter c 1)
  last := BitVec.ofInt 64 (bundleAfter c last)
  trip := n
  index := 0

/-- A LOOP of n iterations may push (R343): the stack has room, and the new body ends no later than the innermost one, which does not end at
the LOOP itself. -/
def nests (c : Ctx) (last : Nat) : Prop :=
  c.loops.length < 6 ∧ ∀ e, c.loops.head? = some e → e.last ≠ c.pc ∧ bundleAfter c last ≤ e.last.toInt

/-- What LOOP does to its context. -/
def looping (c : Ctx) (n : Word) (last : Nat) : Ctx :=
  if n = 0 then goingTo c (bundleAfter c (last + 1)) else { c with loops := loopEntry c n last :: c.loops }


/-! ## Control registers (R141, R142, R145) and the trap frame (R269) -/

/-- CTL.STATUS from its fields (R142): PRIV, TM, PAIR, the ring positions, the loop stack's depth, and the group's shape and offset. -/
def statusFields (c : Ctx) : Word :=
  BitVec.ofNat 2 (if c.tm then 1 else 0) ++ BitVec.ofBool c.tm ++ BitVec.ofBool c.pk.pair ++ (0 : BitVec 4)
    ++ c.rings ++ (0 : BitVec 12) ++ BitVec.ofNat 4 c.loops.length
    ++ BitVec.ofNat 8 c.pk.h ++ BitVec.ofNat 8 c.pk.w ++ BitVec.ofNat 8 c.dy ++ BitVec.ofNat 8 c.dx

/-- The value of each control register's number (R141); none where the number names none. -/
def controlWord (c : Ctx) (i : Nat) : Option Word :=
  match i with
  | 0x000 => some (statusFields c)
  | 0x001 => some (c.lcc.setWidth 64)
  | 0x002 => some (BitVec.ofNat 64 c.acct.code)
  | 0x003 => some c.rnd
  | 0x004 => some c.flg
  | 0x005 => some c.fer
  | 0x006 => some (c.pk.lat.extractLsb' 0 64)
  | 0x007 => some (c.pk.lat.extractLsb' 64 64)
  | 0x008 => some c.tvec
  | 0x009 => some c.tframe
  | 0x020 => some 0x00F4000065530000
  | i =>
    if 0x010 ≤ i ∧ i ≤ 0x017 then some (BitVec.ofNat 64 (c.out.read 0 (i - 0x010) * 2 ^ 32 + c.limit.read 64 (i - 0x010)))
    else if 0x030 ≤ i ∧ i ≤ 0x035 then some ((c.loops[i - 0x030]?.map (·.index)).getD 0)
    else none

/-- A value that SYSW may give a writable register: its reserved bits are zero and its fields hold values of their tables (R142, R145). -/
def mayHold (i : Nat) (v : Word) : Prop :=
  match i with
  | 0x002 => v.toNat ∈ [1, 2, 3, 5, 6, 7, 9, 10, 11]
  | 0x003 => v.toNat < 2 ^ 16 ∧ v.extractLsb' 4 6 = 0
  | 0x004 => v.toNat < 2 ^ 25
  | 0x005 => v.extractLsb' 0 6 = 0 ∧ (v.extractLsb' 60 3).toNat ≤ 4 ∧ (v.extractLsb' 56 4).toNat ≤ 4
  | 0x008 | 0x009 => v.toNat < 2 ^ 56 ∧ v.extractLsb' 0 6 = 0
  | _ => v.toNat < 2 ^ 43 ∧ v.extractLsb' 11 21 = 0 ∧ 1 ≤ (v.extractLsb' 0 11).toNat ∧ (v.extractLsb' 0 11).toNat ≤ 1024

/-- Registers that SYSW may write at a level (R141): RW everywhere, CTL.TVEC in trap time. -/
def writable (c : Ctx) (i : Nat) : Prop :=
  i = 0x002 ∨ i = 0x003 ∨ i = 0x004 ∨ i = 0x005 ∨ i = 0x009 ∨ (0x010 ≤ i ∧ i ≤ 0x017) ∨ (i = 0x008 ∧ c.tm = true)

/-- A 56-bit address field as the canonical address it stands for (R142, R178). -/
def canonicalOf (v : Nat) : Word := (BitVec.ofNat 56 v).signExtend 64

/-- Bytes from an offset of a list of bytes. -/
def bytesAt (l : List Byte) (off n : Nat) : List Byte := (l.drop off).take n


/-! ## Vector instructions (R377 to R405) -/

/-- A row within the allotment that no matrix command still writes (R221, R377). -/
def rowReady (c : Ctx) (n : Nat) : Prop := n < c.pk.rows ∧ c.matrixPending n = false

/-- A head that is allotted and bound, holds a message, and whose message is in sequence and due (R39). -/
def headReady (c : Ctx) (q : Nat) : Prop :=
  q < c.pk.recvs ∧ ∃ m rest ch, (c.head q).skid = m :: rest ∧ c.recvChan q = some ch ∧ m.seq = (c.head q).next
    ∧ lcLt c.lcc (departure ch.slots (c.head q).lastDep m.stamp + BitVec.ofNat 48 ch.latency) = false

/-- A vector source that may be read. -/
def sourceReady (c : Ctx) : VSrc → Prop
  | .row n => rowReady c n
  | .head q => headReady c q
  | _ => True

/-- A vector destination that may be written: a send port has a credit (R40). -/
def destReady (c : Ctx) : VDst → Prop
  | .row n => n < c.pk.rows
  | .port q => q < c.pk.sends ∧ (c.sendChan q).isSome ∧ 0 < (c.port q).credits
  | .off => True

/-- The credit that a send takes at issue (R40). -/
def withoutCredit (c : Ctx) (q : Nat) : Ctx :=
  { c with ports := c.ports.write .empty q { c.port q with credits := (c.port q).credits - 1 } }

/-- What a vector instruction delivers: the row, the lanes that it writes of a row destination with their width, the lane-valid mask of a
message, and flags. -/
structure Delivery where
  row   : Row
  lanes : Mask
  width : Nat
  valid : Mask
  flags : BitVec 5

/-- The state once the delivery is in flight for its row, its port (a credit taken) or its latch alone. -/
def delivered (s : State) (key : Nat) (c : Ctx) (h : VHead) (latency : Nat) (o : Delivery) : State :=
  match h.d with
  | .row n => launched s key c (result s c h.slot latency (.row n o.width) true o.lanes o.row o.flags)
  | .port q => launched s key (withoutCredit c q) (result s c h.slot latency (.port q) true o.valid o.row o.flags)
  | .off => launched s key c (result s c h.slot latency .latchOnly true o.lanes o.row o.flags)

/-- Lane k of a source, as the number its w bits hold (R98). -/
def lane (c : Ctx) (ty : Ty) (v : VSrc) (k : Nat) : Nat := ((c.vector ty c.acct.bits v).extractLsb' (c.acct.bits * k) c.acct.bits).toNat

/-- Lane count of CTL.ACCT (R132). -/
def count (c : Ctx) : Nat := 4096 / c.acct.bits

/-- Whether lane k is on: m[MK][k] = NOT MS (R102, R378). -/
def on (c : Ctx) (p : Pred) (k : Nat) : Bool := ((c.readM p.mask).getLsbD k != p.inv) && decide (k < count c)

/-- The lanes that are on, as a mask. -/
def onLanes (c : Ctx) (p : Pred) : Mask := ofBits ((List.range 512).map (on c p))

/-- Bits 0 to n - 1. -/
def lowBits (n : Nat) : Mask := ofBits ((List.range 512).map fun k => decide (k < n))

/-- Use "write" of R378: a lane that is on takes its result and raises its flags; a lane that is off delivers 0 and raises none. -/
def write (c : Ctx) (h : VHead) (f : Nat → Nat × BitVec 5) : Delivery where
  row := ofLanes c.acct.bits ((List.range (count c)).map fun k => if on c h.p k then (f k).1 else 0)
  lanes := onLanes c h.p
  width := c.acct.bits
  valid := onLanes c h.p
  flags := (List.range (count c)).foldl (fun x k => if on c h.p k then x ||| (f k).2 else x) 0

/-- Uses "select" and "none": every lane is written. -/
def whole (c : Ctx) (row : Row) (flags : BitVec 5) : Delivery := ⟨row, lowBits (count c), c.acct.bits, lowBits (count c), flags⟩

/-- The number a w-bit lane stands for under its type's signedness. -/
def signedLane (t : Ty) (w x : Nat) : Int := if t.signed then (BitVec.ofNat w x).toInt else (x : Int)

/-- An integer result modulo 2^w, without flags (R380). -/
def modulo (w : Nat) (v : Int) : Nat × BitVec 5 := ((v % 2 ^ w).toNat, 0)

/-- A lane of a floating type by its own operation of R148 to R151, of an integer type by the exact integer. -/
def arithmetic (t : Ty) (w : Nat) (floating : Nat × BitVec 5) (exact : Int) : Nat × BitVec 5 := if t.isF then floating else modulo w exact

/-- The carry-less product of two w-bit numbers (R384). -/
def carryless (w x y : Nat) : Nat := (List.range w).foldl (fun p j => if x.testBit j then p ^^^ (y * 2 ^ j) else p) 0

/-- 2 lc for the other types, 4 for floating ones (R379). -/
def latencyOf (t : Ty) : Nat := if t.isF then 4 else 2

/-- Head, sources, latency and result of lane k of the vector instructions of use "write" and single type (R379). -/
def laneResult (c : Ctx) : Instr → Option (VHead × List VSrc × Nat × (Nat → Nat × BitVec 5))
  | .vadd h a b => some (h, [a, b], latencyOf h.ty, fun k =>
      let x := lane c h.ty a k; let y := lane c h.ty b k
      arithmetic h.ty c.acct.bits (fadd h.ty (c.rounding h) false x y) (x + y))
  | .vsub h a b => some (h, [a, b], latencyOf h.ty, fun k =>
      let x := lane c h.ty a k; let y := lane c h.ty b k
      arithmetic h.ty c.acct.bits (fadd h.ty (c.rounding h) true x y) (x - y))
  | .vmul h a b => some (h, [a, b], latencyOf h.ty, fun k =>
      let x := lane c h.ty a k; let y := lane c h.ty b k
      arithmetic h.ty c.acct.bits (fmul h.ty (c.rounding h) x y) (x * y))
  | .vfma h a b e => some (h, [a, b, e], latencyOf h.ty, fun k =>
      let x := lane c h.ty a k; let y := lane c h.ty b k; let z := lane c h.ty e k
      arithmetic h.ty c.acct.bits (ffma h.ty (c.rounding h) false false x y z) (x * y + z))
  | .vfms h a b e => some (h, [a, b, e], latencyOf h.ty, fun k =>
      let x := lane c h.ty a k; let y := lane c h.ty b k; let z := lane c h.ty e k
      arithmetic h.ty c.acct.bits (ffma h.ty (c.rounding h) false true x y z) (x * y - z))
  | .vfnma h a b e => some (h, [a, b, e], latencyOf h.ty, fun k =>
      let x := lane c h.ty a k; let y := lane c h.ty b k; let z := lane c h.ty e k
      arithmetic h.ty c.acct.bits (ffma h.ty (c.rounding h) true false x y z) (z - x * y))
  | .vmin h a b => some (h, [a, b], latencyOf h.ty, fun k =>
      let x := lane c h.ty a k; let y := lane c h.ty b k
      if h.ty.isF then fminmax h.ty false x y else (if signedLane h.ty c.acct.bits y < signedLane h.ty c.acct.bits x then y else x, 0))
  | .vmax h a b => some (h, [a, b], latencyOf h.ty, fun k =>
      let x := lane c h.ty a k; let y := lane c h.ty b k
      if h.ty.isF then fminmax h.ty true x y else (if signedLane h.ty c.acct.bits x < signedLane h.ty c.acct.bits y then y else x, 0))
  | .vabs h a => some (h, [a], 2, fun k =>
      let x := lane c h.ty a k
      arithmetic h.ty c.acct.bits (x % 2 ^ (c.acct.bits - 1), 0) (signedLane h.ty c.acct.bits x).natAbs)
  | .vneg h a => some (h, [a], 2, fun k =>
      let x := lane c h.ty a k
      arithmetic h.ty c.acct.bits (x ^^^ 2 ^ (c.acct.bits - 1), 0) (-(x : Int)))
  | .vabd h a b => some (h, [a, b], latencyOf h.ty, fun k =>
      let x := lane c h.ty a k; let y := lane c h.ty b k
      arithmetic h.ty c.acct.bits (fabd h.ty (c.rounding h) x y) (signedLane h.ty c.acct.bits x - signedLane h.ty c.acct.bits y).natAbs)
  | .vand h a b => some (h, [a, b], 2, fun k => (lane c h.ty a k &&& lane c h.ty b k, 0))
  | .vor h a b => some (h, [a, b], 2, fun k => (lane c h.ty a k ||| lane c h.ty b k, 0))
  | .vxor h a b => some (h, [a, b], 2, fun k => (lane c h.ty a k ^^^ lane c h.ty b k, 0))
  | .vandn h a b => some (h, [a, b], 2, fun k => (lane c h.ty a k &&& (2 ^ c.acct.bits - 1 - lane c h.ty b k), 0))
  | .vnot h a => some (h, [a], 2, fun k => (2 ^ c.acct.bits - 1 - lane c h.ty a k, 0))
  | .vshl h a b => some (h, [a, b], 2, fun k =>
      let y := lane c h.ty b k
      if c.acct.bits ≤ y then (0, 0) else modulo c.acct.bits (lane c h.ty a k * 2 ^ y : Nat))
  | .vshr h a b => some (h, [a, b], 2, fun k =>
      let y := lane c h.ty b k
      if c.acct.bits ≤ y then (0, 0) else (lane c h.ty a k / 2 ^ y, 0))
  | .vsar h a b => some (h, [a, b], 2, fun k =>
      let y := lane c h.ty b k
      ((((BitVec.ofNat c.acct.bits (lane c h.ty a k)).sshiftRight (if c.acct.bits ≤ y then c.acct.bits else y)).toNat), 0))
  | .vclmul hi h a b => some (h, [a, b], 3, fun k =>
      let p := carryless c.acct.bits (lane c h.ty a k) (lane c h.ty b k)
      (if hi then p / 2 ^ c.acct.bits else p % 2 ^ c.acct.bits, 0))
  | .vpopc h a => some (h, [a], 2, fun k => ((List.range c.acct.bits).countP fun j => (lane c h.ty a k).testBit j, 0))
  | .vclz h a => some (h, [a], 2, fun k => ((List.range c.acct.bits).countP fun j => decide (lane c h.ty a k < 2 ^ j), 0))
  | .vrcp h a => some (h, [a], 10, fun k => ftrans .rcp h.ty (c.rounding h) (lane c h.ty a k))
  | .vrsq h a => some (h, [a], 10, fun k => ftrans .rsq h.ty (c.rounding h) (lane c h.ty a k))
  | .vsqrt h a => some (h, [a], 10, fun k => ftrans .sqrt h.ty (c.rounding h) (lane c h.ty a k))
  | .vexp2 h a => some (h, [a], 10, fun k => ftrans .exp2 h.ty (c.rounding h) (lane c h.ty a k))
  | .vlog2 h a => some (h, [a], 10, fun k => ftrans .log2 h.ty (c.rounding h) (lane c h.ty a k))
  | .vtanh h a => some (h, [a], 10, fun k => ftrans .tanh h.ty (c.rounding h) (lane c h.ty a k))
  | .vperm h a b => some (h, [a, b], 4, fun k => (lane c h.ty a (lane c h.ty b k % count c), 0))
  | .vbcast j h a => some (h, [a], 2, fun _ => (lane c h.ty a j, 0))
  | .vins j h a b => some (h, [a, b], 2, fun k => (if k = j then lane c h.ty b 0 else lane c h.ty a k, 0))
  | .viota h => some (h, [], 2, fun k => (min ((List.range k).countP (on c h.p)) (2 ^ c.acct.bits - 1), 0))
  | .vrng h lo hi seed => some (h, [lo, hi, seed], 6, fun k =>
      let counter := ((c.wholeScalar hi).toNat * 2 ^ 64 + (c.wholeScalar lo).toNat + k) % 2 ^ 128
      ((rng32 counter (c.wholeScalar seed)).toNat % 2 ^ c.acct.bits, 0))
  | .vmov h a => some (h, [a], 2, fun k => (lane c h.ty a k, 0))
  | .vslide d h a b => some (h, [a, b], 4, fun k =>
      let p := (k : Int) - d
      (if 0 ≤ p ∧ p < count c then lane c h.ty a p.toNat else lane c h.ty b (p % count c).toNat, 0))
  | .mpopc h m => some (h, [], 2, fun _ =>
      (min ((List.range (count c)).countP fun j => (c.readM m).getLsbD j) (2 ^ c.acct.bits - 1), 0))
  | .mfirst h m => some (h, [], 2, fun _ =>
      (min (((List.range (count c)).find? fun j => (c.readM m).getLsbD j).getD (count c)) (2 ^ c.acct.bits - 1), 0))
  | _ => none

/-- Bit k of the mask that a mask instruction computes (R349, R357), and of VCMP's (R385). -/
def maskResult (c : Ctx) : Instr → Option (MHead × (Nat → Bool))
  | .mand h a b => some (h, fun k => (c.readM a).getLsbD k && (c.readM b).getLsbD k)
  | .mor h a b => some (h, fun k => (c.readM a).getLsbD k || (c.readM b).getLsbD k)
  | .mxor h a b => some (h, fun k => (c.readM a).getLsbD k != (c.readM b).getLsbD k)
  | .mnot h a => some (h, fun k => !(c.readM a).getLsbD k)
  | .mset h n => some (h, fun k => decide (k < n))
  | _ => none

/-- The state once a mask is in flight: lanes that are on take their bit, bits above the lane count become zero (R133). -/
def maskState (s : State) (key : Nat) (c : Ctx) (h : MHead) (latency : Nat) (f : Nat → Bool) (flags : BitVec 5) : State :=
  launched s key c (result s c h.slot latency (.mask h.d) false (onLanes c h.p ||| ~~~lowBits (count c))
    ((ofBits ((List.range 512).map fun k => f k && on c h.p k)).setWidth 4096) flags)

/-- A condition of VCMP on the integers that two lanes stand for (R385). -/
def laneTest (x y : Int) : VCond → Bool
  | .eq => x = y
  | .ne => x ≠ y
  | .lt => x < y
  | .le => x ≤ y
  | .gt => y < x
  | .ge => y ≤ x
  | .un => false

/-- VCMP on one pair of lanes. -/
def compared (c : Ctx) (t : Ty) (k : VCond) (x y : Nat) : Bool × BitVec 5 :=
  if t.isF then fcmp t k x y else (laneTest (signedLane t c.acct.bits x) (signedLane t c.acct.bits y) k, 0)


/-- The combination of VSUM, VMAXR and VSCAN on two lanes, the lower lane on the left (R398). -/
def combine (f : ScanFn) (t : Ty) (w : Nat) (rm : RMode) (x y : Nat) : Nat × BitVec 5 :=
  match f with
  | .add => arithmetic t w (fadd t rm false x y) (x + y)
  | .xor => (x ^^^ y, 0)
  | .max => if t.isF then fminmax t true x y else (if signedLane t w x < signedLane t w y then y else x, 0)
  | .min => if t.isF then fminmax t false x y else (if signedLane t w y < signedLane t w x then y else x, 0)

/-- The bits of +infinity of a floating type. -/
def infinityOf : Ty → Nat
  | .f32 => 0x7F800000
  | .f16 => 0x7C00
  | _ => 0x7F80

/-- What a lane that is off enters as (R398). -/
def neutral (f : ScanFn) (t : Ty) (w : Nat) : Nat :=
  match f with
  | .add => if t.isF then 2 ^ (w - 1) else 0
  | .xor => 0
  | .max => if t.isF then 2 ^ (w - 1) + infinityOf t else if t.signed then 2 ^ (w - 1) else 0
  | .min => if t.isF then infinityOf t else if t.signed then 2 ^ (w - 1) - 1 else 2 ^ w - 1

/-- Lane k as it enters. -/
def entering (c : Ctx) (f : ScanFn) (h : VHead) (a : VSrc) (k : Nat) : Nat :=
  if on c h.p k then lane c h.ty a k else neutral f h.ty c.acct.bits

/-- The pairwise tree of R164 over the 2^k lanes from lane i: the two halves' results combined, the lower half on the left. -/
def treeFrom (op : Nat → Nat → Nat × BitVec 5) (x : Nat → Nat) : Nat → Nat → Nat × BitVec 5
  | 0, i => (x i, 0)
  | k + 1, i =>
    let low := treeFrom op x k i
    let high := treeFrom op x k (i + 2 ^ k)
    ((op low.1 high.1).1, low.2 ||| high.2 ||| (op low.1 high.1).2)

/-- Lane i of the log-step scan of R164 after k steps. -/
def scanAfter (op : Nat → Nat → Nat × BitVec 5) (x : Nat → Nat) : Nat → Nat → Nat
  | 0, i => x i
  | k + 1, i => if i < 2 ^ k then scanAfter op x k i else (op (scanAfter op x k (i - 2 ^ k)) (scanAfter op x k i)).1

/-- A NaN of a floating type is the default one (R148), which a lane that has met no operation would not show. -/
def quiet (t : Ty) (x : Nat) : Nat :=
  if t.isF then (match decodeF t x with
    | .nan _ => defaultNan t
    | _ => x) else x

/-- The flags of k steps over n lanes. -/
def scanRaised (op : Nat → Nat → Nat × BitVec 5) (x : Nat → Nat) (n k : Nat) : BitVec 5 :=
  (List.range k).foldl (fun f j => (List.range n).foldl (fun f i =>
    if i < 2 ^ j then f else f ||| (op (scanAfter op x j (i - 2 ^ j)) (scanAfter op x j i)).2) f) 0

/-- log2 of the lane count. -/
def levels (c : Ctx) : Nat := if c.acct.bits = 8 then 9 else if c.acct.bits = 16 then 8 else 7

/-- The row whose lane 0 holds the tree's result (R398). -/
def reduced (c : Ctx) (f : ScanFn) (h : VHead) (a : VSrc) : Delivery :=
  let r := treeFrom (combine f h.ty c.acct.bits (c.rounding h)) (entering c f h a) (levels c) 0
  whole c (ofLanes c.acct.bits [r.1]) r.2

/-- The nearest value of an integer type's range (R400). -/
def clamped (t : Ty) (v : Int) : Int :=
  if t.signed then max (-2 ^ (t.bits - 1)) (min (2 ^ (t.bits - 1) - 1) v) else max 0 (min (2 ^ t.bits - 1) v)

/-- One lane narrowed by VPACK. -/
def packedLane (sat : Bool) (dst src : Ty) (w x : Nat) : Nat :=
  (modulo dst.bits (if sat then clamped dst (signedLane src w x) else signedLane src w x)).1

/-- The element at position p of a source read at its own type's width. -/
def element (c : Ctx) (ty : Ty) (w : Nat) (v : VSrc) (p : Nat) : Nat := ((c.vector ty w v).extractLsb' (w * p) w).toNat

/-- The element at position p of a source whose elements are of another type than the instruction's TYPE: a broadcast scalar fills the lanes of
TYPE's width first (R98, R378). -/
def elementAs (c : Ctx) (ty src : Ty) (w : Nat) (v : VSrc) (p : Nat) : Nat :=
  match v with
  | .scalar n => ((c.vector ty ty.bits (.scalar n)).extractLsb' (w * p) w).toNat
  | v => element c src w v p

/-- VCVT on one element: between integers by extension or by the low bits, otherwise by R151. -/
def converted (c : Ctx) (h : VHead) (src : Ty) (x : Nat) : Nat × BitVec 5 :=
  if h.ty.isF || src.isF then convert (c.rounding h) h.ty src x else modulo h.ty.bits (signedLane src src.bits x)

/-- VCVT's delivery (R387). -/
def conversion (c : Ctx) (src : Ty) (h : VHead) (a : VSrc) : Delivery where
  row := ofLanes h.ty.bits ((List.range (count c)).map fun k =>
    if on c h.p k then (converted c h src (elementAs c h.ty src src.bits a k)).1 else 0)
  lanes := onLanes c h.p ||| ~~~lowBits (count c)
  width := h.ty.bits
  valid := onLanes c h.p
  flags := (List.range (count c)).foldl
    (fun x k => if on c h.p k then x ||| (converted c h src (elementAs c h.ty src src.bits a k)).2 else x) 0

/-- The lanes of vA that are on, in lane order (R386). -/
def compressed (c : Ctx) (h : VHead) (a : VSrc) : List Nat := ((List.range (count c)).filter (on c h.p)).map (lane c h.ty a)

/-- The elements that VQTXB takes, with whether their lane is on (R402). -/
def quantised (c : Ctx) (src : Ty) (h : VHead) (a b : VSrc) : List (FVal × Bool) :=
  (List.range (min (2 * count c) (128 * h.ty.kd))).map fun k =>
    (decodeF src (if k < count c then elementAs c h.ty src c.acct.bits a k else elementAs c h.ty src c.acct.bits b (k - count c)), on c h.p (k % count c))

/-- Block j of a list, 32 elements each. -/
def block32 (l : List (FVal × Bool)) (j : Nat) : List (FVal × Bool) := (l.drop (32 * j)).take 32

/-- VQTXB's delivery: the elements end to end from byte 0, block j's pair at bytes 256 + 2j and 257 + 2j, zero elsewhere (R402). -/
def quantisation (c : Ctx) (src : Ty) (tn : Nat) (h : VHead) (a b : VSrc) : Delivery :=
  let l := quantised c src h a b
  let blocks := (List.range (l.length / 32)).map fun j => quantBlock h.ty (c.tensor tn).desc.gap (block32 l j)
  whole c (ofLanes h.ty.bits (blocks.flatMap (·.1)) ||| ofLanes 8 (blocks.flatMap fun q => [q.2.1.1, q.2.1.2]) <<< 2048)
    (blocks.foldl (fun f q => f ||| q.2.2) 0)

/-- VDQTXB on lane i (R388). -/
def dequantised (c : Ctx) (src : Ty) (h : VHead) (a k : VSrc) (i : Nat) : Nat × BitVec 5 :=
  let j := lane c h.ty k 0 + i
  let row := (c.vector h.ty c.acct.bits a).toNat
  let pair := (row / 2 ^ (8 * (256 + 2 * (j / 32))) % 256, row / 2 ^ (8 * (257 + 2 * (j / 32))) % 256)
  if 128 * src.kd ≤ j then (0, 0)
  else match txbValue src pair (row / 2 ^ (src.bits * j) % 2 ^ src.bits) with
    | .nan _ => (defaultNan h.ty, 0b01000)
    | v => convF (c.rounding h) h.ty v

/-- Head, sources, latency and delivery of the vector instructions that write whole rows or have two types, with the tensor identifier and the
format that they need (R377, R383, R386 to R388, R398 to R400, R402). -/
def rowResult (c : Ctx) : Instr → Option (VHead × List VSrc × Nat × Delivery × Option (Nat × Ty))
  | .vsel h a b => some (h, [a, b], 2, whole c (ofLanes c.acct.bits ((List.range (count c)).map fun k =>
      if on c h.p k then lane c h.ty a k else lane c h.ty b k)) 0, none)
  | .vext k h a => some (h, [a], 2, whole c (((if h.ty.isI then (BitVec.ofNat c.acct.bits (lane c h.ty a k)).signExtend 64
      else BitVec.ofNat 64 (lane c h.ty a k)) : Word).setWidth 4096) 0, none)
  | .vsum h a => some (h, [a], 8, reduced c .add h a, none)
  | .vmaxr h a => some (h, [a], 8, reduced c .max h a, none)
  | .vscan f h a =>
    let op := combine f h.ty c.acct.bits (c.rounding h)
    some (h, [a], 8, whole c (ofLanes c.acct.bits ((List.range (count c)).map fun k => quiet h.ty (scanAfter op (entering c f h a) (levels c) k)))
      (scanRaised op (entering c f h a) (count c) (levels c)), none)
  | .vpack sat src h a b => some (h, [a, b], 3, whole c (ofLanes h.ty.bits
      ((List.range (2 * count c)).map fun k => packedLane sat h.ty src c.acct.bits
        (if k < count c then elementAs c h.ty src c.acct.bits a k else elementAs c h.ty src c.acct.bits b (k - count c)))) 0, none)
  | .vunpk hi src h a => some (h, [a], 3, whole c (ofLanes c.acct.bits ((List.range (count c)).map fun k =>
      (modulo c.acct.bits (signedLane src src.bits (elementAs c h.ty src src.bits a (if hi then count c + k else k)))).1)) 0, none)
  | .vcmpr h a => some (h, [a], 4,
      { whole c (ofLanes c.acct.bits (compressed c h a)) 0 with valid := lowBits (compressed c h a).length }, none)
  | .vcvt src h a => some (h, [a], 3, conversion c src h a, none)
  | .vqtxb src tn h a b =>
    some (h, if count c < 128 * h.ty.kd then [a, b] else [a], 6, quantisation c src tn h a b, some (tn, h.ty))
  | .vdqtxb src tn h a k => some (h, [a, k], 4, write c h (dequantised c src h a k), some (tn, src))
  | _ => none

/-! ## Accesses and engine commands (09 R193 to R197; 06 R140) -/

/-- An access that the context lists: it takes the next place in program order, and follows the context's own stores into TILE handles that
are still in flight. The leader's tile makes it for both twins of a pair. -/
def accessOf (s : State) (key : Nat) (c : Ctx) (cls : Option Nat) (deps strict : List Nat) (give : Option (Nat × Nat)) (op : AccOp) : Acc where
  id := s.nextId
  ctx := key
  grp := c.grp
  cls := cls
  order := c.progNo
  sub := 0
  who := s.whoOf key c
  pc := c.pc
  comb := c.comb
  clock := s.clock
  released := false
  queued := none
  performed := false
  posted := false
  deps := deps
  strict := strict
  after := c.storesInFlight
  parent := none
  give := give
  entry := none
  op := op

/-- The state in which the context has listed an access. -/
def listed (s : State) (key : Nat) (c : Ctx) (cls : Option Nat) (deps strict : List Nat) (op : AccOp) : State :=
  { s with
    accs := s.accs ++ [accessOf s key c cls deps strict none op]
    nextId := s.nextId + 1
    ctxs := s.ctxs.insert key { c with progNo := c.progNo + 1 } }

/-- The state in which the context has listed an engine command: it follows the earlier accesses of its class and `extra`, the fences in force
and the tokens it consumes, and its own token is PENDING in the next generation. -/
def commanded (s : State) (key : Nat) (c : Ctx) (cls : Option Nat) (give : Nat) (after : After) (extra : List Nat) (op : AccOp) : State :=
  { s with
    accs := s.accs ++ [accessOf s key c cls (s.classDeps key c cls ++ extra) (c.fenceDeps cls ++ s.tokenDeps c after)
      (some (give, (c.token give).gen + 1)) op]
    nextId := s.nextId + 1
    ctxs := s.ctxs.insert key { c with
      progNo := c.progNo + 1
      tokens := c.tokens.write .empty give ⟨true, (c.token give).gen + 1, s.nextId⟩ } }

/-- Tokens that a command names lie in the allotment. -/
def tokensAllotted (c : Ctx) (give : Nat) (after : After) : Prop :=
  give < c.pk.tokens ∧ (∀ t ∈ after.a0, t < c.pk.tokens) ∧ (∀ t ∈ after.a1, t < c.pk.tokens) ∧ ∀ t ∈ after.a2, t < c.pk.tokens

/-- A handle that may be named: allotted and BOUND (R166). -/
def handleReady (c : Ctx) (h : Nat) : Prop := h < c.pk.handles ∧ (c.handle h).st = .bound

/-- A tensor identifier that may be named: allotted and BOUND, its handle too, and its Mantle entry, where it has one, fitting (R161, R252). -/
def tensorReady (s : State) (c : Ctx) (tn : Nat) : Prop :=
  tn < c.pk.tns ∧ (c.tensor tn).st = .bound ∧ (∀ h ∈ (c.tensor tn).desc.handle, handleReady c h)
    ∧ ((c.tensor tn).desc.mb = true →
        mantleFits c.tenant (c.tensor tn).desc ((s.seen c).mantle.read .reset (c.tensor tn).desc.ment) = true)

/-- Where one of some identifiers is bound to the Mantle, no SHMAP of the context is outstanding (R251). -/
def mapsSettled (s : State) (key : Nat) (c : Ctx) (tns : List Nat) : Prop :=
  (∃ tn ∈ tns, (c.tensor tn).desc.mb = true) → ∀ a ∈ s.ctxAccs key c, a.op.isShmap = false

/-! ## The matrix slot and the transposer -/

/-- Latency of a push on an A row (R210). -/
def pushCycles : PushFmt → Nat
  | .bf16 => 140
  | .f16 => 140
  | .txb8 => 142
  | .txb6 => 142
  | .txb4 => 144
  | .i8 => 132

/-- The pair of A block g in a row of push form: bytes 256 + 2g and 257 + 2g (R211). -/
def pairOf (r : Row) (g : Nat) : Nat × Nat :=
  ((r.extractLsb' (2048 + 16 * g) 8).toNat, (r.extractLsb' (2056 + 16 * g) 8).toNat)

/-- A matrix result put in flight, counted under the lease (R62, R353). -/
def pushed (s : State) (key : Nat) (c : Ctx) (latency : Nat) (act : Act) (value : Row) (flags : BitVec 5) : State :=
  (launched s key c (result s c .mx latency act false 0 value flags)).leaseCount key

/-- A signed byte. -/
def byteAt {n : Nat} (r : BitVec n) (k : Nat) : Int := (r.extractLsb' (8 * k) 8).toInt

/-- One term of a cell on exact integers (R213). -/
def term (cell : Cell) (a w : Int) : Int :=
  match cell with
  | .mac => a * w
  | .ada => (a - w).natAbs
  | .csel => a + w

/-- The fields of e20 to e22 (R218). -/
def unfolding (c : Ctx) (h : Nat) : Unfold where
  h := h
  c := ((c.readE 20).extractLsb' 32 16).toNat
  iw := ((c.readE 20).extractLsb' 16 16).toNat
  ih := ((c.readE 20).extractLsb' 0 16).toNat
  px := ((c.readE 21).extractLsb' 56 8).toNat
  py := ((c.readE 21).extractLsb' 48 8).toNat
  dx := ((c.readE 21).extractLsb' 40 8).toNat
  dy := ((c.readE 21).extractLsb' 32 8).toNat
  sx := ((c.readE 21).extractLsb' 24 8).toNat
  sy := ((c.readE 21).extractLsb' 16 8).toNat
  kw := ((c.readE 21).extractLsb' 8 8).toNat
  kh := ((c.readE 21).extractLsb' 0 8).toNat
  offb := ((c.readE 22).extractLsb' 0 32).toNat

/-- What MUNF's geometry must be (R218): reserved bits zero, every size at least 1, and the activation aligned inside a TILE handle, the
granules that it touches filled. `b` is its element size. -/
def unfolds (c : Ctx) (h b : Nat) : Prop :=
  let u := unfolding c h
  let n := u.ih * u.iw * u.c * b
  (c.readE 20).extractLsb' 48 16 = 0 ∧ (c.readE 22).extractLsb' 32 32 = 0
    ∧ (∀ x ∈ [u.c, u.iw, u.ih, u.dx, u.dy, u.sx, u.sy, u.kw, u.kh], 0 < x)
    ∧ (c.handle h).desc.level = .tile ∧ u.offb % b = 0 ∧ u.offb + n ≤ (c.handle h).desc.size
    ∧ ∀ g ∈ granulesOf u.offb n, (c.handle h).granFilled g = true

/-- The origin that e16 and e17 name (R215). -/
def weightOrigin (c : Ctx) : List Nat :=
  [((c.readE 16).extractLsb' 0 32).toNat, ((c.readE 16).extractLsb' 32 32).toNat, ((c.readE 17).extractLsb' 0 16).toNat,
    ((c.readE 17).extractLsb' 16 16).toNat, ((c.readE 17).extractLsb' 32 16).toNat, ((c.readE 17).extractLsb' 48 16).toNat]

/-- What MWLD needs of a descriptor and its staging registers (R215); the elements that it reads of a handle lie inside it, aligned (R169). -/
def weightsReadable (c : Ctx) (t : TDesc) : Prop :=
  2 ≤ t.rank ∧ t.fmt ∈ [.bf16, .f16, .txb8, .txb6, .txb4, .i8] ∧ (∀ d < 6, (weightOrigin c).getD d 0 < t.extent d)
    ∧ ((weightOrigin c).getD 0 0) % 32 = 0 ∧ (c.readE 18).toNat < 2
    ∧ (c.readE 18 = 1 → validAddress (c.readE 19).toInt ∧ (c.readE 19).toNat % 64 = 0)
    ∧ (t.fmt ∈ [.txb8, .txb6, .txb4] → t.scaleOk ((weightOrigin c).getD 0 0) 32 = true)
    ∧ (c.readE 18 = 0 → ∀ h, t.handle = some h →
        t.groupsFault (c.handle h).desc.size ((List.range 128).flatMap (t.weightGroups (weightOrigin c))) = none)

/-- The reservation of an MWLD: its buffer is pending from t + 130 until the data are here (R217). -/
def bufferPending (s : State) (c : Ctx) (wb : Bool) : Pend where
  uid := s.nextId
  prog := !c.tm
  issue := c.time
  due := c.time + 130
  slot := .mx
  pc := c.pc
  act := none
  latch := none
  mask := 0
  mres := none
  wb := some (if wb then 1 else 0)
  gran := none
  fills := []
  reply := none
  num := c.issued
  cause := none
  known := true

/-- The transposer that e32 describes (R224). -/
def configured (e : Word) : Xpose where
  st := .empty
  w := if e.extractLsb' 0 2 = 0 then 32 else if e.extractLsb' 0 2 = 1 then 16 else 8
  n := (e.extractLsb' 8 8).toNat + 1
  j0 := (e.extractLsb' 16 16).toNat
  ncol := (e.extractLsb' 32 16).toNat + 1
  otype := if e.extractLsb' 48 4 = 0xA then some .f16 else if e.extractLsb' 48 4 = 0xB then some .bf16 else none
  rows := []
  col := 0
  tlast := 0
  tprog := true
  tcomb := 0

/-- What XCFG accepts (R223, R224). -/
def configurable (e : Word) : Prop :=
  e.extractLsb' 52 12 = 0 ∧ e.extractLsb' 2 6 = 0 ∧ e.extractLsb' 0 2 ≠ 3 ∧ (e.extractLsb' 48 4).toNat ∈ [0, 0xA, 0xB]
    ∧ (e.extractLsb' 8 8).toNat < 128
    ∧ (let x := configured e
       x.j0 + x.ncol ≤ 4096 / x.w ∧ x.n * x.ncol * x.w ≤ 131072 ∧ (x.otype = none ∨ x.w = 32))

/-- The next column is due (R223): 11 lc after the last push, one lc more for each column before it, the lc compared modulo 2^48 (R23). CTL.LCC counts
the lc between a push and a pop of the program; where the handler has a part, program and trap lc count together (the model's choice, log entry 67). -/
def columnDue (c : Ctx) : Prop :=
  if c.xpose.tprog = true ∧ c.tm = false then (c.lcc - (c.xpose.tlast + BitVec.ofNat 48 (11 + c.xpose.col))).toNat < 2 ^ 47
  else c.xpose.tcomb + 11 + c.xpose.col ≤ c.comb

/-- Lane j of a transposed column: lane j0 + col of recorded row j. -/
def columnLane (x : Xpose) (j : Nat) : Nat := ((x.rows.getD j 0).toNat / 2 ^ (x.w * x.col)) % 2 ^ x.w

/-! ## Loads and stores -/

/-- No fence in force holds the class back (R196). -/
def fencesPass (s : State) (c : Ctx) (cls : Nat) : Prop :=
  ∀ f ∈ c.fences, f.classes.getLsbD cls = true → ∀ n ∈ f.before, ∀ a ∈ s.accs, a.id ≠ n

/-- A reservation is free (R35): fewer than 48 results are outstanding, or none of them is due and fewer than 48 have no reply yet (the model's
choice, log entry 60). -/
def reservationFree (c : Ctx) : Prop :=
  let l := c.pend.filter fun p => p.wb.isNone
  l.length < 48 ∨ ((∀ p ∈ l, p.prog = c.tm ∨ lcLt c.time p.due = true) ∧ (l.filter fun p => p.reply.isNone).length < 48)

/-- The granules that a run of a handle meets are filled, or the handle has no fill (R170). -/
def runFilled (h : Handle) (off n : Nat) : Prop := h.desc.bmode = 0 ∨ ∀ g, 4096 * g < off + n → off < 4096 * (g + 1) → h.filled.read false g = true

/-- The number that n bytes of a handle hold, the first the least significant (R3). -/
def handleNumber (h : Handle) (off n : Nat) : Nat := numOf ((List.range n).map fun i => h.bytes.read 0 (off + i))

/-- LD's value: sign-extended for I types, zero-extended for N types (R340). -/
def loaded (ty : Ty) (v : Nat) : Word := if ty.signed then (BitVec.ofNat ty.bits v).signExtend 64 else BitVec.ofNat 64 v

/-- The lanes of VLD: those that are on hold the handle's bytes at their place (R394, R395). -/
def loadedRow (c : Ctx) (p : Pred) (h : Handle) (addr : Nat) : Row :=
  ofLanes c.acct.bits ((List.range (count c)).map fun k =>
    if on c p k then handleNumber h (addr + k * (c.acct.bits / 8)) (c.acct.bits / 8) else 0)

/-- Where a row destination lands: a row of lanes, or the latch alone. -/
def rowTarget (d : RDst) (w : Nat) : Act :=
  match d with
  | .row n => .row n w
  | .off => .latchOnly

def rowAllotted (c : Ctx) : RDst → Prop
  | .row n => n < c.pk.rows
  | .off => True

/-- Byte enables of the lanes that are on, in a row of w-bit lanes. -/
def laneBytes (c : Ctx) (p : Pred) : Mask := ofBits ((List.range 512).map fun i => on c p (i / (c.acct.bits / 8)))

/-- Bits 0 to n - 1 of a store's byte enables. -/
def firstBytes (n : Nat) : Mask := lowBits n

/-- The indices that lane k of a linear tensor access names: the scalars from IS, the highest dimension first, with k added to i0 (R162,
R396). -/
def linearIndex (c : Ctx) (is rank k d : Nat) : Nat := (c.readS (is + rank - 1 - d)).toNat + if d = 0 then k else 0

/-- The digits of a linear index over the extents (R391). -/
def digit (t : TDesc) (k d : Nat) : Nat := k / ((List.range d).foldl (fun a e => a * t.extent e) 1) % t.extent d

/-- Lane k of an index vector, read as unsigned. -/
def indexLane (c : Ctx) (ix : VSrc) (k : Nat) : Nat := lane c .b ix k

/-- The element of an unbacked tensor of whole bytes that lane k moves, by its indices: BASE plus the sum of index times stride, in elements
(R162). -/
def lanePiece (t : TDesc) (index : Nat → Nat) (k : Nat) : Piece where
  lane := k
  pos := k * (t.fmt.bits / 8)
  va := (canonicalOf t.base).toInt
    + ((List.range t.rank).foldl (fun a d => a + (index d : Int) * t.stride d) 0) * (t.fmt.bits / 8 : Nat)
  owner := none
  len := t.fmt.bits / 8

/-- The elements of all lanes that are on. -/
def lanesMoved (c : Ctx) (p : Pred) (t : TDesc) (index : Nat → Nat → Nat) : List Piece :=
  ((List.range (count c)).filter (on c p)).map fun k => lanePiece t (index k) k

/-- An element lies in the valid range and is aligned (R181). -/
def elementOk (q : Piece) : Prop := -2 ^ 55 ≤ q.va ∧ q.va + (q.len : Int) - 1 ≤ 2 ^ 55 - 1 ∧ q.va % (q.len : Int) = 0

/-- A tensor in plain virtual memory, of a format of whole bytes at the width of CTL.ACCT (R160, R391, R396). -/
def plainTensor (s : State) (c : Ctx) (tn : Nat) : Prop :=
  tensorReady s c tn ∧ (c.tensor tn).desc.handle = none ∧ (c.tensor tn).desc.mb = false ∧ (c.tensor tn).desc.fmt.isTxb = false
    ∧ (c.tensor tn).desc.fmt.bits = c.acct.bits ∧ (c.tensor tn).desc.rank ≤ 6

/-- The state in which a load of memory has started: its reservation and latch are taken and its read is listed, and nothing else of the
context's registers changes. -/
def loadStarted (s u : State) (key : Nat) (c : Ctx) (l : LHead) (d : RDst) (mr : Nat) (p : Pred) (reads : List RPiece) : Prop :=
  ∃ c' q a, u.ctx? key = some c' ∧ c'.pend = c.pend ++ [q] ∧ u.accs = s.accs ++ [a]
    ∧ q.act = some (rowTarget d c.acct.bits) ∧ q.latch = c.nextLatch .ld ∧ q.mask = onLanes c p ∧ q.mres = (if mr = 0 then none else some mr)
    ∧ q.due = c.time + BitVec.ofNat 48 (c.due l.lsel) ∧ q.reply = none
    ∧ a.op = .load q.uid reads 0 0 [] none ∧ a.cls = some l.oc ∧ a.ctx = key ∧ a.deps = s.classDeps key c (some l.oc)
    ∧ c'.sregs = c.sregs ∧ c'.rows = c.rows ∧ c'.masks = c.masks ∧ c'.latches = c.latches ∧ c'.flg = c.flg ∧ c'.handles = c.handles
    ∧ u.mem = s.mem

/-- The parts of a read all translate (R180, R182). -/
def readsTranslate (s : State) (key : Nat) (c : Ctx) (l : List Piece) (reads : List RPiece) : Prop :=
  (s.seen c).locateReads (s.whoOf key c) .load (toParts l) = ⟨reads, [], [], false⟩

/-- The bytes that lane k of a store holds, little-endian. -/
def laneData (c : Ctx) (t : TDesc) (v : VSrc) (q : Piece) : WPiece := ⟨q.va, none, bytesOf (t.fmt.bits / 8) (lane c t.fmt v q.lane)⟩

/-- VERADDR's word, 0 where the identifier gives none. -/
def versionOf (t : TDesc) : Nat := if t.veraddr = 0 then 0 else (canonicalOf t.veraddr).toNat

/-- An access that goes on: listed, everything that it follows done, the stores of its context that it follows landed (`StoresPerformAhead` says
what happens where they have not), and the twin's copy there where its group has a twin. -/
def goesOn (s : State) (a : Acc) : Prop :=
  s.acc? a.id = some a ∧ s.depsDone a = true ∧ s.complete a = true
    ∧ ∀ c, s.accCtx a = some c → ∀ f ∈ c.inflight ++ c.trapEntries, f.uid ∉ a.after

/-- The access has no twin's copy. -/
def unpaired (s : State) (a : Acc) : Prop := s.twinAcc a = none

/-- Registers, flags, control registers and time of a context as they were. -/
def sameRegisters (c c' : Ctx) : Prop :=
  c'.sregs = c.sregs ∧ c'.bank = c.bank ∧ c'.rows = c.rows ∧ c'.masks = c.masks ∧ c'.latches = c.latches ∧ c'.rings = c.rings ∧ c'.eregs = c.eregs
    ∧ c'.spill = c.spill ∧ c'.scratch = c.scratch ∧ c'.acct = c.acct ∧ c'.rnd = c.rnd ∧ c'.flg = c.flg ∧ c'.fer = c.fer ∧ c'.tvec = c.tvec
    ∧ c'.tframe = c.tframe ∧ c'.pc = c.pc ∧ c'.loops = c.loops ∧ c'.lcc = c.lcc ∧ c'.tlc = c.tlc ∧ c'.tm = c.tm ∧ c'.handles = c.handles
    ∧ c'.tensors = c.tensors ∧ c'.wb0 = c.wb0 ∧ c'.wb1 = c.wb1 ∧ c'.inflight = c.inflight

/-- Every context keeps its registers. -/
def registersStay (s t : State) : Prop := ∀ k c, s.ctx? k = some c → ∃ c', t.ctx? k = some c' ∧ sameRegisters c c'

/-- Every byte outside a run of memory reads as it did. -/
def memoryOutside (s t : State) (pa n : Nat) : Prop := ∀ b, b < pa ∨ pa + n ≤ b → readByte t.mem b = readByte s.mem b

/-- The access has left the list of outstanding ones. -/
def gone (t : State) (a : Acc) : Prop := ∀ x ∈ t.accs, x.id ≠ a.id

/-! ## Loads that wait, windows, and tensors of every backing (R33, R35, R158 to R175, R188, R199, R253) -/

/-- The handle of a plan is a TILE handle. -/
def inTile (c : Ctx) (pl : Plan) : Prop := ∃ h, pl.h = some h ∧ (c.handle h).desc.level = .tile

/-- The load lands at its fixed latency: all of it lies in filled granules of a TILE handle (R30, R170). -/
def fixedPlan (c : Ctx) (pl : Plan) : Prop := pl.virt = [] ∧ ∃ h, pl.h = some h ∧ (c.handle h).desc.level = .tile ∧ (c.handle h).missing pl.chunks = []

/-- The peer package of an XWIN handle that the plan accesses answers at the gateway (R302). -/
def peerThere (s : State) (key : Nat) (c : Ctx) (pl : Plan) : Prop :=
  ∀ h, pl.h = some h → (c.handle h).desc.level ≠ .tile → pl.chunks ≠ [] → (s.seen c).peerAbsent key c h = false

/-- The granules that the plan asks for and no load has asked for yet, each with its 4 KiB of BACK (R170). -/
def fillsOf (c : Ctx) (pl : Plan) : List (Nat × Piece) :=
  match pl.h with
  | some h => if (c.handle h).desc.level = .tile then (c.handle h).fillPieces pl.chunks else []
  | none => []

/-- A window's stream in a class (R199): the context's posted stores through it. -/
def streamOf (s : State) (key : Nat) (c : Ctx) (oc h : Nat) : List Nat :=
  ((s.ctxAccs key c).filter fun a => a.cls = some oc && (match a.op with
    | .winStore k _ _ _ _ => k = h
    | _ => false)).map (·.id)

/-- What the issue of a load or store leaves as it was. -/
def issueKeeps (s u : State) (c c' : Ctx) : Prop :=
  c'.sregs = c.sregs ∧ c'.rows = c.rows ∧ c'.masks = c.masks ∧ c'.latches = c.latches ∧ c'.eregs = c.eregs ∧ c'.flg = c.flg ∧ c'.tensors = c.tensors
    ∧ c'.pc = c.pc ∧ c'.lcc = c.lcc ∧ (∀ h, (c'.handle h).bytes = (c.handle h).bytes) ∧ u.mem = s.mem

/-- A load whose result waits for a reply has started (R33): its reservation, with destination, latch and due cycle; the fills that it is the first to
ask for, each in class CLS; for a window the access at the target, after the earlier accesses of the class and the window's stores in it; and the
load itself, which waits for the fills and the window, has what a TILE handle gives at issue, takes the bytes of unfilled granules that no store has
written from their fills, and reads the parts in virtual memory after the earlier accesses of its class. -/
def loadBegun (s u : State) (key : Nat) (c : Ctx) (f : LoadForm) (pl : Plan) (reads : List RPiece) (nonres : List Piece) (fills : List RPiece) : Prop :=
  ∃ c' q fs ws a, u.ctx? key = some c' ∧ c'.pend = c.pend ++ [q] ∧ u.accs = s.accs ++ fs ++ ws ++ [a] ∧ issueKeeps s u c c'
    ∧ q.act = some f.act ∧ q.latch = c.nextLatch .ld ∧ q.mask = f.mask ∧ q.mres = (if f.mr = 0 then none else some f.mr)
    ∧ q.due = c.time + BitVec.ofNat 48 (c.due f.lsel) ∧ q.reply = none
    ∧ (let h := pl.h.getD 0
       let hd := c.handle h
       let missing := if pl.h.isSome ∧ hd.desc.level = .tile then hd.missing pl.chunks else []
       let awaited := (c'.handle h).fills.filter fun x => missing.contains x.2
       fs.map (·.op) = (fillsOf c pl).zipWith (fun g r => .fill q.uid h g.1 [r]) fills ∧ (∀ x ∈ fs, x.cls = some hd.desc.cls)
       ∧ (c'.handle h).fills = hd.fills ++ fs.zipWith (fun x g => (x.id, g.1)) (fillsOf c pl)
       ∧ q.fills.map (fun x => (x.1, x.2.1)) = awaited ++ ws.map (fun w => (w.id, 0))
       ∧ (pl.h.isNone ∨ hd.desc.level = .tile ∨ pl.chunks = [] → ws = [])
       ∧ (pl.h.isSome → hd.desc.level ≠ .tile → pl.chunks ≠ [] → ∃ w, ws = [w] ∧ w.cls = some f.oc
           ∧ w.op = .winLoad q.uid h (s.targetOf key c hd.desc) (pl.chunks.map fun p => (p.pos, p.va.toNat, p.len))
           ∧ w.deps = s.classDeps key c (some f.oc) ++ streamOf s key c f.oc h)
       ∧ a.op = .load q.uid reads (nonres.foldl (fun m p => m ||| p.laneMask c.acct.bits) 0)
           (if pl.h.isSome ∧ hd.desc.level = .tile then hd.gather pl.chunks else 0)
           ((hd.unwritten pl.chunks).filterMap (fun x => (awaited.find? fun y => y.2 = x.2.1).map fun y => (x.1, y.1, x.2.2))
             ++ ws.flatMap fun w => pl.chunks.flatMap fun p => (List.range p.len).map fun i => (p.pos + i, w.id, p.pos + i)) f.ty
       ∧ (∀ x ∈ awaited, x.1 ∈ a.strict) ∧ (∀ w ∈ ws, w.id ∈ a.strict)
       ∧ (pl.virt ≠ [] → a.cls = some f.oc ∧ ∀ n ∈ s.classDeps key c (some f.oc), n ∈ a.deps) ∧ (pl.virt = [] → a.cls = none))

/-- The load starts, where every part of it translates (R180, R182). -/
def begins (s : State) (key : Nat) (c : Ctx) (i : Instr) (f : LoadForm) (pl : Plan) : Prop :=
  ∀ reads nonres fills, ¬ fixedPlan c pl → reservationFree c → peerThere s key c pl → (f.mr = 0 → nonres = []) →
    (s.seen c).locateReads (s.whoOf key c) .load (toParts pl.virt) = ⟨reads, nonres, [], false⟩ →
    (s.seen c).locateReads (s.whoOf key c) .copyRead ((fillsOf c pl).map (·.2)) = ⟨fills, [], [], false⟩ →
    ∃ u, exec i s = .next u ∧ loadBegun s u key c f pl reads nonres fills

/-- The load lands at its fixed latency with the bytes that the handle holds, and clears its residency mask. -/
def landsFixed (s : State) (key : Nat) (c : Ctx) (i : Instr) (f : LoadForm) (pl : Plan) : Prop :=
  fixedPlan c pl → ∃ u c', exec i s = .next u ∧ u.ctx? key = some c' ∧ u.accs = s.accs ∧ issueKeeps s u c c' ∧ c'.pend = c.pend
    ∧ c'.inflight = c.inflight ++ result s c .ld f.fixed f.act true f.mask (extendLoad f.ty ((c.handle (pl.h.getD 0)).gather pl.chunks)) 0
        :: if f.mr = 0 then [] else [{ result s c .ld f.fixed (.mask f.mr) false (BitVec.allOnes 512) 0 0 with uid := s.nextId + 1 }]

/-- A load that meets a fault in translation opens a window with the fault of its lowest lane (R188, R264), as one through a window whose peer
package is absent does with OWNER (R302): it starts no access. -/
def opensWindow (s : State) (key : Nat) (c : Ctx) (i : Instr) (f : LoadForm) (pl : Plan) (late : List (Piece × AFault)) : Prop :=
  let parts := toParts (pl.virt.filter fun p => !late.any fun q => q.1 = p)
  let opened (code detail : Nat) (fva : Word) : Prop := ∃ u c' w, exec i s = .next u ∧ u.ctx? key = some c' ∧ u.accs = s.accs
    ∧ issueKeeps s u c c' ∧ c'.pend = c.pend ∧ c'.windows = c.windows ++ [w] ∧ w.num = c.issued ∧ w.cause.code = code ∧ w.cause.detail = detail
    ∧ w.cause.fva = fva ∧ w.act = some f.act ∧ w.latch = c.nextLatch .ld ∧ w.mask = f.mask
    ∧ w.mres = if f.mr = 0 then none else some f.mr
  reservationFree c →
    (∀ r fr p e, (¬ fixedPlan c pl ∨ late ≠ []) → peerThere s key c pl →
      (s.seen c).locateReads (s.whoOf key c) .load parts = r →
      (s.seen c).locateReads (s.whoOf key c) .copyRead ((fillsOf c pl).map (·.2)) = fr → r.poison = false → fr.poison = false →
      firstFault (late ++ r.faults ++ fr.faults ++ if f.mr = 0 then r.nonres.map fun p => (p, faultNonres) else []) = some (p, e) →
      opened e.code e.detail (BitVec.ofInt 64 (if late.any fun q => q.1 = p then p.va else partStart parts p)))
    ∧ (¬ peerThere s key c pl → opened faultOwner.code faultOwner.detail 0)

/-- An element of a tensor access lies in its handle and is aligned (R169), or in the valid range and is aligned (R181); blocks and pairs of a TXB
format have no alignment of their own. -/
def chunksFit (c : Ctx) (t : TDesc) (pl : Plan) : Prop :=
  ∀ h, pl.h = some h → ∀ q ∈ pl.chunks, 0 ≤ q.va ∧ q.va + q.len ≤ ((c.handle h).desc.size : Int) ∧ (t.fmt.isTxb = false → q.va % (q.len : Int) = 0)

def virtFits (t : TDesc) (pl : Plan) : Prop :=
  ∀ q ∈ pl.virt, -2 ^ 55 ≤ q.va ∧ q.va + (q.len : Int) - 1 ≤ 2 ^ 55 - 1 ∧ (t.fmt.isTxb = false → q.va % (q.len : Int) = 0)

/-- The format suits the form (R391, R396): the width of CTL.ACCT; or TXB, for the linear forms alone, without predicate, residency mask and LANE. -/
def formatSuits (c : Ctx) (t : TDesc) (p : Pred) (mr : Nat) (v : VSrc) : Prop :=
  if t.fmt.isTxb then p.mask = 0 ∧ p.inv = false ∧ mr = 0 ∧ v ≠ .lane else t.fmt.bits = c.acct.bits

/-- The indices of a linear form lie in the extents for every lane that is on, and those above i0 in any case; a TXB row is whole blocks within the
extents, of a tensor whose scales stand as R159 asks (R162, R396). -/
def indicesFit (c : Ctx) (t : TDesc) (is : Nat) (p : Pred) : Prop :=
  is + t.rank ≤ 64 ∧ 0 < t.extent 0
    ∧ (∀ e, 0 < e → e < 6 → (if e < t.rank then linearIndex c is t.rank 0 e else 0) < t.extent e)
    ∧ (t.fmt.isTxb = false → ∀ k, on c p k = true → (if 0 < t.rank then linearIndex c is t.rank 0 0 else 0) + k < t.extent 0)
    ∧ (t.fmt.isTxb = true → let i0 := if 0 < t.rank then linearIndex c is t.rank 0 0 else 0
        t.scaleOk i0 (128 * t.fmt.kd) = true ∧ i0 + 128 * t.fmt.kd ≤ t.extent 0)

/-- What VLDT and VGATH deliver: lanes at the width of CTL.ACCT with a residency mask, or a whole row of a TXB format. -/
def tensorForm (c : Ctx) (l : LHead) (d : RDst) (t : TDesc) (mr : Nat) (p : Pred) : LoadForm :=
  if t.fmt.isTxb then ⟨l.oc, l.lsel, 7, rowTarget d 32, lowBits 128, 0, none⟩ else ⟨l.oc, l.lsel, 7, rowTarget d c.acct.bits, onLanes c p, mr, none⟩

/-- A store through a window is posted (R145, R173, R199): it follows the earlier accesses of its class and the window's stores in it, and OUT of
its allowance rises by one. -/
def storePosted (s u : State) (key : Nat) (c : Ctx) (l : SHead) (h : Nat) (runs : List (Nat × List Byte)) : Prop :=
  ∃ c' a, u.ctx? key = some c' ∧ u.accs = s.accs ++ [a] ∧ sameRegisters c c' ∧ u.mem = s.mem
    ∧ a.op = .winStore h (s.targetOf key c (c.handle h).desc) runs (c.handle h).desc.alw l.fl ∧ a.cls = some l.oc
    ∧ a.deps = s.classDeps key c (some l.oc) ++ streamOf s key c l.oc h ∧ a.strict = c.fenceDeps (some l.oc)
    ∧ ∀ k, c'.outOf k = if k = (c.handle h).desc.alw then c.outOf k + 1 else c.outOf k

/-- A tensor store has issued (R162, R232, R397). In a TILE handle the row is in flight and lands at t + 3; through a window it is posted; what lies in
virtual memory or at Mantle owners is a store, by lane. A store with a version word and no handle adds to it in its own access, ver; with a handle the
two additions are accesses of their own, one before the data and one after all of it. -/
def storeBegun (s u : State) (key : Nat) (c : Ctx) (l : SHead) (tn : Nat) (gather : Bool) (idx : Row) (mask : Mask) (pl : Plan) (v : Row) : Prop :=
  let ver := versionOf (c.tensor tn).desc
  let virt : List WPiece := (laneOrder pl.virt).map fun p => ⟨p.va, p.owner, rowSlice v p⟩
  ∃ c' accs, u.ctx? key = some c' ∧ u.accs = s.accs ++ accs ∧ issueKeeps s u c c' ∧ c'.pend = c.pend ∧ (∀ x ∈ accs, x.cls = some l.oc)
    ∧ (pl.h = none ∨ pl.chunks = [] → c'.inflight = c.inflight ∧ accs.map (·.op) = if virt = [] ∧ ver = 0 then [] else [.store virt true ver])
    ∧ ∀ h, pl.h = some h → pl.chunks ≠ [] →
        ∃ data first, accs.map (·.op) = first ++ data ++ (if virt = [] then [] else [.store virt true 0]) ++ (if ver = 0 then [] else [.bump ver none])
          ∧ (ver ≠ 0 → ∀ z, accs.getLast? = some z → ∀ x ∈ accs.dropLast, x.id ∈ z.deps)
          ∧ ((c.handle h).desc.level = .tile → data = [] ∧ ∃ f, c'.inflight = c.inflight ++ [f]
              ∧ f = { result s c .st 3 (.tstore tn gather idx h (some (pl.chunks.map fun q => (q.pos, q.va.toNat, q.len)))) false mask v 0
                      with uid := if ver = 0 then s.nextId else s.nextId + 1 }
              ∧ first = if ver = 0 then [] else [.bump ver (some f.uid)])
          ∧ ((c.handle h).desc.level ≠ .tile → c'.inflight = c.inflight ∧ first = (if ver = 0 then [] else [.bump ver none])
              ∧ data = [.winStore h (s.targetOf key c (c.handle h).desc) (pl.chunks.map fun p => (p.va.toNat, rowSlice v p)) (c.handle h).desc.alw l.fl]
              ∧ c'.outOf (c.handle h).desc.alw = c.outOf (c.handle h).desc.alw + 1)

/-- OUT of a window's allowance is below LIMIT (R145). -/
def allowed (c : Ctx) (pl : Plan) : Prop :=
  ∀ h, pl.h = some h → (c.handle h).desc.level ≠ .tile → pl.chunks ≠ [] → c.outOf (c.handle h).desc.alw < c.limitOf (c.handle h).desc.alw

/-- Every earlier access of a class has performed, as a gather or scatter in tile SRAM asks (R194). -/
def classDone (s : State) (key : Nat) (c : Ctx) (pl : Plan) (oc : Nat) : Prop :=
  inTile c pl → ∀ d ∈ s.classDeps key c (some oc), s.unperformed d = false

/-! ## The matrix lease (R61, R62) -/

/-- The context of a tile that a released lease goes to: it waits, none that waits has a higher priority, and of those of its own it is the first
going upward from the one granted last. -/
def leaseGoesTo (s : State) (tile k : Nat) (c : Ctx) : Prop :=
  k < 4 ∧ s.ctx? (tile * 4 + k) = some c ∧ c.leaseWait ≠ none
    ∧ ∀ p ∈ s.tileCtxs tile, p.2.leaseWait ≠ none → s.prio p.2 ≤ s.prio c
        ∧ (s.prio p.2 = s.prio c → p.1 ≠ k → (k + 7 - (s.tile tile).leaseLast % 4) % 4 < (p.1 + 7 - (s.tile tile).leaseLast % 4) % 4)

/-- The lease of a tile, released in the first state, stands in the second: no context's where none waits, else the one's that it goes to, with age
and count 0, which waits no more and is READY. -/
def leaseMoves (s u : State) (tile : Nat) : Prop :=
  ((∀ p ∈ s.tileCtxs tile, p.2.leaseWait = none) → (u.tile tile).lease = none ∧ (u.tile tile).leaseCount = 0)
    ∧ ∀ k c, leaseGoesTo s tile k c →
        (u.tile tile).lease = some k ∧ (u.tile tile).leaseLast = k ∧ (u.tile tile).leaseCount = 0 ∧ (u.tile tile).leaseAt = c.lcc
          ∧ ∃ c', u.ctx? (tile * 4 + k) = some c' ∧ sameRegisters c c' ∧ c'.leaseWait = none ∧ (c.status = .blocked → c'.status = .ready)

/-! ## Accesses that perform -/

/-- Every part of a read lies in physical memory that is not poisoned: `home` says where. Its translation was made at issue and stands (`known`), or,
where a shoot-down has dropped it since, is made now (R182, R184). -/
def readsAt (s : State) (w : Who) (k : AKind) (known : Bool) (reads : List RPiece) (home : RPiece → Nat) : Prop :=
  ∀ r ∈ reads, s.locPoisoned (.phys (home r)) r.len = false
    ∧ (known = true → r.loc = .phys (home r)) ∧ (known = false → s.translateOwner w k false r.owner r.va r.len = .ok (.phys (home r)))

/-- What the parts of a read bring, each at its place of the row. -/
def bytesRead (s : State) (reads : List RPiece) (home : RPiece → Nat) : Row :=
  rowOf (reads.map fun r => (r.pos, readMem s.mem (home r) r.len))

/-- Effects that the release horizon holds back, copies apart (R36). -/
def heldEffect : AccOp → Prop
  | .store .. | .bump .. | .frame .. | .winStore .. | .writeBack .. | .atom .. | .red .. | .arrive _ | .pagereq .. | .launch .. | .signal _ | .shoot ..
  | .shmap .. | .lnctl .. | .mdlt .. => True
  | _ => False

/-- Effects whose release makes their node irreversible wherever they go (R85). -/
def alwaysIrreversible : AccOp → Prop
  | .atom .. | .red .. | .arrive _ | .signal _ | .pagereq .. | .launch .. | .winStore .. => True
  | _ => False

/-- The list with one access marked released. -/
def releasedIn (l : List Acc) (a : Acc) : List Acc := l.map fun x => if x.id = a.id then { x with released := true } else x

/-- The effect is marked released; where it makes its node irreversible, the record says so, and no other byte of memory changes. -/
def releasedState (s t : State) (a : Acc) : Prop :=
  t.accs = releasedIn s.accs a ∧ t.ctxs = s.ctxs
    ∧ (¬ alwaysIrreversible a.op → t = { s with accs := releasedIn s.accs a })
    ∧ (alwaysIrreversible a.op → ∀ n, a.who.node = some n → (s.node? n).isSome → t.recIrrev n = true ∧ memoryOutside s t n 8)

/-- A write of one part to physical memory that is not poisoned. -/
def writeAt (s : State) (w : Who) (p : WPiece) (pa : Nat) : Prop :=
  parts p.va p.data.length = [(p.va, p.data.length)] ∧ s.translateOwner w .store false p.owner p.va p.data.length = .ok (.phys pa)
    ∧ ∀ l ∈ s.poison, ¬ (pa / 64 ≤ l ∧ l * 64 < pa + p.data.length)

/-- Memory holds a list of bytes from an address. -/
def holds (t : State) (pa : Nat) (l : List Byte) : Prop := ∀ i, i < l.length → readByte t.mem (pa + i) = l.getD i 0

/-- A handle's bytes with a run written over them. -/
def writtenOver (h h' : Handle) (off : Nat) (l : List Byte) : Prop :=
  ∀ b, h'.bytes.read 0 b = if off ≤ b ∧ b < off + l.length then l.getD (b - off) 0 else h.bytes.read 0 b

/-! ## The copy engine (R322 to R330; R161, R166 to R168) -/

/-- The fields of e0 (R322). -/
def srcKind (c : Ctx) : Nat := ((c.readE 0).extractLsb' 62 2).toNat
def dstKind (c : Ctx) : Nat := ((c.readE 0).extractLsb' 60 2).toNat
def copyForm (c : Ctx) : Nat := ((c.readE 0).extractLsb' 58 2).toNat
def srcIndex (c : Ctx) : Nat := ((c.readE 0).extractLsb' 40 8).toNat
def dstIndex (c : Ctx) : Nat := ((c.readE 0).extractLsb' 32 8).toNat

/-- Reserved bits of e0 are zero, the kinds are codes, and an index stands only with a kind that uses it. -/
def kindsOk (c : Ctx) : Prop :=
  srcKind c ≠ 3 ∧ dstKind c ≠ 3 ∧ (c.readE 0).extractLsb' 48 10 = 0 ∧ (c.readE 0).extractLsb' 0 32 = 0
    ∧ (srcKind c = 0 → srcIndex c = 0) ∧ (dstKind c = 0 → dstIndex c = 0)

/-- LEN of e3. -/
def copyLen (c : Ctx) : Nat := ((c.readE 3).extractLsb' 0 40).toNat

/-- BOX0 and BOX1 of e6. -/
def boxes (c : Ctx) : Nat × Nat := (((c.readE 6).extractLsb' 0 32).toNat, ((c.readE 6).extractLsb' 32 32).toNat)

/-- The origin i0 to i5 of e4 and e5. -/
def copyOrigin (c : Ctx) : List Nat :=
  [((c.readE 4).extractLsb' 0 32).toNat, ((c.readE 4).extractLsb' 32 32).toNat, ((c.readE 5).extractLsb' 0 16).toNat,
    ((c.readE 5).extractLsb' 16 16).toNat, ((c.readE 5).extractLsb' 32 16).toNat, ((c.readE 5).extractLsb' 48 16).toNat]

/-- A staged address: canonical and a multiple of n. -/
def staged (v : Word) (n : Nat) : Prop := validAddress v.toInt ∧ v.toNat % n = 0

/-- The fields that a move does not use are zero. -/
def moveUnused (c : Ctx) : Prop :=
  (srcKind c = 1 → (c.readE 1).extractLsb' 32 32 = 0) ∧ (dstKind c = 1 → (c.readE 2).extractLsb' 32 32 = 0)
    ∧ (srcKind c = 2 → c.readE 1 = 0) ∧ (dstKind c = 2 → c.readE 2 = 0) ∧ (srcKind c = 2 ∨ dstKind c = 2 → c.readE 3 = 0)
    ∧ (srcKind c ≠ 2 → dstKind c ≠ 2 → c.readE 4 = 0 ∧ c.readE 5 = 0 ∧ c.readE 6 = 0 ∧ (c.readE 3).extractLsb' 40 24 = 0)

/-- The reserved bits, the codes and the fields that a copy command does not use (R323 order 1). -/
def clearFields (c : Ctx) (i : Instr) : Prop :=
  kindsOk c ∧ copyForm c ≠ 3 ∧
    match i with
    | .cp .. => copyForm c = 0 → moveUnused c
    | .cpw .. => copyForm c = 0 ∧ moveUnused c
    | .cpwb .. => copyForm c = 0 ∧ srcKind c = 0 ∧ ∀ n, 1 ≤ n → n ≤ 7 → c.readE n = 0
    | .cpfill .. => copyForm c = 0 ∧ (dstKind c = 1 → (c.readE 2).extractLsb' 32 32 = 0) ∧ (∀ n ∈ [1, 4, 5, 6, 7], c.readE n = 0)
        ∧ (c.readE 3).extractLsb' 40 24 = 0
    | _ => True

/-- The fields that a move uses are in range, and those that it does not use are zero. -/
def moveFields (c : Ctx) : Prop :=
  moveUnused c ∧ (srcKind c = 2 ∨ dstKind c = 2 → (boxes c).1 ≠ 0 ∧ (boxes c).2 ≠ 0)
    ∧ (srcKind c ≠ 2 → dstKind c ≠ 2 → 64 ≤ copyLen c ∧ copyLen c % 64 = 0)
    ∧ (srcKind c = 0 → staged (c.readE 1) 64) ∧ (dstKind c = 0 → staged (c.readE 2) 64) ∧ (c.readE 7 ≠ 0 → staged (c.readE 7) 8)

/-- Bytes that a move takes. -/
def moveBytes (c : Ctx) : Nat :=
  if srcKind c = 2 then (boxes c).1 * (c.tensor (srcIndex c)).desc.fmt.bits / 8 * (boxes c).2
  else if dstKind c = 2 then (boxes c).1 * (c.tensor (dstIndex c)).desc.fmt.bits / 8 * (boxes c).2 else copyLen c

/-- A tensor's box lies in its extents, in whole 64-byte rows, its scale pairs whole, and a handle-backed one's elements in the handle. -/
def boxReady (s : State) (c : Ctx) (tn : Nat) : Prop :=
  let t := (c.tensor tn).desc
  tensorReady s c tn
    ∧ (∀ d < 6, (copyOrigin c).getD d 0 < t.extent d) ∧ (copyOrigin c).getD 0 0 + (boxes c).1 ≤ t.extent 0
    ∧ (copyOrigin c).getD 1 0 + (boxes c).2 ≤ t.extent 1
    ∧ (boxes c).1 * t.fmt.bits % 512 = 0 ∧ (t.fmt.isTxb = true → t.scaleOk ((copyOrigin c).getD 0 0) (boxes c).1 = true)
    ∧ ∀ h, t.handle = some h → t.groupsFault (c.handle h).desc.size
        ((List.range (max 1 ((boxes c).1 / t.copyStep) * (boxes c).2)).map (t.boxIndex (c.stage 0 7))) = none

/-- A side of a move whose objects are all bound (R324, R326, R329): `level` says which handles may stand there. -/
def sideReady (s : State) (c : Ctx) (kind i off : Nat) (level : Level → Prop) : Prop :=
  (kind = 1 → handleReady c i ∧ level (c.handle i).desc.level ∧ off + moveBytes c ≤ (c.handle i).desc.size ∧ off % 64 = 0)
    ∧ (kind = 2 → boxReady s c i ∧ ∀ h, (c.tensor i).desc.handle = some h → level (c.handle h).desc.level)

/-- A side as a command snapshots it. -/
def sideOf (s : State) (key : Nat) (c : Ctx) (kind i : Nat) (e : Word) : CSide :=
  if kind = 0 then .virt e.toInt
  else if kind = 1 then
    if (c.handle i).desc.level = .tile then .hnd i (e.extractLsb' 0 32).toNat
    else .win i (s.targetOf key c (c.handle i).desc) (e.extractLsb' 0 32).toNat (c.handle i).desc.alw
  else .tens (c.tensor i).desc ((s.seen c).mantleOf (c.tensor i).desc)

/-- What a command that names objects follows beside its class: outstanding bindings of them, and where the source is backed, what the fences
in force put before the class of the backing. -/
def objectDeps (s : State) (key : Nat) (c : Ctx) (extra : List Nat) : Prop :=
  (∀ n ∈ extra, (∃ a ∈ s.ctxAccs key c, a.id = n) ∨ ∃ f ∈ c.fences, n ∈ f.before)
    ∧ ((∀ a ∈ s.ctxAccs key c, (∀ h va, a.op ≠ .bindHandle h va) ∧ ∀ n va, a.op ≠ .bindTensor n va) →
        (∀ h, (c.handle h).desc.bmode = 0) → extra = [])

/-- A TILE handle that writes its bytes back (R172). -/
def writesBack (c : Ctx) (h : Nat) : Prop :=
  (c.handle h).st = .bound ∧ (c.handle h).desc.level = .tile ∧ (c.handle h).desc.bmode = 2

def handlePending (c : Ctx) (h : Nat) : Ctx := c.setHandle h { c.handle h with st := .pending }
def tensorPending (c : Ctx) (n : Nat) : Ctx := { c with tensors := c.tensors.write .empty n { c.tensor n with st := .pending } }

/-- A 64-byte run, or one of n bytes in one granule, that a copy reads from physical memory, clean and within its code. -/
def copyReads (s : State) (w : Who) (va : Int) (n pa : Nat) : Prop :=
  parts va n = [(va, n)] ∧ s.translateOwner w .copyRead false none va n = .ok (.phys pa) ∧ s.locPoisoned (.phys pa) n = false
    ∧ ∀ l ∈ linesOf pa n, s.unreadable l = false

/-- The words of a descriptor in memory (R3). -/
def descriptorWord (s : State) (pa i : Nat) : Word := BitVec.ofNat 64 (numOf (readMem s.mem (pa + 8 * i) 8))

/-- A well-formed handle descriptor (R167): no reserved field is nonzero, none holds a value marked malformed, SIZE is in its range, BACK is canonical
and aligned and its end in the valid range, a group-form window names another tile of the group's rectangle, and an XWIN another package or die. -/
def handleWhole (c : Ctx) (die : Nat) (w : Nat → Word) : Prop :=
  let level := ((w 0).extractLsb' 62 2).toNat
  let bmode := ((w 0).extractLsb' 60 2).toNat
  let size := ((w 0).extractLsb' 0 32).toNat
  let key := (w 0).extractLsb' 32 20
  let exported := (w 0).getLsbD 56
  let target := w 2
  level ≠ 3 ∧ bmode ≠ 3 ∧ 64 ≤ size ∧ size % 64 = 0 ∧ size ≤ 3 * 2 ^ 20 ∧ (∀ i, 3 ≤ i → i ≤ 7 → w i = 0) ∧ target.extractLsb' 24 39 = 0
    ∧ (bmode = 0 → (w 0).extractLsb' 52 4 = 0 ∧ w 1 = 0)
    ∧ (level = 0 → (w 0).extractLsb' 57 3 = 0 ∧ target = 0 ∧ (exported = false → key = 0))
    ∧ (bmode ≠ 0 → validAddress (w 1).toInt ∧ (w 1).toNat % 4096 = 0 ∧ (w 1).toInt + size - 1 ≤ 2 ^ 55 - 1)
    ∧ (level ≠ 0 → bmode = 0 ∧ exported = false ∧ (target.getLsbD 63 = false → key = 0))
    ∧ (level = 1 → target.extractLsb' 14 10 = 0)
    ∧ (level = 1 → target.getLsbD 63 = true → target.extractLsb' 0 14 = 0)
    ∧ (level = 1 → target.getLsbD 63 = false → (target.extractLsb' 11 3).toNat < c.pk.w ∧ (target.extractLsb' 8 3).toNat < c.pk.h
        ∧ ((target.extractLsb' 11 3).toNat ≠ c.dx ∨ (target.extractLsb' 8 3).toNat ≠ c.dy))
    ∧ (level = 2 → target.getLsbD 63 = true ∧ target.extractLsb' 0 14 = 0
        ∧ ¬ ((target.extractLsb' 16 8).toNat = 255 ∧ (target.extractLsb' 14 2).toNat = die))

/-- A well-formed tensor descriptor (R160, R161, R252). -/
def tensorWhole (c : Ctx) (w : Nat → Word) : Prop :=
  let rank := ((w 0).extractLsb' 57 3).toNat
  let bound := (w 0).getLsbD 56
  let gap := ((w 0).extractLsb' 41 3).toNat
  let back := ((w 0).extractLsb' 38 2).toNat
  let extent (d : Nat) : BitVec 32 := (w (4 + d / 2)).extractLsb' (32 * (d % 2)) 32
  (∃ fmt, Ty.ofCode ((w 0).extractLsb' 60 4).toNat = some fmt ∧ fmt ≠ .b
      ∧ (fmt.isTxb = true → 2 ≤ gap) ∧ (fmt.isTxb = false → gap = 0 ∧ (w 0).getLsbD 40 = false ∧ w 2 = 0))
    ∧ 1 ≤ rank ∧ rank ≤ 6 ∧ back ≤ 1 ∧ (w 0).extractLsb' 0 38 = 0
    ∧ (bound = false → (w 0).extractLsb' 44 12 = 0) ∧ (bound = true → back = 0 ∧ (w 1).getLsbD 55 = false)
    ∧ (∀ i ∈ [1, 2, 3], (w i).extractLsb' 56 8 = 0) ∧ (w 3).extractLsb' 0 3 = 0
    ∧ (back = 1 → (w 1).extractLsb' 40 16 = 0 ∧ ((w 1).extractLsb' 32 8).toNat < c.pk.handles)
    ∧ w 7 = 0 ∧ w 14 = 0 ∧ w 15 = 0
    ∧ ∀ d < 6, (d < rank → extent d ≠ 0) ∧ (rank ≤ d → extent d = 0 ∧ w (8 + d) = 0)

/-- No later binding of the object is outstanding. -/
def lastBinding (s : State) (a : Acc) (p : AccOp → Bool) : Prop := ∀ x ∈ s.accs, x.ctx = a.ctx → x.grp = a.grp → a.id < x.id → p x.op = false

/-- The copy with its progress moved on by a unit. -/
def copyAt (src dst : CSide) (e : Tab Word) (cpw : Bool) (u steps : Nat) : AccOp := .copy src dst e false cpw u steps

/-- The token generation that an access gave is PRODUCED, where it is still the token's own (R140). -/
def tokenProduced (a : Acc) (c c' : Ctx) : Prop :=
  ∀ tok gen, a.give = some (tok, gen) → (c.token tok).gen = gen → (c.token tok).giver = a.id → (c'.token tok).pending = false

/-! ## The synchronisation slot (R196 to R209, R243, R251) -/

/-- Bytes of a Buckle word (R201). -/
def wordSize : AType → Nat
  | .i64 | .n64 => 8
  | _ => 4

/-- A staged address that is canonical, aligned, and translates for the access, or is held by a page under migration. -/
def reachable (s : State) (key : Nat) (c : Ctx) (k : AKind) (va : Word) (n : Nat) : Prop :=
  staged va n ∧ ((∃ l, (s.seen c).locateWord (s.whoOf key c) k va n = .ok l) ∨ (s.seen c).locateWord (s.whoOf key c) k va n = .held)

/-- The state with the page's TLB entry brought in: the tile's TLB changes, and a walk meets the lines of its table entries. -/
def translated (s : State) (key : Nat) (c : Ctx) (va : Word) : State := s.tlbFill (s.whoOf key c) (va56 va.toInt)

/-- The reservation of an ATOM with a destination. -/
def atomPending (s : State) (c : Ctx) (lsel rd : Nat) : Pend where
  uid := s.nextId
  prog := !c.tm
  issue := c.time
  due := c.time + BitVec.ofNat 48 (c.due lsel)
  slot := .sy
  pc := c.pc
  act := some (.scalar rd)
  latch := none
  mask := 0
  mres := none
  wb := none
  gran := none
  fills := []
  reply := none
  num := c.issued
  cause := none
  known := true

/-- What a Buckle operation follows: its class, and the context's earlier operations on the word. -/
def wordOrder (s : State) (key : Nat) (c : Ctx) (cls : Option Nat) (va : Word) : List Nat := s.classDeps key c cls ++ s.wordDeps key c va

/-- What SHMAP follows: every earlier access that has a class, and every earlier SHMAP (R251). -/
def shmapOrder (s : State) (key : Nat) (c : Ctx) : List Nat :=
  ((s.ctxAccs key c).filter fun a => (a.cls.isSome && !a.op.isWinStore) || a.op.isShmap).map (·.id)

/-- Phase e41 has completed (R205). -/
def phaseReached (e41 word : Word) : Bool :=
  let d := (word.extractLsb' 0 32 - e41.extractLsb' 0 32).toNat
  1 ≤ d && d ≤ 2 ^ 31

/-- The word at a wait's address, in clean physical memory. -/
def waitWord (s : State) (key : Nat) (c : Ctx) (w : Word) : Prop :=
  ∃ pa, s.locateWord (s.whoOf key c) .waitRead (c.readE 40) 8 = .ok (.phys pa) ∧ s.locPoisoned (.phys pa) 8 = false ∧ w = s.read64 pa

/-- A wait that is over: it has held once. -/
def waitOver (c : Ctx) : Ctx := { c with waitDone := true, status := .ready }

/-! ## The Lining's command (R233, R234) -/

/-- TNX, TNY, LENT's layer and the addresses that e16 to e19 name. -/
def inputTn (c : Ctx) : Nat := ((c.readE 16).extractLsb' 8 8).toNat
def outputTn (c : Ctx) : Nat := ((c.readE 16).extractLsb' 0 8).toNat
def liningClass (c : Ctx) : Nat := ((c.readE 20).extractLsb' 48 4).toNat

/-- The reserved bits of e16 to e21 are zero. -/
def liningReserved (c : Ctx) : Prop :=
  (c.readE 16).extractLsb' 16 48 = 0 ∧ (c.readE 17).extractLsb' 32 32 = 0 ∧ (c.readE 20).extractLsb' 52 12 = 0
    ∧ (c.readE 20).extractLsb' 17 15 = 0 ∧ (c.readE 21).extractLsb' 8 56 = 0

/-- The shapes, formats and ranges that MDLT accepts of its weights, input and output (R234). -/
def liningShapes (c : Ctx) (w x y : TDesc) : Prop :=
  let float := (c.readE 20).getLsbD 16
  let ge := ((c.readE 21).extractLsb' 0 8).toInt
  w.rank = 2 ∧ x.rank = 2 ∧ y.rank = 2 ∧ x.extent 0 = w.extent 0 ∧ x.extent 1 = y.extent 1 ∧ y.extent 0 = w.extent 1
    ∧ w.extent 0 % 32 = 0 ∧ w.veraddr ≠ 0 ∧ x.fmt ∈ [.f32, .bf16, .i8] ∧ (x.fmt = .i8 → ge = 0)
    ∧ (if float then w.fmt ∈ [.bf16, .f16] else w.fmt = .i8 ∨ w.fmt.isTxb = true) ∧ y.fmt = (if float then .f32 else .i32)
    ∧ (c.readE 20).extractLsb' 32 16 ≠ 0 ∧ -100 ≤ ge ∧ ge ≤ 100 ∧ (w.fmt.isTxb = true → w.scaleOk 0 (w.extent 0) = true)
    ∧ staged (c.readE 18) 64 ∧ staged (c.readE 19) 64

/-- The entry fits a command and the version word that it read (R236): VALID, of that version, of the command's configuration, and in float mode with
an invocation to go before it must compute in full. -/
def liningFits (e : LEnt) (g : MdltArgs) (r : MdltRun) (ver : Nat) : Prop :=
  e.st = .valid ∧ e.ver.toNat = ver ∧ e.float = g.float ∧ e.ge = g.ge ∧ e.wfmt = r.w.fmt ∧ e.m = r.x.extent 1 ∧ e.k = r.w.extent 0
    ∧ e.ncol = r.y.extent 0 ∧ e.veraddr = r.w.veraddr ∧ e.prevx = g.prevx ∧ e.prevy = g.prevy ∧ (g.float = true → e.cnt + 1 < e.n)

/-- A tensor side as a command snapshots it. -/
def tensorOf (s : State) (c : Ctx) (tn : Nat) : CSide := .tens (c.tensor tn).desc ((s.seen c).mantleOf (c.tensor tn).desc)

/-! ## Operations at their Buckle (R200 to R206, R258 to R260) -/

/-- An operation whose turn it is: released, in no queue and no session, and everything that it follows has performed. -/
def atHome (s : State) (a : Acc) : Prop := goesOn s a ∧ unpaired s a ∧ a.released = true ∧ a.queued = none ∧ a.posted = false

/-- The word stands at a physical address and is clean. -/
def wordAt (s : State) (a : Acc) (k : AKind) (va : Word) (n pa : Nat) : Prop :=
  s.locateWord a.who k va n = .ok (.phys pa) ∧ s.locPoisoned (.phys pa) n = false

/-- The n-byte number at a physical address. -/
def numberAt (s : State) (pa n : Nat) : Nat := numOf (readMem s.mem pa n)

/-- AOP's new value on integer words of b bits (R203); `signed` for I types. -/
def integerAtom (op : AOp) (signed : Bool) (b : Nat) (old x cmp : Nat) : Nat :=
  let value (n : Nat) : Int := if signed then (BitVec.ofNat b n).toInt else n
  match op with
  | .add => (old + x) % 2 ^ b
  | .min => if value x < value old then x else old
  | .max => if value old < value x then x else old
  | .and => old &&& x
  | .or => old ||| x
  | .xor => old ^^^ x
  | .xchg => x
  | .cas => if old = cmp then x else old
  | .fadd => old

def signedWord : AType → Bool
  | .i32 | .i64 => true
  | _ => false

/-- The new value of a word under an operation that the encoding has (R202, R203): ADD, MIN, MAX, the logic operations, XCHG and CAS on integers; on
F32, FADD rounds to nearest even, and MIN and MAX are those of the vector slots. -/
def atomValueOf (op : AOp) (ty : AType) (old x cmp : Nat) : Nat :=
  match op, ty with
  | .fadd, _ => (fadd .f32 .nearest false old x).1
  | .min, .f32 => (fminmax .f32 false old x).1
  | .max, .f32 => (fminmax .f32 true old x).1
  | op, ty => integerAtom op (signedWord ty) (8 * wordSize ty) old x cmp

/-- sD of an ATOM: sign-extended for I32 (R203). -/
def atomDelivers (ty : AType) (old : Nat) : Word := if ty = .i32 then (BitVec.ofNat 32 old).signExtend 64 else BitVec.ofNat 64 old

/-- A phase word after an arrival: the count rises, and when it meets EXPECT it is zero and the phase moves on (R205). -/
def arrived (w : Word) : Word :=
  let expect := w.extractLsb' 48 16
  let count := w.extractLsb' 32 16 + 1
  let phase := w.extractLsb' 0 32
  if count = expect then expect ++ (0 : BitVec 16) ++ (phase + 1) else expect ++ count ++ phase

/-- Memory after a word is written: its bytes, and every other byte as it was. -/
def wordWritten (s t : State) (pa n v : Nat) : Prop := numberAt t pa n = v ∧ memoryOutside s t pa n

/-- The operation waits at its die's Buckle for the end of a migration. -/
def queuedAtHome (s t : State) (a : Acc) : Prop :=
  t = { s with accs := (s.accs.filter fun x => x.id != a.id) ++ (s.accs.filter fun x => x.id = a.id).map fun x => { x with queued := some false } }

/-- The session of a physical word. -/
def sessionAt (s : State) (pa : Nat) : Option Session := s.sessions.find? fun x => x.peer = none && x.pa = pa

/-- The session that a contribution meets: the open one, or a new one. -/
def sessionFor (s : State) (a : Acc) (pa : Nat) (va : Word) (n : Nat) : Session := (sessionAt s pa).getD ⟨none, pa, a.who.tenant, va, n, 0, []⟩

/-- An access that has used an entry which the shoot-down drops and whose turn has come (R184), or a Buckle operation on its way to a word of the
shoot-down's range (R258). -/
def stillUses (s : State) (a : Acc) (k : ShootKind) (e40 e41 : Word) (x : Acc) : Prop :=
  s.ordered x = true ∧
    ((s.knows x = true ∧ ∃ r ∈ x.op.reads, ownerHere r.owner = true ∧ shootEntry k a.who.tenant e40 e41 (r.entry x.who) = true)
      ∨ (x.id ≠ a.id ∧ x.who.tenant = a.who.tenant ∧ x.queued = none ∧ x.posted = false ∧ x.released = true
        ∧ ∃ va ∈ x.op.wordVas, s.shootHits a.who k e40 e41 va = true))

/-- Interrupt-free memory of a function's signal word (R297). -/
def signalled (s t : State) (tenant v : Nat) : Prop :=
  ∀ f, (t.fn f).spend = if f ∈ s.tenantFns tenant then (s.fn f).spend ||| BitVec.ofNat 256 (2 ^ v) else (s.fn f).spend

/-! ## Results landing and messages (R27, R28, R33, R38, R40, R143, R154) -/

/-- Lane k of width w from the new value where its bit is set, else from the old one. -/
def mergedLanes (w : Nat) (m : Mask) (v old : Row) : Row :=
  ofLanes w ((List.range (4096 / w)).map fun k => ((if m.getLsbD k then v else old).extractLsb' (w * k) w).toNat)

/-- A control register written whole: CTL.ACCT a TYPE code, CTL.LIMIT its low 11 bits, a read-only number nothing (R141, R145). -/
def controlWritten (c : Ctx) (i : Nat) (v : Word) : Ctx :=
  if i = 2 then { c with acct := (Ty.ofCode (v.extractLsb' 0 4).toNat).getD c.acct }
  else if i = 3 then { c with rnd := v }
  else if i = 4 then { c with flg := v }
  else if i = 5 then { c with fer := v }
  else if i = 8 then { c with tvec := v }
  else if i = 9 then { c with tframe := v }
  else if i < 0x10 then c
  else if i < 0x18 then { c with limit := c.limit.write 64 (i - 0x10) (v.extractLsb' 0 11).toNat }
  else c

/-- FLGCLR: bit 4 of `sets` names slot S's flags, bits 24 to 20 of CTL.FLG, and so on down to slot XP's at bits 4 to 0; CTL.FER.V goes with the
set that FER.SLOT names (R143). -/
def flagsCleared (c : Ctx) (sets : BitVec 5) : Ctx :=
  let m : BitVec 25 := ((List.range 5).foldl (fun n i => if sets.getLsbD i then n + 31 * 2 ^ (5 * i) else n) 0 : Nat)
  let named := (c.fer.extractLsb' 56 4).toNat
  { c with flg := c.flg &&& ~~~(m.setWidth 64)
           fer := if named ≤ 4 ∧ sets.getLsbD (4 - named) = true then c.fer &&& 0x7FFFFFFFFFFFFFFF else c.fer }

/-- What a result does to its context's registers where it lands (R27, R100, R131, R133, R136): s0 and m0 take no write, and s48 to s63 are the
trap bank in trap time. -/
def landed (c : Ctx) (f : Inflight) : Ctx :=
  let d := match f.act with
    | .scalar n =>
      if n = 0 then c else if c.tm = true ∧ 48 ≤ n then { c with bank := c.bank.write 0 n (f.value.setWidth 64) }
      else { c with sregs := c.sregs.write 0 n (f.value.setWidth 64) }
    | .row n w => { c with rows := c.rows.write 0 n (mergedLanes w f.mask f.value (c.readRow n)) }
    | .mask n =>
      if n = 0 then c
      else { c with masks := c.masks.write 0 n (ofBits ((List.range 512).map fun k =>
        if f.mask.getLsbD k then f.value.getLsbD k else (c.readM n).getLsbD k)) }
    | .stage n => { c with eregs := c.eregs.write 0 n (f.value.setWidth 64) }
    | .spill n =>
      if c.tm then { c with scratch := c.scratch.write 0 n (f.value.setWidth 64) } else { c with spill := c.spill.write 0 n (f.value.setWidth 64) }
    | .mx n p => { c with rows := c.rows.write 0 n (p.finish (c.readRow n)).1 }
    | .macz n m => { c with rows := (List.range m).foldl (fun t i => t.write 0 (n + i) 0) c.rows }
    | .ctl i => controlWritten c i (f.value.setWidth 64)
    | .flgclr sets => flagsCleared c sets
    | .unfold => { c with unf := some (unfoldLanding f.value) }
    | _ => c
  match f.latch with
  | some b => { d with latches := d.latches.write 0 b f.value }
  | none => d

/-- A TILE handle after a store of bytes under byte enables at an offset (R170, R172). -/
def storedBytes (h k : Handle) (off : Nat) (f : Inflight) : Prop :=
  let hit (i : Nat) : Bool := decide (off ≤ i) && decide (i < off + 512) && f.mask.getLsbD (i - off)
  (∀ i, k.bytes.read 0 i = if hit i then f.value.extractLsb' (8 * (i - off)) 8 else h.bytes.read 0 i)
    ∧ (∀ i, k.written.read false i = (h.written.read false i || (hit i && h.desc.bmode != 0)))
    ∧ (∀ i, k.dirty.read false i = (h.dirty.read false i || (hit i && h.desc.bmode = 2)))
    ∧ k.st = h.st ∧ k.desc = h.desc ∧ k.unit = h.unit ∧ k.filled = h.filled ∧ k.fills = h.fills ∧ k.ahead = h.ahead

/-- The place of a slot's flags in CTL.FLG, and its number in FER.SLOT (R143). -/
def flagPlace : Slot → Option (Nat × Nat)
  | .s => some (20, 0)
  | .va => some (15, 1)
  | .vb => some (10, 2)
  | .mx => some (5, 3)
  | .xp => some (0, 4)
  | _ => none

/-- The first of NV, DZ, OF, UF, NX that is set. -/
def leadingFlag (x : BitVec 5) : Nat := if x.getLsbD 4 then 4 else if x.getLsbD 3 then 3 else if x.getLsbD 2 then 2 else if x.getLsbD 1 then 1 else 0

/-- A context after one result has raised the flags x, not none, for its slot, number n and place p in CTL.FLG: the sticky bits, the first record
of CTL.FER while it is enabled and empty, and the trap of the first enabled flag unless one is under way (R142, R143, R154). -/
def flagged (c : Ctx) (p n : Nat) (f : Inflight) (x : BitVec 5) : Ctx :=
  let on := x &&& c.rnd.extractLsb' 10 5
  { c with
    flg := c.flg ||| (x.setWidth 64 <<< p)
    fer := if c.rnd.getLsbD 15 = true ∧ c.fer.getLsbD 63 = false then
        BitVec.ofNat 64 (2 ^ 63 + leadingFlag x * 2 ^ 60 + n * 2 ^ 56 + (f.pc.extractLsb' 6 50).toNat * 64) else c.fer
    landed := if on = 0 ∨ c.landed.any (fun t => t.cause.code = 0x11) = true then c.landed
      else c.landed ++ [⟨⟨0x11, leadingFlag on, f.slot, 0⟩, 2, f.pc, 0, f.num⟩] }

/-- A reply's destination, latch and residency mask. -/
def replied (c : Ctx) (q : Pend) (r : Arrived) : Ctx :=
  let d := match q.act with
    | some (.scalar n) =>
      if n = 0 then c else if c.tm = true ∧ 48 ≤ n then { c with bank := c.bank.write 0 n (r.value.setWidth 64) }
      else { c with sregs := c.sregs.write 0 n (r.value.setWidth 64) }
    | some (.row n w) => { c with rows := c.rows.write 0 n (mergedLanes w q.mask r.value (c.readRow n)) }
    | _ => c
  let d := match q.latch with
    | some b => { d with latches := d.latches.write 0 b r.value }
    | none => d
  match q.mres with
  | some n => if n = 0 then d else { d with masks := d.masks.write 0 n r.mres }
  | none => d

/-- A context some of whose units have been written whole: no poison and no bit in error stays in them (R280). -/
def cleaned (c : Ctx) (p : CUnit → Bool) : Ctx :=
  { c with bad := c.bad.filter fun u => !p u, flaws := c.flaws.filter fun u => !p u.1 }

/-- A context some of whose units have been put right. -/
def mended (c : Ctx) (p : CUnit → Bool) : Ctx := { c with flaws := c.flaws.filter fun u => !p u.1 }

/-- SYSW and FLGCLR, which take effect at the start of their lc (R335, R375), and with them the writes that no other result of their lc shares. -/
def controlWrite (f : Inflight) : Bool :=
  match f.act with
  | .ctl _ | .flgclr _ | .stage _ | .unfold => true
  | _ => false

/-- The order of two results of one lc (R28, R34, R335, R375): control writes come first, then the one issued earlier, then the lower slot. -/
def landsBefore (f g : Inflight) : Prop :=
  let d := (g.issue - f.issue).toNat
  controlWrite f = true ∧ controlWrite g = false
    ∨ controlWrite f = controlWrite g ∧ (0 < d ∧ d < 2 ^ 47 ∨ d = 0 ∧ (slotCode f.slot < slotCode g.slot ∨ slotCode f.slot = slotCode g.slot ∧ f.uid < g.uid))

/-- Nothing else of the context is due, and nothing is late. -/
def onlyDue (c : Ctx) (f : Inflight) : Prop :=
  (c.inflight.filter fun x => x.prog != c.tm && lcLe x.land c.time) = [f] ∧ c.pend = []

/-- The context may land: it runs, or a trap point has come. -/
def landing (s : State) (key : Nat) (c : Ctx) : Prop := s.ctx? key = some c ∧ (c.status = .running ∨ c.status = .trap)

/-- Two messages of one receive queue head. -/
def oneChannel (f g : Flight) : Prop := f.grp = g.grp ∧ f.dx = g.dx ∧ f.dy = g.dy ∧ f.head = g.head

/-! ## Work queues (R69 to R73, R76) -/

/-- s with another content of queue q; nothing else changes. -/
def withQueue (s : State) (q : Nat) (v : Queue) : State := { s with queues := s.queues.write .reset q v }

/-- The queue's ERR is set. -/
def refused (s : State) (q : Nat) : State := withQueue s q { s.queue q with err := true }

/-- A write of t to TAIL that R71 accepts of an ACTIVE or FROZEN queue. -/
def tailAccepted (v : Queue) (t : BitVec 32) : Prop := (t - v.head).toNat ≤ 2 ^ v.log2n ∧ (v.tail - v.head).toNat ≤ (t - v.head).toNat

/-- What ENABLE asks (R70): REGION names a tenant or region block whose chain resolves to OWNER, and LOG2N is in 6 to 20. -/
def enables (s : State) (v : Queue) : Prop :=
  6 ≤ v.log2n ∧ v.log2n ≤ 20 ∧ ∃ b l, s.block? (v.region * 128) = .ok b ∧ b.kind ≠ 3 ∧ s.chain (v.region * 128) = .ok l ∧ chainTenant l = v.owner

/-- Nodes fetched from a queue that have not completed. -/
def fetchedFrom (s : State) (q : Nat) : Prop := ∃ p ∈ s.nodes, p.2.queue = q

/-- Word i of the ring slot at HEAD. -/
def entryAt (s : State) (v : Queue) (i : Nat) : Word := s.read64 (v.base + 64 * (v.head.toNat % 2 ^ v.log2n) + 8 * i)

/-- The ring slot at HEAD lies in the map and is clean. -/
def slotReadable (s : State) (v : Queue) : Prop :=
  runInMap (v.base + 64 * (v.head.toNat % 2 ^ v.log2n)) 64 = true ∧ s.poisoned (v.base + 64 * (v.head.toNat % 2 ^ v.log2n)) 64 = false

/-- The queue has an entry that may be fetched. -/
def fetchable (v : Queue) : Prop := v.st = .active ∧ v.head ≠ v.tail

/-- The entry at HEAD is well formed (R72). -/
def entryWhole (w : Nat → Word) : Prop :=
  (w 0).extractLsb' 52 8 = 0 ∧ (w 2).extractLsb' 52 12 = 0 ∧ (w 3).extractLsb' 1 63 = 0 ∧ w 4 = 0 ∧ w 5 = 0 ∧ w 6 = 0 ∧ w 7 = 0
    ∧ ((w 0).extractLsb' 60 4 = 1 ∧ (w 0).extractLsb' 0 7 = 0 ∧ (w 2).extractLsb' 0 6 = 0
      ∨ (w 0).extractLsb' 60 4 = 2 ∧ (w 0).extractLsb' 0 52 = 0 ∧ (w 2).extractLsb' 0 52 = 0)

/-- The slot at HEAD has been read, and HEAD has moved on. -/
def fetched (s : State) (q : Nat) : State :=
  withQueue (s.meet ((s.queue q).base + 64 * ((s.queue q).head.toNat % 2 ^ (s.queue q).log2n)) 64) q { s.queue q with head := (s.queue q).head + 1 }

/-! ## Groups (R49, R52, R53, R56, R64, R77 to R82, R262 to R265, R273 to R277) -/

/-- The initial context state of R53, read as an instruction reads it. -/
def startsAs (c : Ctx) (n : Node) (grid dx dy : Nat) : Prop :=
  c.pc = n.pk.entry ∧ c.loops = [] ∧ c.lcc = 0 ∧ c.tm = false
    ∧ (∀ i < 8, c.readS (i + 1) = n.pk.args.getD i 0) ∧ c.readS 9 = BitVec.ofNat 64 grid
    ∧ c.readS 10 = BitVec.ofNat 64 (dx + dy * 2 ^ 8 + n.pk.w * 2 ^ 16 + n.pk.h * 2 ^ 24)
    ∧ c.readS 0 = 0 ∧ (∀ i, 11 ≤ i → c.readS i = 0)
    ∧ (∀ i, c.readRow i = 0) ∧ c.readM 0 = BitVec.allOnes 512 ∧ (∀ i, i ≠ 0 → c.readM i = 0)
    ∧ (∀ i, c.readB i = 0) ∧ (∀ i, c.readE i = 0) ∧ (∀ i, c.loopIndex i = 0) ∧ (∀ i, c.spill.read 0 i = 0)
    ∧ (∀ i, (c.handle i).st = .unallocated) ∧ (∀ i, (c.tensor i).st = .unallocated)
    ∧ (∀ i, (c.token i).pending = false)
    ∧ (∀ i, (c.head i).skid = [] ∧ (c.head i).next = 0) ∧ (∀ i, (c.port i).seq = 0 ∧ (c.port i).credits = 16)
    ∧ c.pk.lat = n.pk.lat ∧ c.acct = .f32 ∧ c.rnd = 0 ∧ c.flg = 0 ∧ c.fer = 0 ∧ c.tvec = n.trapv ∧ c.tframe = 0 ∧ c.rings = 0
    ∧ (∀ i, c.limitOf i = 64 ∧ c.outOf i = 0) ∧ c.inflight = [] ∧ c.pend = []

/-- The node of a pending record is of die d. -/
def ofDie (d : Nat) (p : Nat × Node) : Prop := p.2.queue / 4096 = d

/-- Nothing of die d has failed or finished, and it keeps no room for a group. -/
def nothingToClear (s : State) (d : Nat) : Prop :=
  (∀ p ∈ s.nodes, ofDie d p → s.poisoned p.1 64 = false)
    ∧ (∀ p ∈ s.groups, (∃ n ∈ s.nodes, ofDie d n ∧ n.1 = p.2.node) → s.finished p.1 = false)
    ∧ (s.die d).claim = none

/-- The key of a place's context at an offset. -/
def keyAt (p : Place) (dx dy : Nat) : Nat := (p.die * 64 + (p.y + dy) * 8 + (p.x + dx)) * 4 + p.k

/-- A context that may stop at its next boundary. -/
def stoppable (c : Ctx) : Prop := c.rte = none ∧ c.exiting = false ∧ c.status ≠ .exited ∧ c.status ≠ .stopped

/-- A block of a node's chain whose BTIME is used up, of 3 clocks to 2 ns. -/
def usedUp (s : State) (addr : Nat) (n : Node) : Prop :=
  ∃ b ∈ n.chain, b.addr = addr ∧ ∃ k, b.btime = some k ∧ 3 * k ≤ 2 * s.btime.read 0 addr

/-- The context, not one of a pair, is at a trap point: it holds issue at program level, nothing is due before the bundle, every result due has
landed, every load in its window is known, and it does not stop here. -/
def atTrapPoint (s : State) (key : Nat) (c : Ctx) : Prop :=
  s.ctx? key = some c ∧ c.status = .running ∧ c.tm = false ∧ c.rte = none ∧ c.restored = [] ∧ c.stall = none
    ∧ s.cycleWait key c = none ∧ s.stopsHere c = none ∧ c.entryWait = none ∧ s.twinOf c = none

/-- A handler can be entered: R272's conditions do not hold, and the context has no twin. -/
def hasHandler (s : State) (key : Nat) (c : Ctx) : Prop :=
  s.twinOf c = none ∧ c.tframe ≠ 0 ∧ c.tvec ≠ 0 ∧ s.frameFaults key c = false

/-- The context c' is c with a trap entered: cause, detail, source, ORIG and FVA as the trap bank shows them (R266, R269). -/
def entered (c c' : Ctx) (code detail src : Nat) (orig fva : Word) : Prop :=
  c'.tm = true ∧ c'.tlc = 0 ∧ c'.lcc = c.lcc ∧ c'.status = .trap ∧ c'.pc = canonicalOf c.tvec.toNat
    ∧ c'.readS 48 = canonicalOf c.tframe.toNat ∧ (c'.readS 49).extractLsb' 56 8 = BitVec.ofNat 8 code
    ∧ (c'.readS 49).extractLsb' 48 8 = BitVec.ofNat 8 detail ∧ (c'.readS 49).extractLsb' 45 3 = BitVec.ofNat 3 src
    ∧ c'.readS 50 = canonicalOf orig.toNat ∧ c'.readS 51 = fva

/-! ## The end of a node (R74, R75, R85 to R88) -/

/-- The record shows a completion at package time now, and the node is pending no more. -/
def recordShows (s t : State) (at_ st : Nat) (token detail : Word) : Prop :=
  t.recState at_ = st ∧ t.read64 (at_ + 0x10) = token ∧ t.read64 (at_ + 0x18) = detail ∧ t.read64 (at_ + 0x28) = BitVec.ofNat 64 s.now
    ∧ t.node? at_ = none

/-- An error token of a kind that arose in the node of a record (R75). -/
def tokenOf (kind at_ : Nat) : Word := BitVec.ofNat 8 kind ++ (0 : BitVec 4) ++ BitVec.ofNat 52 at_

/-- An access that has used a translation of a node's staged pages and whose turn has come (R86, R184). -/
def usedStaged (s : State) (n : Node) (x : Acc) : Prop :=
  s.ordered x = true ∧ s.knows x = true ∧ ∃ r ∈ x.op.reads, ownerHere r.owner = true ∧ n.stagedEntry (r.entry x.who) = true

/-- No group of the node and no context of its groups is left. -/
def groupsGone (s t : State) (at_ : Nat) : Prop := ∀ g ∈ s.nodeGroups at_, t.group? g = none ∧ ∀ q ∈ t.ctxs, q.2.grp ≠ g

/-- No bundle for 2^30 ns, at 3 clocks to 2 ns, or a forced stop that has not led to a save within a further PDL (R88). -/
def hung (s : State) (x : Group) (n : Node) : Prop :=
  x.place ≠ none ∧ (3 * 2 ^ 30 ≤ 2 * (s.clock - x.issued) ∨ ∃ t, x.stop = some (t, true) ∧ t + n.pdl < s.now)

/-! ## The host's windows and the mailbox (R248, R293 to R299, R304 to R308) -/

/-- Function f is a tenant's, in a package that is up. -/
def tenantFunction (s : State) (f tenant : Nat) : Prop := s.ready = true ∧ f < 64 ∧ (s.fn f).bind = .tenant tenant

/-- Function f belongs to no tenant, or the package is not up. -/
def noTenantFunction (s : State) (f : Nat) : Prop := s.ready = false ∨ 64 ≤ f ∨ ∀ t, (s.fn f).bind ≠ .tenant t

/-- The node record that HSIG names. -/
def signalledRecord (v : Word) : Nat := (v.extractLsb' 6 46).toNat * 64

/-- The placed or saved group of a node, a leader, whose grid index is lowest. -/
def firstGroup (s : State) (record g : Nat) (x : Group) : Prop :=
  (g, x) ∈ s.groups ∧ s.group? g = some x ∧ x.node = record ∧ x.leader = true
    ∧ ∀ q ∈ s.groups, q.2.node = record → q.2.leader = true → q ≠ (g, x) → x.grid < q.2.grid

/-- A run of the memory window that the tenant may reach (R294). -/
def windowGranted (s : State) (tenant off n : Nat) : Prop :=
  0x100000000 ≤ off ∧ off - 0x100000000 + n ≤ 0x118000000000 ∧ runInMap (off - 0x100000000) n = true
    ∧ ∃ v, s.tenants.find tenant = some v ∧ inRanges v.ranges (off - 0x100000000) n = true

/-- Words of a queue's register block as R69 lays them out. -/
def queueWord (v : Queue) (k : Nat) : Word :=
  match k with
  | 0 => BitVec.ofNat 64 (v.base + v.log2n)
  | 1 => BitVec.ofNat 64 (2 ^ 48 * v.owner + v.region)
  | 2 => v.tail.setWidth 64
  | 3 => (match v.st with | .disabled => 0#2 | .active => 1#2 | .frozen => 2#2) ++ BitVec.ofBool v.err ++ 0#29 ++ v.head
  | 5 => v.frz
  | _ => 0

/-- A host read answers bytes and changes nothing else. -/
def answers (s : State) (f off : Nat) (l : List Byte) : State := { s with answers := s.answers ++ [(f, off, l)] }

/-- A mailbox command whose doorbell has rung: its code in REQ word 0. -/
def submitted (s : State) (f code : Nat) : Prop :=
  s.ready = true ∧ f < 64 ∧ (s.fn f).door = true ∧ ((s.fn f).req.read 0 0).extractLsb' 0 8 = BitVec.ofNat 8 code

/-- Argument k of a command, REQ word k. -/
def arg (s : State) (f k : Nat) : Nat := ((s.fn f).req.read 0 k).toNat

/-- RSP holds a status with words after it, and DOOR[0] reads 0. -/
def answered (u : State) (f st : Nat) : Prop := (u.fn f).door = false ∧ (u.fn f).rsp.read 0 0 = BitVec.ofNat 64 st

/-- The command answers with a status and changes nothing but RSP and DOOR. -/
def onlyAnswers (i : Instr) (s : State) (f st : Nat) : Prop := ∃ u, exec i s = .next u ∧ answered u f st ∧ u = { s with fns := u.fns }
    ∧ (∀ g, g ≠ f → u.fn g = s.fn g) ∧ (u.fn f).bind = (s.fn f).bind ∧ (u.fn f).req = (s.fn f).req

/-- The commands with their codes (R305). -/
def mailboxCode (f : Nat) : List (Instr × Nat) :=
  [(.tenantNew f, 0x01), (.tenantDel f, 0x02), (.grantMem f, 0x03), (.setRoot f, 0x04), (.mantleGrant f, 0x05), (.counters f, 0x06),
    (.traceBind f, 0x07), (.quote f, 0x08), (.quarantine f, 0x09), (.logRead f, 0x0A), (.mantleDrop f, 0x0B)]

/-- The commands that only the owner's function may issue. -/
def ownersCommand (code : Nat) : Prop := code ∈ [0x01, 0x02, 0x03, 0x05, 0x06, 0x09, 0x0A, 0x0B]

/-- Bytes of a measurement register, its first byte the most significant. -/
def bigEndian (n v : Nat) : List Byte := (bytesOf n v).reverse

/-! ## Repair, links, power and trace (R283, R286 to R292, R300 to R303, R308 to R310) -/

/-- An old copy that no rewind can need (R286, R287): 64 ns old, and in a paired context 128 lc back. -/
def oldEnough (s : State) (u : Snap) : Prop :=
  u.clock + 96 < s.clock ∧ ∀ c, s.ctx? u.key = some c → c.pk.pair = true → u.ctx.grp = c.grp → u.ctx.comb + 128 < c.comb

/-- A group has a context on a tile at or next to a physical place of a die, not counting diagonals (R285). -/
def nearStrike (s : State) (d pcol row tile : Nat) : Prop :=
  tile / 64 = d ∧ (let x := (s.die d).physical (tile % 8)
    let y := tile % 64 / 8
    (x = pcol ∧ (y = row ∨ y + 1 = row ∨ y = row + 1)) ∨ (y = row ∧ (x + 1 = pcol ∨ x = pcol + 1)))

/-- A group is being saved: every context of it has stopped or exited, and one has stopped. -/
def beingSaved (s : State) (g : Nat) : Prop :=
  (∀ p ∈ s.ctxs, p.2.grp = g → p.2.status = .stopped ∨ p.2.status = .exited) ∧ ∃ p ∈ s.ctxs, p.2.grp = g ∧ p.2.status = .stopped

/-- The step at which the power-on sequence stops: the one that fails, or the first of steps 1 and 2 whose image is not accepted (R303). -/
def stopsAt (failStep : Option Nat) : Option Nat :=
  if failStep = some 0 then some 0 else if imageOk 1 = false then some 1 else if failStep = some 1 then some 1
  else if imageOk 2 = false then some 2 else failStep

/-- A SYNC packet of R309 as bytes. -/
def syncPacket (k : Nat) (c : Ctx) : List Byte :=
  bytesOf 16 (1 + k * 16 + (c.pc.extractLsb' 6 50).toNat * 2 ^ 8 + c.lcc.toNat * 2 ^ 64)

/-- Bytes that a request of a peer package reads or writes. -/
def peerBytes : PeerOp → Nat
  | .read n => n
  | .write d => d.length
  | .atom _ ty .. | .red _ ty .. => wordSize ty
  | _ => 8

/-- Ranges that a tenant has been granted hold a run. -/
def tenantHolds (s : State) (tenant pa n : Nat) : Prop := ∃ v, s.tenants.find tenant = some v ∧ inRanges v.ranges pa n = true

/-! ## Decoding, reset and the step (R69, R72, R90 to R113, R249, R283, R296, R303) -/

/-- A bundle with FMT = 0b0001 whose slot of low bit lo holds a word, every other slot empty (R92, R94). -/
def bundleOf (lo word : Nat) : Nat := 2 ^ 508 + word * 2 ^ lo

/-- Instructions that have words of their own: no device step, and not the binding forms, which share CP's words (R112, R326). -/
def encodable : Instr → Bool
  | .cpBindHandle .. | .cpBindTensor .. => false
  | i => !deviceStep i

/-- The package is at the turn of a context without a twin: nothing of the device is due, nothing lands, no earlier cause is at the trap point, and
no interrupt. -/
def atTurn (s : State) (key : Nat) (rest : List Nat) (c : Ctx) : Prop :=
  s.agenda = [] ∧ s.ready = true ∧ s.autoEvent = none ∧ s.round = key :: rest ∧ s.ctx? key = some c ∧ s.hasTurn key = true
    ∧ s.land key = none ∧ c.rte = none ∧ c.dueTrap = none ∧ c.interrupt = none
    ∧ (let s1 := { s with round := rest }
       s1.stopsHere c = none ∧ s1.cycleWait key c = none ∧ s1.twinOf c = none)

/-- The state in which the bundle at the context's PC issues: its stall has ended, the undo log holds the context, the bundle is counted. -/
def issuing (s : State) (key : Nat) (rest : List Nat) (c : Ctx) : State := ({ s with round := rest } : State).prelude key c

/-- An instruction's own checks pass at its context, its level allows it, and what it needs is free. -/
def checksPass (s : State) (key : Nat) (c : Ctx) (i : Instr) : Prop :=
  accept c.acct i = none ∧ privileged c i = false ∧ (slotOp i).own s key c = .ok ∧ needChk s key c [] ((slotOp i).need s key c) = .ok

/-- The bundle at PC holds one slot instruction and no header action, and decodes. -/
def aloneAtPc (s : State) (key : Nat) (rest : List Nat) (c c0 : Ctx) (i : Instr) : Prop :=
  ∃ w, ({ s with round := rest } : State).fetch key c = .ok w ∧ decode c0.acct w = .ok ⟨⟨0, 0, false, false⟩, [(i.slot, i)]⟩

end Sys2Proof.Claims

open Sys2Proof Sys2Proof.Machine Sys2Proof.Claims

/-- Every scalar arithmetic, logic, shift, comparison and move instruction, GTS, LI and LIH among them, completes in every state: its result and
flags are put in flight for its destination and the S latch, and nothing else changes. A write to s0 lands as every other (statement
`LandingWritesRegisters` says that s0 keeps reading zero). -/
def Obligations.ScalarInstructionsComplete : Prop :=
  ∀ (s : State) (key : Nat) (c : Ctx) (i : Instr) (d : SDst) (latency : Nat) (v : Word) (flags : BitVec 5),
    Issues s key c → i.wf = true → scalarResult c i = some (d, latency, v, flags) → exec i s = .next (scalarState s key c d latency v flags)

/-- BR, BL and BRC complete when their target lies in the valid range, taken or not: a taken one names the next bundle, BL puts the return
address in flight for s63 without the latch ring, and BRC emits its BRANCH packet either way (R319). The loop stack is as it was. -/
def Obligations.RelativeBranchesComplete : Prop :=
  ∀ (s : State) (key : Nat) (c : Ctx) (off : BitVec 32), Issues s key c → validAddress (bundleAfter c off.toInt) →
    exec (.br off) s = .next (withCtx s key (goingTo c (bundleAfter c off.toInt)))
    ∧ exec (.bl off) s = .next (launched s key (goingTo c (bundleAfter c off.toInt))
        (result s c .s 1 (.scalar 63) false 0 ((BitVec.ofInt 64 (bundleAfter c 1)).setWidth 4096) 0))
    ∧ ∀ (k : ZCond) (a : SSrc),
      (zeroTest (c.scalar a) k → exec (.brc k a off) s
        = .next ((withCtx s key (goingTo c (bundleAfter c off.toInt))).trace key
            (pktBranch (key % 4) true (BitVec.ofInt 64 (bundleAfter c off.toInt)))))
      ∧ (¬ zeroTest (c.scalar a) k → exec (.brc k a off) s = .next (s.trace key (pktBranch (key % 4) false 0)))

/-- A relative branch whose target lies beyond the valid range traps on its own bundle with address fault CANON, taken or not (R319). -/
def Obligations.BranchBeyondRangeTraps : Prop :=
  ∀ (s : State) (key : Nat) (c : Ctx) (off : BitVec 32) (i : Instr), Issues s key c → ¬ validAddress (bundleAfter c off.toInt) →
    (i = .br off ∨ i = .bl off ∨ ∃ k a, i = .brc k a off) →
    exec i s = .next (s.raiseOwn key ⟨0x07, 1, .s, BitVec.ofInt 64 (bundleAfter c off.toInt)⟩ 0 0)

/-- RET completes when s63 is canonical and a multiple of 64: the next bundle stands there and a BRANCH packet says so; otherwise it traps with
CANON, or else ALIGN (R364). -/
def Obligations.RetFollowsTheLinkRegister : Prop :=
  ∀ (s : State) (key : Nat) (c : Ctx), Issues s key c →
    (validAddress (c.readS 63).toInt → (c.readS 63).toNat % 64 = 0 →
      exec .ret s = .next ((withCtx s key { c with next := some (c.readS 63) }).trace key (pktBranch (key % 4) true (c.readS 63))))
    ∧ (¬ validAddress (c.readS 63).toInt → exec .ret s = .next (s.raiseOwn key ⟨0x07, 1, .s, c.readS 63⟩ 0 0))
    ∧ (validAddress (c.readS 63).toInt → (c.readS 63).toNat % 64 ≠ 0 → exec .ret s = .next (s.raiseOwn key ⟨0x07, 6, .s, c.readS 63⟩ 0 0))

/-- LOOP completes, in both forms, when its count is zero or its body nests: a zero count transfers past the body, any other pushes the entry
of R343. With a full stack it traps with LOOPS detail 1, and where the body does not nest with an illegal instruction, in both forms. -/
def Obligations.LoopOpens : Prop :=
  ∀ (s : State) (key : Nat) (c : Ctx) (n last : Nat) (a : SSrc), Issues s key c → last ≠ 0 →
    (BitVec.ofNat 64 n = 0 ∨ nests c last → exec (.loopImm n last) s = .next (withCtx s key (looping c (BitVec.ofNat 64 n) last)))
    ∧ (c.scalar a = 0 ∨ nests c last → exec (.loopReg a last) s = .next (withCtx s key (looping c (c.scalar a) last)))
    ∧ (BitVec.ofNat 64 n ≠ 0 → 6 ≤ c.loops.length → exec (.loopImm n last) s = .next (s.raiseOwn key ⟨0x12, 1, .s, 0⟩ 0 0))
    ∧ (BitVec.ofNat 64 n ≠ 0 → c.loops.length < 6 → ¬ nests c last → exec (.loopImm n last) s = .next (s.raiseOwn key ⟨0x0C, 0, .s, 0⟩ 0 0))
    ∧ (c.scalar a ≠ 0 → 6 ≤ c.loops.length → exec (.loopReg a last) s = .next (s.raiseOwn key ⟨0x12, 1, .s, 0⟩ 0 0))
    ∧ (c.scalar a ≠ 0 → c.loops.length < 6 → ¬ nests c last → exec (.loopReg a last) s = .next (s.raiseOwn key ⟨0x0C, 0, .s, 0⟩ 0 0))

/-- LOOPX completes when an entry is open: the innermost entry goes, the next bundle follows its last one unless R345's loop_end names another,
and a BRANCH packet says where. With an empty stack it traps with LOOPS detail 2 (R344). -/
def Obligations.LoopxLeavesTheInnermostLoop : Prop :=
  ∀ (s : State) (key : Nat) (c : Ctx), Issues s key c →
    (∀ e rest, c.loops = e :: rest →
      let ended := loopEnd e.last rest
      let target := ended.2.getD (BitVec.ofInt 64 (e.last.toInt + 64))
      exec .loopx s = .next ((withCtx s key { c with loops := ended.1, next := some target }).trace key (pktBranch (key % 4) true target)))
    ∧ (c.loops = [] → exec .loopx s = .next (s.raiseOwn key ⟨0x12, 2, .s, 0⟩ 0 0))

/-- loop_end of R345, one clause for each of its branches: no entry ends here; the top entry loops back; the top entry goes, and the entries
under it are tested in turn, the next bundle following unless one of them loops back. -/
def Obligations.LoopEndFollowsTheStack : Prop :=
  ∀ (a : Word) (e : LoopEnt) (rest : List LoopEnt),
    loopEnd a [] = ([], none)
    ∧ (e.last ≠ a → loopEnd a (e :: rest) = (e :: rest, none))
    ∧ (e.last = a → 1 < e.trip.toNat →
        loopEnd a (e :: rest) = ({ e with trip := e.trip - 1, index := e.index + 1 } :: rest, some e.first))
    ∧ (e.last = a → e.trip.toNat ≤ 1 →
        (loopEnd a (e :: rest)).1 = (loopEnd a rest).1
        ∧ (loopEnd a (e :: rest)).2 = some ((loopEnd a rest).2.getD (BitVec.ofInt 64 (a.toInt + 64))))

/-- After a bundle the context's counter moves on by one, its next bundle is the one a transfer named, else the one loop_end names, else the one
that follows in memory, and no BRK is passed over any longer (R22, R117, R345). `old` is the context as the bundle found it. Stated where the bundle
held no EXIT and no RTE and no ordinary pre-emption is asked for. -/
def Obligations.AfterABundleTheNextIsNamed : Prop :=
  ∀ (s : State) (key : Nat) (c old : Ctx) (leaves : Bool), s.ctx? key = some c → c.exiting = false → c.rte = none → s.stopAsked c ≠ some false →
    ∃ c', (s.afterBundle key old leaves).ctx? key = some c'
      ∧ c'.pc = (match c.next with
          | some target => target
          | none => (loopEnd old.pc c.loops).2.getD (BitVec.ofInt 64 (bundleAfter old 1)))
      ∧ c'.loops = (match c.next with
          | some _ => c.loops
          | none => (loopEnd old.pc c.loops).1)
      ∧ c'.next = none ∧ c'.skipBrk = false ∧ c'.issued = c.issued + 1 ∧ c'.blockedAt = none ∧ s.clock < c'.idleTill
      ∧ (c.tm = false → c'.lcc = c.lcc + 1 ∧ c'.tlc = c.tlc) ∧ (c.tm = true → c'.tlc = c.tlc + 1 ∧ c'.lcc = c.lcc)
      ∧ c'.sregs = c.sregs ∧ c'.rows = c.rows ∧ c'.masks = c.masks ∧ c'.latches = c.latches ∧ c'.flg = c.flg
      ∧ (s.afterBundle key old leaves).mem = s.mem

/-- STG, SPL and SPS complete: STG for its staging register at t + 1 without the latch; SPL and SPS inside the spill store of the launch packet
at program level, inside the 4 KiB trap scratch in trap time. Beyond it they trap with an allotment overflow, detail 6 (R370, R373). -/
def Obligations.StagingAndSpillComplete : Prop :=
  ∀ (s : State) (key : Nat) (c : Ctx) (a : SSrc) (d : SDst) (e i : Nat), Issues s key c →
    exec (.stg e a) s = .next (launched s key c (result s c .s 1 (.stage e) false 0 ((c.scalar a).setWidth 4096) 0))
    ∧ ((if c.tm then i * 8 < 4096 else i * 8 < c.pk.spill * 64) →
        exec (.spl d i) s = .next (scalarState s key c d 1 (if c.tm then c.scratch.read 0 i else c.spill.read 0 i) 0)
        ∧ exec (.sps a i) s = .next (launched s key c (result s c .s 1 (.spill i) false 0 ((c.scalar a).setWidth 4096) 0)))
    ∧ (¬ (if c.tm then i * 8 < 4096 else i * 8 < c.pk.spill * 64) →
        exec (.spl d i) s = .next (s.raiseOwn key ⟨0x03, 6, .s, 0⟩ 0 0) ∧ exec (.sps a i) s = .next (s.raiseOwn key ⟨0x03, 6, .s, 0⟩ 0 0))

/-- SYSR completes for every number that names a control register, at both levels, with the register as it stands; any other number is an
illegal instruction (R141, R142, R374). -/
def Obligations.SysrReadsEveryControlRegister : Prop :=
  ∀ (s : State) (key : Nat) (c : Ctx) (d : SDst) (i : Nat), Issues s key c →
    (∀ v, controlWord c i = some v → exec (.sysr d i) s = .next (scalarState s key c d 1 v 0))
    ∧ (controlWord c i = none → exec (.sysr d i) s = .next (s.raiseOwn key ⟨0x0C, 0, .s, 0⟩ 0 0))

/-- SYSW completes for a register writable at the context's level and a value it may hold, landing at t + 1 (`LandingWritesRegisters` states its place
among the results of that lc). A value it may not hold is a reserved-field trap, a register that the level may not write a privilege trap, a number
without a register an illegal instruction; each changes no register (R141, R142, R374). -/
def Obligations.SyswChecksItsRegister : Prop :=
  ∀ (s : State) (key : Nat) (c : Ctx) (a : SSrc) (i : Nat), Issues s key c →
    (writable c i → mayHold i (c.scalar a) →
      exec (.sysw i a) s = .next (launched s key c (result s c .s 1 (.ctl i) false 0 ((c.scalar a).setWidth 4096) 0)))
    ∧ (writable c i → ¬ mayHold i (c.scalar a) → exec (.sysw i a) s = .next (s.raiseOwn key ⟨0x0D, 0, .s, 0⟩ 0 0))
    ∧ ((controlWord c i).isSome → ¬ writable c i → exec (.sysw i a) s = .next (s.raiseOwn key ⟨0x0E, 0, .s, 0⟩ 0 0))
    ∧ (controlWord c i = none → exec (.sysw i a) s = .next (s.raiseOwn key ⟨0x0C, 0, .s, 0⟩ 0 0))

/-- The header's actions and FLGCLR complete. HOLD n moves the context's own count and its release count on by n and keeps the next bundle for n
clocks more (the model's reading, log entry 44); MARK emits its packet; BRK, once an RTE has returned to its bundle, has no effect, and at any other
arrival it is a breakpoint trap; FLGCLR's clear lands at t + 1 (R22, R97, R335). -/
def Obligations.HeaderActionsComplete : Prop :=
  ∀ (s : State) (key : Nat) (c : Ctx) (n : Nat) (sets : BitVec 5), Issues s key c →
    exec (.hold n) s = .next (withCtx s key { c with
      comb := c.comb + n
      lcc := if c.tm then c.lcc else c.lcc + BitVec.ofNat 48 n
      tlc := if c.tm then c.tlc + BitVec.ofNat 48 n else c.tlc
      idleTill := s.clock + n + 1 })
    ∧ exec .mark s = .next (s.trace key (pktMark (key % 4) c.lcc))
    ∧ (c.skipBrk = true → exec .brk s = .next s)
    ∧ (c.skipBrk = false → exec .brk s = .next (s.raiseOwn key ⟨0x0F, 0, .none, 0⟩ 0 0))
    ∧ exec (.flgclr sets) s = .next (launched s key c (result s c .s 1 (.flgclr sets) false 0 0 0))

/-- POP completes when each head it names is allotted and bound, holds a message, and that message is in sequence and due: each such head
advances by one message, every other head stays, and no register changes (R39, R96). A head beyond the allotment, or bound to no channel, is
an allotment overflow trap, detail 5. -/
def Obligations.PopAdvancesItsHeads : Prop :=
  ∀ (s : State) (key : Nat) (c : Ctx) (heads : BitVec 8), Issues s key c →
    ((∀ q < 8, heads.getLsbD q = true → q < c.pk.recvs ∧ ∃ m rest ch, (c.head q).skid = m :: rest ∧ c.recvChan q = some ch
        ∧ m.seq = (c.head q).next
        ∧ lcLt c.lcc (departure ch.slots (c.head q).lastDep m.stamp + BitVec.ofNat 48 ch.latency) = false) →
      ∃ t c', exec (.pop heads) s = .next t ∧ t.ctx? key = some c' ∧ t.mem = s.mem
        ∧ (∀ q < 8, (c'.head q).skid = if heads.getLsbD q then (c.head q).skid.tail else (c.head q).skid)
        ∧ (∀ q < 8, (c'.head q).next = if heads.getLsbD q then (c.head q).next + 1 else (c.head q).next)
        ∧ c'.sregs = c.sregs ∧ c'.rows = c.rows ∧ c'.masks = c.masks ∧ c'.latches = c.latches ∧ c'.flg = c.flg ∧ c'.pc = c.pc)
    ∧ ((∃ q < 8, heads.getLsbD q = true ∧ ¬ (q < c.pk.recvs ∧ (c.recvChan q).isSome)) →
        exec (.pop heads) s = .next (s.raiseOwn key ⟨0x03, 5, .none, 0⟩ 0 0))

/-- RTE, SHOOT, SHMAP and LNCTL at program level are a privilege trap of their own slot, and have no effect (R113, R365). -/
def Obligations.PrivilegedInstructionsTrapAtProgramLevel : Prop :=
  ∀ (s : State) (key : Nat) (c : Ctx) (i : Instr), Issues s key c → c.tm = false →
    (i = .rte ∨ (∃ k, i = .shoot k) ∨ i = .shmap ∨ (∃ l, i = .lnctlInval l) ∨ i = .lnctlInvalall ∨ ∃ l, i = .lnctlSetref l) →
    exec i s = .next (s.raiseOwn key ⟨0x0E, 0, if i = .rte then .s else .sy, 0⟩ 0 0)

/-- TRAP at program level, with CTL.TVEC and CTL.TFRAME set and a frame that can be stored, enters the handler (R266, R376): trap time at
tenant system level, TLC zero and CTL.LCC frozen, issue at CTL.TVEC, the trap bank's s48 to s51 holding the frame's address, its first word,
ORIG and FVA, and the frame's stores outstanding in class oc0, with the layout of `TrapFrameLayout`. The program's results in flight are the frame's
entries, and those that the matrix array does not hold leave flight; the faults that it defers are listed, four at most (R263, R265). Every register of
the program keeps its value, apart from the destinations of loads whose window was open, which are zero (R264). Stated for a context without a twin. -/
def Obligations.TrapEntersTheHandler : Prop :=
  ∀ (s : State) (key : Nat) (c : Ctx) (code : BitVec 16), Issues s key c → c.tm = false → s.twinOf c = none → c.tframe ≠ 0 → c.tvec ≠ 0 →
    s.frameFaults key c = false →
    ∃ t c' a, exec (.trap code) s = .next t ∧ t.ctx? key = some c'
      ∧ c'.tm = true ∧ c'.tlc = 0 ∧ c'.lcc = c.lcc ∧ c'.status = .trap ∧ c'.pc = canonicalOf c.tvec.toNat
      ∧ c'.readS 48 = canonicalOf c.tframe.toNat
      ∧ (c'.readS 49).extractLsb' 56 8 = 0x10 ∧ (c'.readS 49).extractLsb' 41 15 = 0 ∧ (c'.readS 49).extractLsb' 0 16 = code
      ∧ c'.readS 50 = canonicalOf c.pc.toNat ∧ c'.readS 51 = 0
      ∧ (let z := c.windows.foldl Ctx.zeroWindow c
         c'.sregs = z.sregs ∧ c'.rows = z.rows ∧ c'.masks = z.masks ∧ c'.latches = z.latches)
      ∧ c'.eregs = c.eregs ∧ c'.loops = c.loops ∧ c'.rings = c.rings ∧ c'.acct = c.acct ∧ c'.rnd = c.rnd ∧ c'.flg = c.flg ∧ c'.fer = c.fer
      ∧ c'.tvec = c.tvec ∧ c'.tframe = c.tframe ∧ c'.handles = c.handles ∧ c'.tensors = c.tensors ∧ c'.spill = c.spill
      ∧ t.accs = s.accs ++ [a] ∧ a.cls = some 0 ∧ a.ctx = key
      ∧ (let z := c.windows.foldl Ctx.zeroWindow c
         a.op = .frame (framePieces (canonicalOf c.tframe.toNat).toInt
           (frameBytes z ⟨⟨0x10, 0, .s, 0⟩, 0, c.pc, code, c.issued⟩ c'.trapEntries ((c.deferredFor none).take 4))) 0x10 0)
      ∧ c'.trapEntries.Perm (c.inflight.filter fun f => f.prog && f.framed)
      ∧ c'.inflight = (c.inflight.filter fun f => !(f.prog && f.framed && !f.inArray))
      ∧ (s.traceRing c.node = none → t.mem = s.mem)

/-- TRAP in trap time, or with CTL.TVEC or CTL.TFRAME zero, or with a frame that cannot be stored, is fatal to the node: it is killed with token
FAULT, cause SWT in [55:48] of its record's detail and bit 63 for trap time (R272). Stated for a context without a twin: in a pair the end waits for the
twin (R67). -/
def Obligations.TrapWithoutAHandlerIsFatal : Prop :=
  ∀ (s : State) (key : Nat) (c : Ctx) (code : BitVec 16), Issues s key c → s.twinOf c = none →
    (c.tm = true → exec (.trap code) s = .next (s.killNode c.node 2 0x8010000000000000))
    ∧ (c.tm = false → (c.tframe = 0 ∨ c.tvec = 0 ∨ s.frameFaults key c = true) →
        exec (.trap code) s = .next (s.killNode c.node 2 0x0010000000000000))


/-- RTE in trap time, once no result of the handler is in flight, no load of its is open, no trap of its results is due and every earlier access of the
context is performed, and with a frame that can be read and is valid, returns to the program (R271): program level, PC and every register of R271's
list from the frame, CTL.LCC at its frozen value, rows, handles and the spill store as they are. The results that trap entry took out of flight are in
flight again with the masks and values of the frame's entries, a tensor store with its indices too, its bytes found anew; the array's results have
stayed; the frame's deferred faults are due (R265, R270; that ORIG takes its low 56 bits is log entry 57). `s1` is the state once RTE has issued. That bits
[5:0] of a loop entry's addresses are cleared is the model's choice (log entry 61). Stated for a context without a twin. -/
def Obligations.RteRestoresTheFrame : Prop :=
  ∀ (s s1 : State) (key : Nat) (c c1 : Ctx) (va : Int) (w : Who), Issues s key c → c.tm = true → c.windows = [] → c.landed = [] →
    s.twinOf c = none → c1 = { c with rte := some c.tframe } → s1 = withCtx s key c1 → va = (canonicalOf c.tframe.toNat).toInt → w = s1.whoProgram key c1 →
    s1.returnReady key c1 = true → s1.framePoisoned w va = false → s1.frameValid w va c1 = true →
    ∃ t c', exec .rte s = .next t ∧ t.ctx? key = some c'
      ∧ c'.tm = false ∧ c'.status = .running ∧ c'.rte = none ∧ c'.lcc = c.lcc
      ∧ c'.pc = canonicalOf (s1.frameWord w va 0x008)
      ∧ (∀ n, 1 ≤ n → n < 64 → c'.sregs.read 0 n = BitVec.ofNat 64 (s1.frameWord w va (0x200 + 8 * n)))
      ∧ (∀ n < 64, c'.readE n = BitVec.ofNat 64 (s1.frameWord w va (0x400 + 8 * n)))
      ∧ (∀ n, 1 ≤ n → n < 16 → c'.readM n = BitVec.ofNat 512 ((s1.frameRead w va (0x600 + 64 * n) 64).getD 0))
      ∧ (∀ n < 16, c'.readB n = BitVec.ofNat 4096 ((s1.frameRead w va (0xA00 + 512 * n) 512).getD 0))
      ∧ c'.rings = BitVec.ofNat 8 (s1.frameWord w va 0x028)
      ∧ c'.loops.length = ((BitVec.ofNat 64 (s1.frameWord w va 0x028)).extractLsb' 8 4).toNat
      ∧ (∀ (i : Nat) (e : LoopEnt), c'.loops[i]? = some e →
          e.first = canonicalOf (s1.frameWord w va (0x040 + 32 * i) / 64 * 64) ∧ e.last = canonicalOf (s1.frameWord w va (0x048 + 32 * i) / 64 * 64)
          ∧ e.trip = BitVec.ofNat 64 (s1.frameWord w va (0x050 + 32 * i)) ∧ e.index = BitVec.ofNat 64 (s1.frameWord w va (0x058 + 32 * i)))
      ∧ c'.acct.code = s1.frameWord w va 0x100 ∧ c'.rnd = BitVec.ofNat 64 (s1.frameWord w va 0x108)
      ∧ c'.flg = BitVec.ofNat 64 (s1.frameWord w va 0x110) ∧ c'.fer = BitVec.ofNat 64 (s1.frameWord w va 0x118)
      ∧ c'.rows = c.rows ∧ c'.handles = c.handles ∧ c'.tensors = c.tensors ∧ c'.spill = c.spill ∧ c'.tvec = c.tvec ∧ c'.tframe = c.tframe
      ∧ c'.trapEntries = [] ∧ c'.inflight.length = c.inflight.length + (c.trapEntries.filter fun f => !f.inArray).length
      ∧ (∀ (i : Nat) (f : Inflight), (i, f) ∈ indexed 0 c.trapEntries →
          let at_ := 0x4000 + 640 * i
          let m : Mask := BitVec.ofNat 512 ((s1.frameRead w va (at_ + 0x40) 64).getD 0)
          let v : Row := BitVec.ofNat 4096 ((s1.frameRead w va (at_ + 0x80) 512).getD 0)
          match f.act with
          | .mx .. => True
          | .macz .. => f ∈ c'.inflight
          | .tstore tn g _ _ _ => ∃ x ∈ c'.inflight, x.uid = f.uid ∧ x.land = f.land ∧ x.mask = m ∧ x.value = v
              ∧ ∃ h runs, x.act = .tstore tn g (BitVec.ofNat 4096 ((s1.frameRead w va (at_ + 640 + 0x80) 512).getD 0)) h (some runs)
          | _ => { f with mask := m, value := v } ∈ c'.inflight)
      ∧ c'.restored.length = ((BitVec.ofNat 64 (s1.frameWord w va 0)).extractLsb' 30 3).toNat
      ∧ (∀ (j : Nat) (f : Trap), c'.restored[j]? = some f →
          let w0 : Word := BitVec.ofNat 64 (s1.frameWord w va (0x140 + 32 * j))
          f.cause.code = (w0.extractLsb' 56 8).toNat ∧ f.cause.detail = (w0.extractLsb' 48 8).toNat ∧ f.src = (w0.extractLsb' 45 3).toNat
            ∧ f.cause.slot = slotOfCode (w0.extractLsb' 41 4).toNat ∧ f.orig = canonicalOf (s1.frameWord w va (0x148 + 32 * j))
            ∧ f.cause.fva = BitVec.ofNat 64 (s1.frameWord w va (0x150 + 32 * j)))
      ∧ (s.traceRing c.node = none → t.mem = s.mem)

/-- EXIT with no load's fault open completes in every state: the context is EXITED with an empty loop stack, gives up issue, and keeps every
register; every other context keeps its registers (R333). Memory is unchanged but for trace packets. -/
def Obligations.ExitEndsTheContext : Prop :=
  ∀ (s : State) (key : Nat) (c : Ctx), Issues s key c → c.windows = [] →
    ∃ t c', exec .exit s = .next t ∧ t.ctx? key = some c' ∧ c'.status = .exited ∧ c'.loops = [] ∧ c'.pc = c.pc
      ∧ c'.sregs = c.sregs ∧ c'.rows = c.rows ∧ c'.masks = c.masks ∧ c'.latches = c.latches ∧ c'.eregs = c.eregs ∧ c'.flg = c.flg
      ∧ c'.lcc = c.lcc ∧ c'.tlc = c.tlc ∧ (t.tile (keyTile key)).holder ≠ some (key % 4)
      ∧ (∀ k x, k ≠ key → s.ctx? k = some x → ∃ y, t.ctx? k = some y ∧ sameRegisters x y)
      ∧ (s.traceRing c.node = none → (s.tile (keyTile key)).lease ≠ some (key % 4) → t.mem = s.mem)

/-- The 0x22000 bytes of a trap frame by their offsets (R269, R270): the first words, the loop entries, the control images, the deferred faults, the
program's scalars with s0 as zero, the staging registers, masks and latches, and the entries in flight with their header, mask and value. -/
def Obligations.TrapFrameLayout : Prop :=
  ∀ (c : Ctx) (t : Trap) (entries : List Inflight) (deferred : List Trap),
    c.loops.length ≤ 6 → entryCount entries ≤ 192 → deferred.length ≤ 4 →
    let b := frameBytes c t entries deferred
    b.length = 0x22000
    ∧ bytesAt b 0x000 8 = bytesOf 8 (BitVec.ofNat 8 t.cause.code ++ BitVec.ofNat 8 t.cause.detail ++ BitVec.ofNat 3 t.src
        ++ BitVec.ofNat 4 (slotCode t.cause.slot) ++ BitVec.ofNat 8 (entryCount entries) ++ BitVec.ofNat 3 deferred.length
        ++ (0 : BitVec 14) ++ t.sw).toNat
    ∧ bytesAt b 0x008 8 = bytesOf 8 (c.pc.toNat % 2 ^ 56) ∧ bytesAt b 0x010 8 = bytesOf 8 (t.orig.toNat % 2 ^ 56)
    ∧ bytesAt b 0x018 8 = bytesOf 8 t.cause.fva.toNat ∧ bytesAt b 0x020 8 = bytesOf 8 c.lcc.toNat
    ∧ bytesAt b 0x028 8 = bytesOf 8 (c.loops.length * 2 ^ 8 + c.rings.toNat)
    ∧ (∀ (i : Nat) (e : LoopEnt), c.loops[i]? = some e →
        bytesAt b (0x040 + 32 * i) 32 = bytesOf 8 (e.first.toNat % 2 ^ 56) ++ bytesOf 8 (e.last.toNat % 2 ^ 56)
          ++ bytesOf 8 e.trip.toNat ++ bytesOf 8 e.index.toNat)
    ∧ bytesAt b 0x100 32 = bytesOf 8 c.acct.code ++ bytesOf 8 c.rnd.toNat ++ bytesOf 8 c.flg.toNat ++ bytesOf 8 c.fer.toNat
    ∧ (∀ (j : Nat) (f : Trap), deferred[j]? = some f →
        bytesAt b (0x140 + 32 * j) 32 = bytesOf 8 (f.cause.code * 2 ^ 56 + f.cause.detail * 2 ^ 48 + f.src * 2 ^ 45
          + slotCode f.cause.slot * 2 ^ 41) ++ bytesOf 8 (f.orig.toNat % 2 ^ 56) ++ bytesOf 8 f.cause.fva.toNat ++ bytesOf 8 0)
    ∧ (∀ n < 64, bytesAt b (0x200 + 8 * n) 8 = bytesOf 8 (if n = 0 then 0 else (c.sregs.read 0 n).toNat))
    ∧ (∀ n < 64, bytesAt b (0x400 + 8 * n) 8 = bytesOf 8 (c.eregs.read 0 n).toNat)
    ∧ (∀ n < 16, bytesAt b (0x600 + 64 * n) 64 = bytesOf 64 (c.readM n).toNat)
    ∧ (∀ n < 16, bytesAt b (0xA00 + 512 * n) 512 = bytesOf 512 (c.latches.read 0 n).toNat)
    ∧ ∀ (i : Nat) (f : Inflight), (i, f) ∈ indexed 0 entries →
        let at_ := 0x4000 + 640 * i
        let slotRemain := slotCode f.slot * 2 ^ 60 + (f.land - c.lcc).toNat * 2 ^ 48
        bytesAt b at_ 8 = bytesOf 8 (slotRemain + f.act.kind * 2 ^ 56 + (match f.latch with | some n => n * 2 ^ 44 + 2 ^ 43 | none => 0)
            + f.act.dest * 2 ^ 32)
        ∧ bytesAt b (at_ + 8) 8 = bytesOf 8 f.act.loc ∧ bytesAt b (at_ + 16) 48 = List.replicate 48 0
        ∧ (f.act.kind = 7 ∨ f.act.kind = 8 → bytesAt b (at_ + 0x40) 576 = List.replicate 576 0)
        ∧ (f.act.kind ≠ 7 → f.act.kind ≠ 8 → bytesAt b (at_ + 0x40) 64 = bytesOf 64 f.mask.toNat ∧ bytesAt b (at_ + 0x80) 512 = bytesOf 512 f.value.toNat)
        ∧ ∀ tn g idx h runs, f.act = .tstore tn g idx h runs →
            bytesAt b (at_ + 640) 8 = bytesOf 8 (slotRemain + 10 * 2 ^ 56) ∧ bytesAt b (at_ + 648) 120 = List.replicate 120 0
            ∧ bytesAt b (at_ + 640 + 0x80) 512 = bytesOf 512 idx.toNat


/-- The vector instructions of use "write" with a single type, MPOPC and MFIRST among them, complete whenever their encoding is accepted and
their rows, heads and port are ready: every lane that is on delivers the result its row of R380 to R405 gives, with the latency of R379, to the
row, the port (a credit taken) or the latch alone, and the VA or VB latch. -/
def Obligations.VectorLaneInstructionsComplete : Prop :=
  ∀ (s : State) (key : Nat) (c : Ctx) (i : Instr) (h : VHead) (srcs : List VSrc) (latency : Nat) (f : Nat → Nat × BitVec 5),
    Issues s key c → i.wf = true → laneResult c i = some (h, srcs, latency, f) → accept c.acct i = none → (∀ v ∈ srcs, sourceReady c v) → destReady c h.d →
    exec i s = .next (delivered s key c h latency (write c h f))

/-- MAND, MOR, MXOR, MNOT and MSET complete whenever their encoding is accepted, with a latency of 2 lc and no latch; VCMP when its sources are
ready too, with the latency of its type and the flags of the lanes that are on (R133, R349, R357, R379, R385). -/
def Obligations.MaskInstructionsComplete : Prop :=
  ∀ (s : State) (key : Nat) (c : Ctx), Issues s key c →
    (∀ i h f, i.wf = true → maskResult c i = some (h, f) → accept c.acct i = none → exec i s = .next (maskState s key c h 2 f 0))
    ∧ ∀ (h : MHead) (ty : Ty) (k : VCond) (a b : VSrc), (Instr.vcmp h ty k a b).wf = true → accept c.acct (.vcmp h ty k a b) = none → sourceReady c a → sourceReady c b →
      exec (.vcmp h ty k a b) s = .next (maskState s key c h (latencyOf ty)
        (fun j => (compared c ty k (lane c ty a j) (lane c ty b j)).1)
        ((List.range (count c)).foldl (fun x j => if on c h.p j then x ||| (compared c ty k (lane c ty a j) (lane c ty b j)).2 else x) 0))


/-- VSEL, VEXT, VSUM, VMAXR, VSCAN, VPACK, VUNPK, VCMPR, VCVT, VQTXB and VDQTXB complete whenever their encoding is accepted and their rows,
heads and port are ready, and for the last two the tensor identifier is allotted, BOUND and of the named format: reductions and scans in the
order of R164, the others by their rows of R383 to R402, with the latency of R379. -/
def Obligations.VectorRowInstructionsComplete : Prop :=
  ∀ (s : State) (key : Nat) (c : Ctx) (i : Instr) (h : VHead) (srcs : List VSrc) (latency : Nat) (o : Delivery) (tensor : Option (Nat × Ty)),
    Issues s key c → i.wf = true → rowResult c i = some (h, srcs, latency, o, tensor) → accept c.acct i = none → (∀ v ∈ srcs, sourceReady c v) →
    destReady c h.d → (∀ t ∈ tensor, t.1 < c.pk.tns ∧ (c.tensor t.1).st = .bound ∧ (c.tensor t.1).desc.fmt = t.2) →
    exec i s = .next (delivered s key c h latency o)

/-! ## The matrix slot, the lease and the transposer -/

/-- MMA completes on an A row and on a virtual row when its rows are allotted, the weight buffer holds its format, the matrix lease is the
context's to use, and for a virtual row an unfolding is bound and the chunk lies in it: the push, computed from the operands as they stand at
issue, is in flight for its row at the latency of R210, 8 lc later for a virtual row, and counts under the lease (R62, R210, R353 to R355). -/
def Sys2Proof.Claims.MatrixPushesComplete : Prop :=
  ∀ (s : State) (key : Nat) (c : Ctx) (cell : Cell) (wb acc : Bool) (dst : Nat) (f : PushFmt), Issues s key c → s.leaseReady key c = true →
    dst < c.pk.rows → (c.wbuf (if wb then 1 else 0)).fmt = some f →
    (∀ src < c.pk.rows, accept c.acct (.mma cell wb src dst acc f) = none →
      let p := pushOf cell f c.acct acc (c.readRow src).toNat (pairOf (c.readRow src)) (c.wbuf (if wb then 1 else 0))
      exec (.mma cell wb src dst acc f) s = .next (pushed s key c (pushCycles f) (.mx dst p.1) 0 p.2))
    ∧ (∀ (x : Nat) (u : Unfold), accept c.acct (.mmaVirtual cell wb x dst acc f) = none → c.unf = some u →
      128 * f.kd * ((c.readE 24).extractLsb' 32 32).toNat < u.kh * u.kw * u.c →
      let p := pushOf cell f c.acct acc (c.virtualRow s.free u f x) (fun _ => (0, 0)) (c.wbuf (if wb then 1 else 0))
      exec (.mmaVirtual cell wb x dst acc f) s
        = .next (pushed { s with free := s.free + 128 * f.kd } key c (pushCycles f + 8) (.mx dst p.1) 0 p.2))

/-- An I8 push against I8 weights with accumulator type I32, once completed with the accumulator row as it stands at landing, leaves in lane j
the sum of the cell's exact terms over the 256 elements, or their greatest for CSEL, with the accumulator's lane when ACC = 1, modulo 2^32; it
raises no flag (R212, R213, R220). -/
def Obligations.IntegerPushSumsColumns : Prop :=
  ∀ (cell : Cell) (acc : Bool) (a old : Row) (w : WBuf) (pair : Nat → Nat × Nat) (j : Nat), j < 128 →
    let p := pushOf cell .i8 .i32 acc a.toNat pair w
    let terms := (List.range 256).map fun k => term cell (byteAt a k) (byteAt w.image (256 * j + k))
    let was : Int := (old.extractLsb' (32 * j) 32).toInt
    let v : Int := match cell with
      | .csel => terms.foldl (fun m x => if m < x then x else m) (if acc then was else terms.headD 0)
      | _ => terms.foldl (· + ·) (if acc then was else 0)
    (p.1.finish old).1.extractLsb' (32 * j) 32 = BitVec.ofInt 32 v ∧ p.2 = 0 ∧ (p.1.finish old).2 = 0

/-- MACZ, MUNF and MWLD complete under the lease. MACZ's rows become zero at t + 2; MUNF's geometry is read at issue and bound at t + 4; MWLD
makes its buffer pending, snapshots the descriptor, its Mantle entry and e16 to e19, and gives its token (R62, R215 to R218, R347). -/
def Sys2Proof.Claims.MatrixSetupComplete : Prop :=
  ∀ (s : State) (key : Nat) (c : Ctx), Issues s key c → s.leaseReady key c = true →
    (∀ d n, 0 < n → d + n ≤ c.pk.rows →
      exec (.macz d n) s = .next (pushed s key c 2 (.macz d n) 0 0))
    ∧ (∀ h < 256, handleReady c h → unfolds c h (if c.acct = .i32 then 1 else 2) →
      exec (.munf h) s = .next (pushed s key c 4 .unfold ((BitVec.ofNat 8 h ++ c.readE 22 ++ c.readE 21 ++ c.readE 20).setWidth 4096) 0)
      ∧ unfoldLanding ((BitVec.ofNat 8 h ++ c.readE 22 ++ c.readE 21 ++ c.readE 20).setWidth 4096) = unfolding c h)
    ∧ (∀ wb tn give after, tokensAllotted c give after → tensorReady s c tn → mapsSettled s key c [tn] →
      weightsReadable c (c.tensor tn).desc →
      let c1 := { c with pend := c.pend ++ [bufferPending s c wb] }
      let s1 := { withCtx s key c1 with nextId := s.nextId + 1 }
      exec (.mwld wb tn give after) s = .next ((commanded s1 key c1 none give after []
        (.mwld (if wb then 1 else 0) (c.tensor tn).desc ((s.seen c).mantleOf (c.tensor tn).desc) (c.stage 16 19) s.nextId)).leaseCount key))

/-- The matrix lease (R61, R62, R352). MLEASE completes when the lease is free, which it takes without counting, or is the context's own, which
it keeps; MREL gives up the context's own lease and has no effect on another's; a command counts once, the first takes a free lease, and one past
64 commands or 512 lc of a holder for whom none waits starts a new count; a holder past them for whom another waits releases the lease and waits,
as one that does not hold it waits; the time-out releases the lease of a holder that has issued nothing for more than 4096 clocks since it entered
BLOCKED while another waits. A lease released goes at once to the context that waits with the highest priority, the first going upward from the
last one granted where several have it, which is READY again; or to none, where none waits. -/
def Obligations.LeaseFollowsItsHolder : Prop :=
  ∀ (s : State) (key : Nat) (c : Ctx), Issues s key c →
    let t := s.tile (keyTile key)
    (t.lease = none → ∃ u, exec .mlease s = .next u ∧ u.tile (keyTile key)
      = { t with lease := some (key % 4), leaseLast := key % 4, leaseCount := 0, leaseAt := c.lcc, tbuf := (u.tile (keyTile key)).tbuf,
                 tseq := (u.tile (keyTile key)).tseq, tdrop := (u.tile (keyTile key)).tdrop, bundles := (u.tile (keyTile key)).bundles } ∧ u.accs = s.accs)
    ∧ (t.lease = some (key % 4) → exec .mlease s = .next s)
    ∧ (t.lease ≠ some (key % 4) → exec .mrel s = .next s)
    ∧ (t.lease = some (key % 4) → ∃ u, exec .mrel s = .next u ∧ leaseMoves s u (keyTile key) ∧ u.accs = s.accs)
    ∧ (t.lease = none → ((s.leaseCount key).tile (keyTile key)).lease = some (key % 4)
        ∧ ((s.leaseCount key).tile (keyTile key)).leaseCount = 1)
    ∧ (t.lease = some (key % 4) → t.leaseCount < 64 → lcSub c.lcc t.leaseAt < 512 →
        s.leaseCount key = s.setTile (keyTile key) { t with leaseCount := t.leaseCount + 1 })
    ∧ (t.lease = some (key % 4) → (64 ≤ t.leaseCount ∨ 512 ≤ lcSub c.lcc t.leaseAt) →
        s.leaseCount key = s.setTile (keyTile key) { t with leaseCount := 1, leaseAt := c.lcc }
        ∧ ((∀ p ∈ s.tileCtxs (keyTile key), p.1 ≠ key % 4 → p.2.leaseWait = none) → s.leaseReady key c = true)
        ∧ ∀ d n, 0 < n → d + n ≤ c.pk.rows → (∃ p ∈ s.tileCtxs (keyTile key), p.1 ≠ key % 4 ∧ p.2.leaseWait ≠ none) →
            ∃ u, exec (.macz d n) s = .next u ∧ leaseMoves (withCtx s key { c with leaseWait := some true }) u (keyTile key) ∧ u.accs = s.accs)
    ∧ (∀ d n k, 0 < n → d + n ≤ c.pk.rows → t.lease = some k → k ≠ key % 4 → s.rings = [] →
        ∃ u c', exec (.macz d n) s = .next u ∧ (u.tile (keyTile key)).lease = some k ∧ u.ctx? key = some c' ∧ sameRegisters c c'
          ∧ c'.leaseWait = some true ∧ c'.status = .blocked ∧ u.accs = s.accs)
    ∧ (∀ k h b, t.lease = some k → s.ctx? (keyTile key * 4 + k) = some h → h.blockedAt = some b → b + 4096 < s.clock →
        (∃ p ∈ s.tileCtxs (keyTile key), p.1 ≠ k ∧ p.2.leaseWait ≠ none) →
        ∃ u, exec (.leaseTimeout (keyTile key)) s = .next u ∧ leaseMoves s u (keyTile key) ∧ u.accs = s.accs)
    ∧ ((∀ k h, t.lease = some k → s.ctx? (keyTile key * 4 + k) = some h →
          (∀ b ∈ h.blockedAt, s.clock ≤ b + 4096) ∨ ∀ p ∈ s.tileCtxs (keyTile key), p.1 ≠ k → p.2.leaseWait = none) →
        exec (.leaseTimeout (keyTile key)) s = .next s)

/-- The transposer (R223 to R225). Which count of lc a column's lead is measured in where a handler pushes or pops is
the model's reading (log entry 67). XCFG completes in state EMPTY with a word that it accepts; XPUSH in EMPTY or FILLING with a readable source,
of which it records NCOL lanes from J0, the last row starting the draining; XPOP in DRAINING from 11 lc after that row, one lc more for each
column, with the column in flight for its row or port at t + 1. An XPOP that comes too early, or an instruction in a state that R223 does
not list, is a schedule violation. -/
def Obligations.TransposerComplete : Prop :=
  ∀ (s : State) (key : Nat) (c : Ctx), Issues s key c →
    (c.xpose.st = .empty → configurable (c.readE 32) → exec .xcfg s = .next (withCtx s key { c with xpose := configured (c.readE 32) }))
    ∧ (c.xpose.st ≠ .empty → exec .xcfg s = .next (s.raiseOwn key ⟨0x02, 2, .xp, 0⟩ 0 0))
    ∧ (∀ a, sourceReady c a → c.xpose.st ≠ .draining →
        let x := c.xpose
        let r := (((c.vector .b c.acct.bits a) >>> (x.w * x.j0)).setWidth (x.w * x.ncol)).setWidth 4096
        exec (.xpush a) s = .next (withCtx s key { c with xpose :=
          if x.rows.length + 1 < x.n then { x with st := .filling, rows := x.rows ++ [r] }
          else { x with st := .draining, rows := x.rows ++ [r], col := 0, tlast := c.time, tprog := !c.tm, tcomb := c.comb } }))
    ∧ (∀ d, (∀ n ∈ d.rowNo, n < c.pk.rows) → d.portNo = none → c.xpose.st = .draining → ¬ columnDue c →
        exec (.xpop d) s = .next (s.raiseOwn key ⟨0x02, 2, .xp, 0⟩ 0 0))
    ∧ (∀ d, d ≠ .off → destReady c d → c.xpose.st = .draining → columnDue c →
        ∃ row flags mask act, c.xpose.column c.xpose.col = (row, flags)
          ∧ (match d with
            | .row n => act = .row n 32 ∧ mask = lowBits 128
            | .port q => act = .port q ∧ mask = lowBits c.xpose.n
            | .off => False)
          ∧ (c.xpose.otype = none → row = ofLanes c.xpose.w ((List.range c.xpose.rows.length).map (columnLane c.xpose)) ∧ flags = 0)
          ∧ (let c1 := { c with xpose :=
               if c.xpose.col + 1 < c.xpose.ncol then { c.xpose with col := c.xpose.col + 1 } else { c.xpose with st := .empty, rows := [], col := 0 } }
             let c2 := match d with
               | .port q => withoutCredit c1 q
               | _ => c1
             exec (.xpop d) s = .next (launched s key c2 (result s c2 .xp 1 act false mask row flags))))
    ∧ (∀ d, (∀ n ∈ d.rowNo, n < c.pk.rows) → d.portNo = none → c.xpose.st ≠ .draining →
        exec (.xpop d) s = .next (s.raiseOwn key ⟨0x02, 2, .xp, 0⟩ 0 0))

/-! ## Loads and stores -/

/-- LD and VLD from a TILE handle complete when the handle is BOUND, the access lies in it, is aligned, and meets filled granules only, no
fence holds the class, and VLD's row is allotted: the value of the handle's bytes lands in the destination and the LD latch at t + 4 or t + 5
(R30, R169, R340, R394, R395). -/
def Sys2Proof.Claims.TileLoadsComplete : Prop :=
  ∀ (s : State) (key : Nat) (c : Ctx) (l : LHead) (h bs off : Nat), Issues s key c → handleReady c h → (c.handle h).desc.level = .tile →
    fencesPass s c l.oc →
    (∀ (ty : Ty) (d : SDst), accept c.acct (.ld l ty d h bs off) = none →
      let addr := (c.readS bs).toNat + off
      addr + ty.bits / 8 ≤ (c.handle h).desc.size → addr % (ty.bits / 8) = 0 → runFilled (c.handle h) addr (ty.bits / 8) →
      exec (.ld l ty d h bs off) s = .next (launched s key c (result s c .ld 4 (match d with | .s n => .scalar n | .off => .latchOnly) true 0
        ((loaded ty (handleNumber (c.handle h) addr (ty.bits / 8))).setWidth 4096) 0)))
    ∧ (∀ (d : RDst) (p : Pred), rowAllotted c d →
      let addr := (c.readS bs).toNat + 64 * off
      (∀ k, on c p k = true → addr + (k + 1) * (c.acct.bits / 8) ≤ (c.handle h).desc.size) → addr % 64 = 0 →
      runFilled (c.handle h) addr 512 → c.acct.bits ∈ [8, 16, 32] →
      exec (.vld l d h bs off p) s = .next (launched s key c (result s c .ld 5 (rowTarget d c.acct.bits) true (onLanes c p)
        (loadedRow c p (c.handle h) addr) 0)))

/-- VLDT and VGATH of a tensor in plain virtual memory complete when the indices of every lane that is on lie in the extents, the elements in
the valid range and aligned, every part translates, a reservation is free, and no fence holds the class: the load starts with its due cycle
by LSEL, after the earlier accesses of its class, and no register changes before it lands (R33, R35, R162, R181, R391, R396). Which reservations are
free is the model's choice (log entry 60). -/
def Sys2Proof.Claims.TensorLoadsStart : Prop :=
  ∀ (s : State) (key : Nat) (c : Ctx) (l : LHead) (d : RDst) (tn mr : Nat) (p : Pred), Issues s key c → plainTensor s c tn → rowAllotted c d →
    fencesPass s c l.oc → reservationFree c →
    let t := (c.tensor tn).desc
    (∀ is reads, is + t.rank ≤ 64 → (∀ k, on c p k = true → ∀ e < 6, (if e < t.rank then linearIndex c is t.rank k e else if e = 0 then k else 0) < t.extent e) →
      (∀ q ∈ lanesMoved c p t (fun k e => linearIndex c is t.rank k e), elementOk q) →
      readsTranslate s key c (lanesMoved c p t fun k e => linearIndex c is t.rank k e) reads →
      ((List.range (count c)).filter (on c p)) ≠ [] →
      ∃ u, exec (.vldt l d tn is mr p) s = .next u ∧ loadStarted s u key c l d mr p reads)
    ∧ (∀ ix reads, sourceReady c ix → (∀ k, on c p k = true → indexLane c ix k < (List.range t.rank).foldl (fun a e => a * t.extent e) 1) →
      (∀ q ∈ lanesMoved c p t (fun k => digit t (indexLane c ix k)), elementOk q) →
      readsTranslate s key c (lanesMoved c p t fun k => digit t (indexLane c ix k)) reads →
      ((List.range (count c)).filter (on c p)) ≠ [] →
      ∃ u, exec (.vgath l d tn ix mr p) s = .next u ∧ loadStarted s u key c l d mr p reads)

/-- The loads in general. LD and VLD through a WIN or XWIN handle, or of a granule that is not filled, start and wait; VLD with every lane off asks of
its handle the allotment alone and lands, or waits, with zero lanes; VLDT and VGATH of a tensor in a TILE handle land at t + 7, and of one in a
window, at Mantle owners or of a TXB format start and wait. A fault found in translation opens a window (R33, R35, R158, R159, R169, R170, R173,
R185, R188, R253, R264, R340, R391 to R397). Where a fault leaves an unfilled granule, and which reservations are free, is the model's choice (log
entry 60), and that an absent peer's OWNER fault is found at issue is its reading (log entry 63). -/
def Sys2Proof.Claims.LoadsBegin : Prop :=
  ∀ (s : State) (key : Nat) (c : Ctx) (l : LHead), Issues s key c → fencesPass s c l.oc →
    (∀ (ty : Ty) (d : SDst) (h bs off : Nat), accept c.acct (.ld l ty d h bs off) = none → handleReady c h →
      let addr := (c.readS bs).toNat + off
      let f : LoadForm := ⟨l.oc, l.lsel, 4, match d with | .s n => .scalar n | .off => .latchOnly, 0, 0, some ty⟩
      let pl : Plan := scalarPlan h addr (ty.bits / 8)
      addr + ty.bits / 8 ≤ (c.handle h).desc.size → addr % (ty.bits / 8) = 0 →
      begins s key c (.ld l ty d h bs off) f pl ∧ opensWindow s key c (.ld l ty d h bs off) f pl [])
    ∧ (∀ (d : RDst) (h bs off : Nat) (p : Pred), rowAllotted c d → h < c.pk.handles →
      let addr := (c.readS bs).toNat + 64 * off
      let f : LoadForm := ⟨l.oc, l.lsel, 5, rowTarget d c.acct.bits, onLanes c p, 0, none⟩
      let pl := rowPlan h addr c.acct.bits (onLanes c p)
      (∀ k, on c p k = true → handleReady c h ∧ addr + (k + 1) * (c.acct.bits / 8) ≤ (c.handle h).desc.size ∧ addr % 64 = 0) →
      begins s key c (.vld l d h bs off p) f pl ∧ landsFixed s key c (.vld l d h bs off p) f pl
        ∧ opensWindow s key c (.vld l d h bs off p) f pl [])
    ∧ (∀ (d : RDst) (tn : Nat) (p : Pred) (mr : Nat), tensorReady s c tn → mapsSettled s key c [tn] → rowAllotted c d →
      let t := (c.tensor tn).desc
      (t.mb = true → t.handle = none) → formatSuits c t p mr .zero →
      (∀ is, indicesFit c t is p →
        let pl := (s.seen c).linearPlan c t is (onLanes c p)
        chunksFit c t pl →
        (virtFits t pl → begins s key c (.vldt l d tn is mr p) (tensorForm c l d t mr p) pl
          ∧ landsFixed s key c (.vldt l d tn is mr p) (tensorForm c l d t mr p) pl)
        ∧ opensWindow s key c (.vldt l d tn is mr p) (tensorForm c l d t mr p) pl (t.lateFaults pl))
      ∧ (∀ ix, t.fmt.isTxb = false → sourceReady c ix →
        (∀ k, on c p k = true → indexLane c ix k < (List.range t.rank).foldl (fun a e => a * t.extent e) 1) →
        let pl := (s.seen c).gatherPlan t (onLanes c p) (c.indexLanes ix)
        chunksFit c t pl → classDone s key c pl l.oc →
        (virtFits t pl → begins s key c (.vgath l d tn ix mr p) (tensorForm c l d t mr p) pl
          ∧ landsFixed s key c (.vgath l d tn ix mr p) (tensorForm c l d t mr p) pl)
        ∧ opensWindow s key c (.vgath l d tn ix mr p) (tensorForm c l d t mr p) pl (t.lateFaults pl)))

/-- The stores in general. ST and VST through a WIN or XWIN handle are posted once OUT is below LIMIT; VST with every lane off asks of its handle the
allotment alone and has no effect; VSTT and VSCAT of a tensor in a TILE handle, in a window, at Mantle owners or of a TXB format issue with the data,
the pairs and the version word's additions that R232 and R397 give them (R145, R158, R169, R173, R199, R253, R372, R391 to R397). -/
def Sys2Proof.Claims.StoresBegin : Prop :=
  ∀ (s : State) (key : Nat) (c : Ctx) (l : SHead) (v : VSrc), Issues s key c → fencesPass s c l.oc →
    (∀ (ty : Ty) (h bs off : Nat), accept c.acct (.st l ty v h bs off) = none → handleReady c h → (c.handle h).desc.level ≠ .tile →
      let addr := (c.readS bs).toNat + off
      addr + ty.bits / 8 ≤ (c.handle h).desc.size → addr % (ty.bits / 8) = 0 → allowed c (scalarPlan h addr (ty.bits / 8)) →
      ∃ u, exec (.st l ty v h bs off) s = .next u ∧ storePosted s u key c l h
        [(addr, bytesOf (ty.bits / 8) (match v with | .scalar n => c.readS n | .latch n => (c.readB n).setWidth 64 | _ => 0 : Word).toNat)])
    ∧ (∀ (h bs off : Nat) (p : Pred), sourceReady c v → h < c.pk.handles →
      let addr := (c.readS bs).toNat + 64 * off
      let pl := rowPlan h addr c.acct.bits (onLanes c p)
      ((∀ k, on c p k = false) → exec (.vst l v h bs off p) s = .next s)
      ∧ ((∃ k, on c p k = true) → handleReady c h → (c.handle h).desc.level ≠ .tile →
          (∀ k, on c p k = true → addr + (k + 1) * (c.acct.bits / 8) ≤ (c.handle h).desc.size) → addr % 64 = 0 → allowed c pl →
          ∃ u, exec (.vst l v h bs off p) s = .next u ∧ storePosted s u key c l h
            (pl.chunks.map fun q => (q.va.toNat, rowSlice (c.vector c.acct c.acct.bits v) q))))
    ∧ (∀ (tn : Nat) (p : Pred), tensorReady s c tn → mapsSettled s key c [tn] → sourceReady c v →
      let t := (c.tensor tn).desc
      (t.mb = true → t.handle = none) → formatSuits c t p 0 v →
      let row := c.vector (if t.fmt.isTxb then .b else t.fmt) c.acct.bits v
      (∀ is, indicesFit c t is p →
        let pl := (s.seen c).linearPlan c t is (onLanes c p)
        chunksFit c t pl → virtFits t pl → allowed c pl →
        ∃ u, exec (.vstt l v tn is p) s = .next u ∧ storeBegun s u key c l tn false
          (ofLanes 64 ((List.range t.rank).map fun e => linearIndex c is t.rank 0 e)) (if t.fmt.isTxb then lowBits (count c) else onLanes c p) pl row)
      ∧ (∀ ix, t.fmt.isTxb = false → sourceReady c ix →
        (∀ k, on c p k = true → indexLane c ix k < (List.range t.rank).foldl (fun a e => a * t.extent e) 1) →
        let pl := (s.seen c).gatherPlan t (onLanes c p) (c.indexLanes ix)
        chunksFit c t pl → virtFits t pl → allowed c pl → classDone s key c pl l.oc →
        ∃ u, exec (.vscat l v tn ix p) s = .next u ∧ storeBegun s u key c l tn true (c.vector .b c.acct.bits ix) (onLanes c p) pl row))

/-- ST and VST to a TILE handle complete when the handle is BOUND, the store lies in it and is aligned, and no fence holds the class: the bytes
of the element, or of the lanes that are on, land at t + 3 from the address of BS and the offset. No register changes, and no byte of memory
(R169, R371, R372, R394, R395). -/
def Sys2Proof.Claims.TileStoresComplete : Prop :=
  ∀ (s : State) (key : Nat) (c : Ctx) (l : SHead) (v : VSrc) (h bs off : Nat), Issues s key c → handleReady c h →
    (c.handle h).desc.level = .tile → fencesPass s c l.oc →
    (∀ (ty : Ty), accept c.acct (.st l ty v h bs off) = none →
      let addr := (c.readS bs).toNat + off
      addr + ty.bits / 8 ≤ (c.handle h).desc.size → addr % (ty.bits / 8) = 0 →
      exec (.st l ty v h bs off) s = .next (launched s key c (result s c .st 3 (.hbytes h addr) false (firstBytes (ty.bits / 8))
        ((match v with | .scalar n => c.readS n | .latch n => (c.readB n).setWidth 64 | _ => 0 : Word).setWidth 4096) 0)))
    ∧ (∀ (p : Pred), sourceReady c v →
      let addr := (c.readS bs).toNat + 64 * off
      (∀ k, on c p k = true → addr + (k + 1) * (c.acct.bits / 8) ≤ (c.handle h).desc.size) → addr % 64 = 0 → c.acct.bits ∈ [8, 16, 32] →
      (((List.range (count c)).filter (on c p)) ≠ [] →
        exec (.vst l v h bs off p) s = .next (launched s key c (result s c .st 3 (.hbytes h addr) false (laneBytes c p)
          (c.vector c.acct c.acct.bits v) 0)))
      ∧ (((List.range (count c)).filter (on c p)) = [] → exec (.vst l v h bs off p) s = .next s))

/-- VSTT and VSCAT to a tensor in plain virtual memory complete when the indices of every lane that is on lie in the extents, the elements in
the valid range and aligned, and no fence holds the class: the store of those lanes' elements, with the identifier's version word, is listed
after the earlier accesses of its class. No register changes, and no byte of memory before the store performs (R162, R181, R232, R391, R396). -/
def Sys2Proof.Claims.TensorStoresComplete : Prop :=
  ∀ (s : State) (key : Nat) (c : Ctx) (l : SHead) (v : VSrc) (tn : Nat) (p : Pred), Issues s key c → plainTensor s c tn → sourceReady c v →
    fencesPass s c l.oc → ((List.range (count c)).filter (on c p)) ≠ [] →
    let t := (c.tensor tn).desc
    let stored (q : List Piece) := listed s key c (some l.oc) (s.classDeps key c (some l.oc)) (c.fenceDeps (some l.oc))
      (.store (q.map (laneData c t v)) true (versionOf t))
    (∀ is, is + t.rank ≤ 64 → (∀ k, on c p k = true → ∀ e < 6, (if e < t.rank then linearIndex c is t.rank k e else if e = 0 then k else 0) < t.extent e) →
      (∀ q ∈ lanesMoved c p t (fun k e => linearIndex c is t.rank k e), elementOk q) →
      exec (.vstt l v tn is p) s = .next (stored (lanesMoved c p t fun k e => linearIndex c is t.rank k e)))
    ∧ (∀ ix, sourceReady c ix → (∀ k, on c p k = true → indexLane c ix k < (List.range t.rank).foldl (fun a e => a * t.extent e) 1) →
      (∀ q ∈ lanesMoved c p t (fun k => digit t (indexLane c ix k)), elementOk q) →
      exec (.vscat l v tn ix p) s = .next (stored (lanesMoved c p t fun k => digit t (indexLane c ix k))))

/-! ## Accesses that perform -/

/-- The reply of a load whose parts all lie in clean memory brings exactly those bytes, beside what its handle gave at issue, to its
reservation; a fill's reply brings its granule to the loads that wait for it. The access is gone, no register changes before the result lands,
and no byte of memory changes. An access that must still follow another one waits (R33, R170, R194). -/
def Sys2Proof.Claims.ReplyBringsTheBytes : Prop :=
  ∀ (s : State) (a : Acc) (c : Ctx) (home : RPiece → Nat), s.acc? a.id = some a →
    (goesOn s a → unpaired s a → s.accCtx a = some c →
      (∀ q reads nonres base ty, a.op = .load q.uid reads nonres base [] ty → q ∈ c.pend → (∀ x ∈ c.pend, x.uid = q.uid → x = q) → q.fills = [] →
        readsAt s a.who .load q.known reads home →
        ∃ t c', exec (.replyArrive a.id) s = .next t ∧ t.ctx? a.ctx = some c' ∧ registersStay s t ∧ gone t a ∧ t.mem = s.mem
          ∧ c'.pend = c.pend.map fun p =>
              if p.uid = q.uid then { p with reply := some ⟨extendLoad ty (base ||| bytesRead s reads home), nonres, none, false⟩ } else p)
      ∧ (∀ q h g r, a.op = .fill q h g [r] → readsAt s a.who .copyRead (c.pend.any fun p => p.uid = q && p.known) [r] home →
        ∃ t c', exec (.replyArrive a.id) s = .next t ∧ t.ctx? a.ctx = some c' ∧ registersStay s t ∧ gone t a ∧ t.mem = s.mem
          ∧ c'.pend = c.pend.map fun p => { p with fills := p.fills.map fun f =>
              if f.1 = a.id then (f.1, f.2.1, some (readMem s.mem (home r) r.len)) else f }))
    ∧ (s.depsDone a = false → exec (.replyArrive a.id) s = .next s)

/-- A compressed image's units (R216): the unit of a clear bit is zero, and the unit of a set bit is the next 64 packed bytes, as many units in
as there are set bits before it. -/
def Sys2Proof.Claims.CompressedImagePlacesItsUnits : Prop :=
  ∀ (map : List Bool) (data : List Byte), data.length = 64 * (map.filter id).length →
    (expandUnits map data).length = 64 * map.length
    ∧ ∀ u i, u < map.length → i < 64 → (expandUnits map data).getD (64 * u + i) 0
        = if map.getD u false then data.getD (64 * ((map.take u).filter id).length + i) 0 else 0

/-- The release horizon (R36): an effect is released once its context has passed its issue by 96 lc of program and trap time together, or once
64 ns (96 clocks) have passed; until then neither event changes anything. That the lc which the last bundle still takes are not passed yet, and
that the release comes one clock after its bound, is the model's choice (log entry 59). A release changes no context; where R85 says so it makes the
node irreversible. Stated for effects other than copies, unpaired. -/
def Sys2Proof.Claims.EffectsWaitForTheHorizon : Prop :=
  ∀ (s : State) (a : Acc), s.acc? a.id = some a → heldEffect a.op → a.released = false → s.complete a = true → unpaired s a →
    (∀ c, s.accCtx a = some c → a.comb + 97 ≤ c.comb - (c.idleTill - s.clock) → ∃ t, exec (.effectRelease a.id) s = .next t ∧ releasedState s t a)
    ∧ (∀ c, s.accCtx a = some c → c.comb - (c.idleTill - s.clock) < a.comb + 97 → exec (.effectRelease a.id) s = .next s)
    ∧ (a.clock + 97 ≤ s.clock → ∃ t, exec (.effectReleaseWall a.id) s = .next t ∧ releasedState s t a)
    ∧ (s.clock < a.clock + 97 → exec (.effectReleaseWall a.id) s = .next s)

/-- A released store performs once every access that it follows has: its bytes stand at the physical address that its translation gives, whole,
and every other byte of memory keeps its value but for the record of its node, which may become irreversible (R85, R188, R194). No register
changes. Stated for a store of one part without a version word. -/
def Sys2Proof.Claims.StoresPerform : Prop :=
  ∀ (s : State) (a : Acc) (p : WPiece) (pa : Nat), goesOn s a → unpaired s a → a.released = true → a.op = .store [p] false 0 →
    writeAt s a.who p pa → (∀ n, a.who.node = some n → pa + p.data.length ≤ n ∨ n + 8 ≤ pa) →
    ∃ t, (exec (.effectRelease a.id) s = .next t ∧ exec (.effectReleaseWall a.id) s = .next t) ∧ gone t a ∧ registersStay s t
      ∧ holds t pa p.data
      ∧ ∀ b, (b < pa ∨ pa + p.data.length ≤ b) → (∀ n, a.who.node = some n → b < n ∨ n + 8 ≤ b) → readByte t.mem b = readByte s.mem b

/-- Stores into the context's own TILE handles that an access follows, and that cannot land because the context's count of lc stands still, perform
ahead of it (R189, R194; log entry 18): the access's step, where it has one, is its step after them. Such a store puts its bytes into its handle
and writes nothing as it lands. Stated in part for one store that meets no error. -/
def Sys2Proof.Claims.StoresPerformAhead : Prop :=
  ∀ (s : State) (a : Acc) (c : Ctx), s.acc? a.id = some a → s.storesLanded a = true → s.accCtx a = some c → unpaired s a →
    let ahead (i : Instr) : Prop := exec i (s.settle a) ≠ .next (s.settle a) → exec i s = exec i (s.settle a)
    (∀ i ∈ [.replyArrive a.id, .copyExecute a.id, .bindingComplete a.id, .windowAccessAtTarget a.id, .mdltExecute a.id], ahead i)
    ∧ (a.released = true → ahead (.effectRelease a.id))
    ∧ (∀ f h off, ((c.inflight ++ c.trapEntries).filter fun x => a.after.contains x.uid) = [f] → f.act = .hbytes h off → f.torn c = false →
        c.flaws = [] → a.order < c.progNo →
        ∃ k c', (s.settle a).ctx? a.ctx = some c' ∧ storedBytes (c.handle h) k off f ∧ c'.handle h = k ∧ (∀ n, n ≠ h → c'.handle n = c.handle n)
          ∧ c'.sregs = c.sregs ∧ c'.rows = c.rows ∧ c'.masks = c.masks ∧ c'.latches = c.latches ∧ c'.pc = c.pc ∧ (s.settle a).mem = s.mem
          ∧ (∀ x ∈ c'.inflight, x.uid = f.uid → x.mask = 0) ∧ ∀ x ∈ (s.settle a).accs, f.uid ∉ x.after)

/-- A posted window store performs at the target that its handle names, inside SIZE: the target handle holds its bytes, its stream has one store
more, and it stays listed until it is acknowledged; one that its engine still holds back goes out once OUT is below LIMIT, and OUT then rises by one.
A window load brings the bytes that the target holds. No byte of memory changes (R145, R173 to R175, R199). -/
def Sys2Proof.Claims.WindowsReachTheirTarget : Prop :=
  ∀ (s : State) (a : Acc) (c tc : Ctx) (tgt : Target) (key th : Nat), goesOn s a → unpaired s a → s.accCtx a = some c →
    s.target a.grp a.who.tenant tgt = .there key th → s.ctx? key = some tc → s.twinOf tc = none →
    (∀ h off l alw fl, a.op = .winStore h tgt [(off, l)] alw fl → a.released = true → a.performed = false → a.queued = none →
      off + l.length ≤ (tc.handle th).desc.size → tc.handleTorn th off l.length = false →
      ∃ t tc', exec (.windowAccessAtTarget a.id) s = .next t ∧ t.ctx? key = some tc' ∧ writtenOver (tc.handle th) (tc'.handle th) off l
        ∧ (∀ k, k ≠ th → tc'.handle k = tc.handle k) ∧ tc'.sregs = tc.sregs ∧ tc'.rows = tc.rows ∧ tc'.masks = tc.masks ∧ tc'.latches = tc.latches
        ∧ t.acc? a.id = some { a with performed := true } ∧ t.streamCount c h (a.cls.getD 0) = s.streamCount c h (a.cls.getD 0) + 1
        ∧ t.mem = s.mem)
    ∧ (∀ h l alw fl, a.op = .winStore h tgt l alw fl → a.released = true → a.performed = false → a.queued ≠ none → a.order < c.progNo →
      (c.outOf alw < c.limitOf alw → ∃ t c', exec (.windowAccessAtTarget a.id) s = .next t ∧ t.ctx? a.ctx = some c' ∧ c'.outOf alw = c.outOf alw + 1
        ∧ (∀ k, k ≠ alw → c'.outOf k = c.outOf k) ∧ t.acc? a.id = some { a with queued := none } ∧ registersStay s t ∧ t.mem = s.mem)
      ∧ (c.limitOf alw ≤ c.outOf alw → exec (.windowAccessAtTarget a.id) s = .next s))
    ∧ (∀ q h reads, a.op = .winLoad q h tgt reads → (∀ r ∈ reads, r.2.1 + r.2.2 ≤ (tc.handle th).desc.size ∧ tc.handleBad th r.2.1 r.2.2 = false) →
      ∃ t c', exec (.windowAccessAtTarget a.id) s = .next t ∧ t.ctx? a.ctx = some c' ∧ gone t a ∧ registersStay s t ∧ t.mem = s.mem
        ∧ c'.winFault = c.winFault
        ∧ c'.pend = c.pend.map fun p => { p with fills := p.fills.map fun f =>
            if f.1 = a.id then (f.1, f.2.1, some (rowBytes (rowOf (reads.map fun r => (r.1, tc.handleBytes th r.2.1 r.2.2))))) else f })

/-- The acknowledgement of a stream's posted stores, once all have performed and the last one is an FL store (R199): they leave the list, and the
OUT count of each allowance falls by the number of its stores (R145). No register and no byte of memory changes. -/
def Sys2Proof.Claims.AcknowledgementsReturnTheAllowance : Prop :=
  ∀ (s : State) (key h cls : Nat) (c : Ctx) (l : List Acc) (z : Acc), s.ctx? key = some c → (s.ctxAccs key c).filter (Acc.inStream key h cls) = l ++ [z] →
    (∀ x ∈ l ++ [z], x.performed = true ∧ x.queued = none ∧ s.complete x = true ∧ unpaired s x ∧ x.order < c.progNo) → (∃ h' t b alw, z.op = .winStore h' t b alw true) →
    ∃ t c', exec (.windowStoreAck key h cls) s = .next t ∧ t.ctx? key = some c' ∧ (∀ x ∈ l ++ [z], gone t x) ∧ registersStay s t ∧ t.mem = s.mem
      ∧ ∀ k, c'.outOf k = c.outOf k - ((l ++ [z]).filter fun x => match x.op with
          | .winStore _ _ _ alw _ => alw = k
          | _ => false).length

/-! ## The copy engine -/

/-- CP FORM 00 and CPW complete, between every two sides that R324, R326 and R329 accept, when the fields of e0 to e7 are in range, the objects
are BOUND and allotted, the addresses canonical and aligned, each side lies in its object, and no SHMAP of the context is outstanding where a side is
bound to the Mantle: the copy is listed with both sides as they stand at issue, and gives its token. No register and no byte of memory changes. -/
def Sys2Proof.Claims.CopiesIssue : Prop :=
  ∀ (s : State) (key : Nat) (c : Ctx) (give oc : Nat) (after : After), Issues s key c → tokensAllotted c give after → kindsOk c → moveFields c →
    copyForm c = 0 → ¬ (srcKind c = 2 ∧ dstKind c = 2) → mapsSettled s key c c.cpTensors →
    (sideReady s c (srcKind c) (srcIndex c) ((c.readE 1).extractLsb' 0 32).toNat (fun _ => True) →
      sideReady s c (dstKind c) (dstIndex c) ((c.readE 2).extractLsb' 0 32).toNat (· = .tile) →
      (c.readE 7 ≠ 0 → dstKind c ≠ 1 ∧ (dstKind c = 2 → (c.tensor (dstIndex c)).desc.handle = none)) →
      ∃ extra, objectDeps s key c extra ∧ exec (.cp give after oc) s = .next (commanded s key c (some oc) give after extra
        (.copy (sideOf s key c (srcKind c) (srcIndex c) (c.readE 1)) (sideOf s key c (dstKind c) (dstIndex c) (c.readE 2)) (c.stage 0 7) false false 0 0)))
    ∧ (dstKind c = 1 → sideReady s c (srcKind c) (srcIndex c) ((c.readE 1).extractLsb' 0 32).toNat (· = .tile) →
      sideReady s c (dstKind c) (dstIndex c) ((c.readE 2).extractLsb' 0 32).toNat (· ≠ .tile) →
      ∃ extra, objectDeps s key c extra ∧ exec (.cpw give after oc) s = .next (commanded s key c (some oc) give after extra
        (.copy (sideOf s key c (srcKind c) (srcIndex c) (c.readE 1)) (sideOf s key c (dstKind c) (dstIndex c) (c.readE 2)) (c.stage 0 7) false true 0 0)))

/-- CPWB and CPFILL complete on a BOUND TILE handle: CPWB with every other staging register zero; CPFILL on a backed one, for whole granules
inside SIZE. The command is listed and gives its token (R328, R330). -/
def Sys2Proof.Claims.HandleCommandsIssue : Prop :=
  ∀ (s : State) (key : Nat) (c : Ctx) (give oc : Nat) (after : After), Issues s key c → tokensAllotted c give after → kindsOk c →
    copyForm c = 0 → srcKind c = 0 → dstKind c = 1 → handleReady c (dstIndex c) → (c.handle (dstIndex c)).desc.level = .tile →
    ((∀ n, 1 ≤ n → n ≤ 7 → c.readE n = 0) →
      ∃ extra, objectDeps s key c extra ∧ exec (.cpwb give after oc) s
        = .next (commanded s key c (some oc) give after extra (.writeBack (dstIndex c) .command)))
    ∧ ((c.handle (dstIndex c)).desc.bmode ≠ 0 → (∀ n ∈ [1, 4, 5, 6, 7], c.readE n = 0) → (c.readE 2).extractLsb' 32 32 = 0 →
      (c.readE 3).extractLsb' 40 24 = 0 → copyLen c ≠ 0 → copyLen c % 4096 = 0 → (c.readE 2).toNat % 4096 = 0 →
      (c.readE 2).toNat + copyLen c ≤ (c.handle (dstIndex c)).desc.size →
      ∃ extra, objectDeps s key c extra ∧ exec (.cpfill give after oc) s
        = .next (commanded s key c (some oc) give after extra (.cpfill (dstIndex c) (c.readE 2).toNat (copyLen c) false)))

/-- CP FORM 01 and FORM 10, under either name, complete with a descriptor address that is canonical and a multiple of 64: the object is PENDING at
once and its binding is listed, after every outstanding access that uses the object; where the old binding writes back, or is itself still PENDING,
its write-back is listed before it and the binding follows that (R161, R166, R172, R327; that the write-back of a binding still PENDING is listed
without a class is the model's reading, log entry 54). -/
def Sys2Proof.Claims.BindingsIssue : Prop :=
  ∀ (s : State) (key : Nat) (c : Ctx) (give oc : Nat) (after : After), Issues s key c → tokensAllotted c give after → kindsOk c → srcKind c = 0 →
    staged (c.readE 1) 64 → (∀ n, 2 ≤ n → n ≤ 7 → c.readE n = 0) →
    (copyForm c = 1 → dstKind c = 1 → dstIndex c < c.pk.handles →
      exec (.cp give after oc) s = exec (.cpBindHandle give after oc) s
      ∧ (¬ writesBack c (dstIndex c) → (c.handle (dstIndex c)).st ≠ .pending →
        exec (.cpBindHandle give after oc) s = .next (commanded (withCtx s key (handlePending c (dstIndex c))) key (handlePending c (dstIndex c))
          (some oc) give after (s.usersOf key c (AccOp.usesHandle (dstIndex c))) (.bindHandle (dstIndex c) (c.readE 1))))
      ∧ (writesBack c (dstIndex c) ∨ (c.handle (dstIndex c)).st = .pending →
        ∃ t c' w b, exec (.cpBindHandle give after oc) s = .next t ∧ t.ctx? key = some c' ∧ t.accs = s.accs ++ [w, b]
        ∧ w.op = .writeBack (dstIndex c) .retire
        ∧ w.cls = (if (c.handle (dstIndex c)).st = .pending then none else some (c.handle (dstIndex c)).desc.cls) ∧ b.op = .bindHandle (dstIndex c) (c.readE 1)
        ∧ w.id ∈ b.deps ∧ (c'.handle (dstIndex c)).st = .pending ∧ c'.sregs = c.sregs ∧ c'.rows = c.rows ∧ c'.masks = c.masks
        ∧ (c'.token give).pending = true ∧ t.mem = s.mem))
    ∧ (copyForm c = 2 → dstKind c = 2 → dstIndex c < c.pk.tns →
      exec (.cp give after oc) s = exec (.cpBindTensor give after oc) s
      ∧ exec (.cpBindTensor give after oc) s = .next (commanded (withCtx s key (tensorPending c (dstIndex c))) key (tensorPending c (dstIndex c))
          (some oc) give after (s.usersOf key c (AccOp.usesTensor (dstIndex c))) (.bindTensor (dstIndex c) (c.readE 1))))

/-- The order of a copy command's first checks (R323): a reserved bit, a code of 11, or a field that is set and that the command does not use is a
reserved-field trap; then a token, a handle or an identifier beyond its allotment is an allotment overflow, before anything else is looked at; the
instruction has no effect. -/
def Sys2Proof.Claims.CopyChecksComeInOrder : Prop :=
  ∀ (s : State) (key : Nat) (c : Ctx) (give oc : Nat) (after : After) (i : Instr), Issues s key c →
    i ∈ [.cp give after oc, .cpw give after oc, .cpwb give after oc, .cpfill give after oc] →
    let overflows (detail : Nat) : Prop := exec i s = .next (s.raiseOwn key ⟨0x03, detail, .ce, 0⟩ 0 0)
    let beyond (kind index : Nat) : Prop := kind = 1 ∧ c.pk.handles ≤ index ∨ kind = 2 ∧ c.pk.tns ≤ index
    (¬ clearFields c i → exec i s = .next (s.raiseOwn key ⟨0x0D, 0, .ce, 0⟩ 0 0))
    ∧ (clearFields c i → ¬ tokensAllotted c give after → overflows 4)
    ∧ (clearFields c i → tokensAllotted c give after →
      (beyond (srcKind c) (srcIndex c) → overflows (if srcKind c = 1 then 2 else 3))
      ∧ (¬ beyond (srcKind c) (srcIndex c) → beyond (dstKind c) (dstIndex c) → overflows (if dstKind c = 1 then 2 else 3)))

/-- A handle's descriptor binds it (R166 to R168): once nothing that it follows is outstanding, a descriptor that parses makes the handle BOUND with
every byte zero, unfilled, unwritten and clean, a TILE one at the first free run of units; one that does not parse makes it BAD. The binding's
token is produced and no byte of memory changes. A CPWB that waits for the binding is a copy engine error where the handle proves to be a window, or
BAD (R323, R330). Stated for a descriptor in clean physical memory, unexported, with no later binding. -/
def Sys2Proof.Claims.HandleBindingCompletes : Prop :=
  ∀ (s : State) (a : Acc) (c : Ctx) (h pa : Nat) (va : Word), goesOn s a → unpaired s a → s.accCtx a = some c → a.op = .bindHandle h va →
    copyReads s a.who va.toInt 64 pa → lastBinding s a (fun o => match o with | .bindHandle k _ => k = h | _ => false) → a.order < c.progNo →
    (∀ d, parseHandle (c.retireHandle h) (keyDie a.ctx) (descriptorWord s pa) = some d → d.level ≠ .tile →
      ∃ t c', exec (.bindingComplete a.id) s = .next t ∧ t.ctx? a.ctx = some c' ∧ gone t a ∧ tokenProduced a c c' ∧ t.mem = s.mem
        ∧ c'.handle h = { Handle.empty with st := .bound, desc := d } ∧ (∀ k, k ≠ h → c'.handle k = c.handle k) ∧ c'.sregs = c.sregs ∧ c'.rows = c.rows
        ∧ ∀ x ∈ s.waitingBacks a h, x.order < c.progNo → gone t x ∧ ⟨some .win, x.order, ⟨0x13, 1, .ce, 0⟩⟩ ∈ c'.drainFaults)
    ∧ (∀ d u, parseHandle (c.retireHandle h) (keyDie a.ctx) (descriptorWord s pa) = some d → d.level = .tile → d.exp = false →
      (c.retireHandle h).firstFit ((d.size + 4095) / 4096) = some u →
      ∃ t c', exec (.bindingComplete a.id) s = .next t ∧ t.ctx? a.ctx = some c' ∧ gone t a ∧ tokenProduced a c c' ∧ t.mem = s.mem
        ∧ c'.handle h = { Handle.empty with st := .bound, desc := d, unit := u } ∧ (∀ k, k ≠ h → c'.handle k = c.handle k)
        ∧ c'.sregs = c.sregs ∧ c'.rows = c.rows)
    ∧ (parseHandle (c.retireHandle h) (keyDie a.ctx) (descriptorWord s pa) = none →
      ∃ t c', exec (.bindingComplete a.id) s = .next t ∧ t.ctx? a.ctx = some c' ∧ gone t a ∧ tokenProduced a c c' ∧ t.mem = s.mem
        ∧ (c'.handle h).st = .bad
        ∧ ∀ x ∈ s.waitingBacks a h, x.order < c.progNo → gone t x ∧ ⟨none, x.order, ⟨0x13, 1, .ce, 0⟩⟩ ∈ c'.drainFaults)

/-- A handle descriptor is accepted exactly when it is well formed (R167), and then says, field by field, what its words hold. -/
def Sys2Proof.Claims.HandleDescriptorFields : Prop :=
  ∀ (c : Ctx) (die : Nat) (w : Nat → Word), ((parseHandle c die w).isSome = true ↔ handleWhole c die w) ∧ ∀ (d : HDesc), parseHandle c die w = some d →
    d.size = ((w 0).extractLsb' 0 32).toNat ∧ d.key = ((w 0).extractLsb' 32 20).toNat ∧ d.cls = ((w 0).extractLsb' 52 4).toNat
    ∧ d.exp = (w 0).getLsbD 56 ∧ d.alw = ((w 0).extractLsb' 57 3).toNat ∧ d.bmode = ((w 0).extractLsb' 60 2).toNat
    ∧ (match d.level with | .tile => 0 | .win => 1 | .xwin => 2) = ((w 0).extractLsb' 62 2).toNat
    ∧ d.back = w 1 ∧ d.kf = (w 2).getLsbD 63 ∧ d.peern = ((w 2).extractLsb' 16 8).toNat ∧ d.tdie = ((w 2).extractLsb' 14 2).toNat
    ∧ d.tdx = ((w 2).extractLsb' 11 3).toNat ∧ d.tdy = ((w 2).extractLsb' 8 3).toNat ∧ d.thandle = ((w 2).extractLsb' 0 8).toNat
    ∧ 64 ≤ d.size ∧ d.size % 64 = 0 ∧ d.size ≤ 3 * 2 ^ 20 ∧ d.bmode ≤ 2 ∧ (∀ i, 3 ≤ i → i ≤ 7 → w i = 0)
    ∧ (d.bmode = 0 → d.cls = 0 ∧ d.back = 0) ∧ (d.bmode ≠ 0 → d.level = .tile ∧ d.back.toNat % 4096 = 0 ∧ validAddress d.back.toInt)
    ∧ (d.level = .tile → w 2 = 0) ∧ (d.level ≠ .tile → d.exp = false) ∧ (d.level = .xwin → d.kf = true)

/-- A tensor descriptor binds its identifier (R160, R161): one that parses makes it BOUND with the fields of the descriptor, one that does not BAD.
The binding's token is produced and no byte of memory changes. Stated for a descriptor in clean physical memory and with no later binding. -/
def Sys2Proof.Claims.TensorBindingCompletes : Prop :=
  ∀ (s : State) (a : Acc) (c : Ctx) (n pa : Nat) (va : Word), goesOn s a → unpaired s a → s.accCtx a = some c → a.op = .bindTensor n va →
    copyReads s a.who va.toInt 128 pa → lastBinding s a (fun o => match o with | .bindTensor k _ => k = n | _ => false) → a.order < c.progNo →
    ∃ t c', exec (.bindingComplete a.id) s = .next t ∧ t.ctx? a.ctx = some c' ∧ gone t a ∧ tokenProduced a c c' ∧ t.mem = s.mem
      ∧ c'.tensor n = (match parseTensor c (descriptorWord s pa) with | some d => ⟨.bound, d⟩ | none => ⟨.bad, .empty⟩)
      ∧ (∀ k, k ≠ n → c'.tensor k = c.tensor k) ∧ c'.handles = c.handles ∧ c'.sregs = c.sregs ∧ c'.rows = c.rows

/-- A tensor descriptor is accepted exactly when it is well formed (R160, R161, R252), and then says, field by field, what its words hold. -/
def Sys2Proof.Claims.TensorDescriptorFields : Prop :=
  ∀ (c : Ctx) (w : Nat → Word), ((parseTensor c w).isSome = true ↔ tensorWhole c w) ∧ ∀ (d : TDesc), parseTensor c w = some d →
    Ty.ofCode ((w 0).extractLsb' 60 4).toNat = some d.fmt ∧ d.rank = ((w 0).extractLsb' 57 3).toNat ∧ d.mb = (w 0).getLsbD 56
    ∧ d.ment = ((w 0).extractLsb' 44 12).toNat ∧ d.gap = ((w 0).extractLsb' 41 3).toNat ∧ d.linear = (w 0).getLsbD 40
    ∧ d.handle = (if (w 0).extractLsb' 38 2 = 1 then some ((w 1).extractLsb' 32 8).toNat else none)
    ∧ d.base = (if (w 0).extractLsb' 38 2 = 1 then ((w 1).extractLsb' 0 32).toNat else ((w 1).extractLsb' 0 56).toNat)
    ∧ d.sbase = ((w 2).extractLsb' 0 56).toNat ∧ d.veraddr = ((w 3).extractLsb' 0 56).toNat
    ∧ (∀ k < 6, d.x.getD k 0 = ((w (4 + k / 2)).extractLsb' (32 * (k % 2)) 32).toNat ∧ d.str.getD k 0 = (w (8 + k)).toInt)
    ∧ 1 ≤ d.rank ∧ d.rank ≤ 6 ∧ (∀ k < d.rank, d.x.getD k 0 ≠ 0) ∧ (∀ k, d.rank ≤ k → k < 6 → d.x.getD k 0 = 0 ∧ d.str.getD k 0 = 0)
    ∧ (d.mb = true → d.handle = none) ∧ (d.fmt.isTxb = false → d.gap = 0 ∧ d.linear = false ∧ w 2 = 0) ∧ w 7 = 0 ∧ w 14 = 0 ∧ w 15 = 0

/-- A copy between two runs of virtual memory moves 64 bytes a unit (R197, R325): the destination holds the source's bytes, every other byte of memory
keeps its value but for its node's record, and the copy stands at the next unit. When no unit is left and nothing that it sent is outstanding it ends
and its token is produced. Stated for a copy that is released and posts no counter arrivals. -/
def Sys2Proof.Claims.CopiesMoveUnits : Prop :=
  ∀ (s : State) (a : Acc) (c : Ctx) (from_ dest : Int) (e : Tab Word) (cpw : Bool) (u ps pd : Nat), goesOn s a → unpaired s a → s.accCtx a = some c →
    a.op = copyAt (.virt from_) (.virt dest) e cpw u 0 → a.released = true → e.read 0 7 = 0 →
    (64 * u < ((e.read 0 3).extractLsb' 0 40).toNat → copyReads s a.who (from_ + 64 * u) 64 ps →
      writeAt s a.who ⟨dest + 64 * u, none, readMem s.mem ps 64⟩ pd → (∀ n, a.who.node = some n → pd + 64 ≤ n ∨ n + 8 ≤ pd) →
      ∃ t, exec (.copyExecute a.id) s = .next t ∧ holds t pd (readMem s.mem ps 64) ∧ registersStay s t
        ∧ t.acc? a.id = some { a with op := copyAt (.virt from_) (.virt dest) e cpw (u + 1) 0 }
        ∧ ∀ b, (b < pd ∨ pd + 64 ≤ b) → (∀ n, a.who.node = some n → b < n ∨ n + 8 ≤ b) → readByte t.mem b = readByte s.mem b)
    ∧ (((e.read 0 3).extractLsb' 0 40).toNat ≤ 64 * u → s.sending a.id = false → a.order < c.progNo →
      ∃ t c', exec (.copyExecute a.id) s = .next t ∧ t.ctx? a.ctx = some c' ∧ gone t a ∧ tokenProduced a c c' ∧ t.mem = s.mem ∧ registersStay s t)

/-- CPFILL of one granule reads it from the handle's backing and holds it ahead for the handle (R328): nothing else of the handle changes, and no
byte of memory. -/
def Sys2Proof.Claims.FillsReadTheBacking : Prop :=
  ∀ (s : State) (a : Acc) (c : Ctx) (h off pa : Nat), goesOn s a → unpaired s a → s.accCtx a = some c → a.op = .cpfill h off 4096 false →
    a.order < c.progNo → copyReads s a.who ((c.handle h).desc.back.toInt + off) 4096 pa →
    ∃ t c', exec (.copyExecute a.id) s = .next t ∧ t.ctx? a.ctx = some c' ∧ gone t a ∧ tokenProduced a c c' ∧ t.mem = s.mem
      ∧ c'.handle h = { c.handle h with ahead := (c.handle h).ahead ++ [(off / 4096, readMem s.mem pa 4096)] }
      ∧ (∀ k, k ≠ h → c'.handle k = c.handle k) ∧ c'.sregs = c.sregs ∧ c'.rows = c.rows

/-! ## The synchronisation slot -/

/-- ATOM, RED and ARRIVE complete in the forms of the list of types at an address that is canonical, aligned and translates: the operation is listed
after the context's earlier operations on the word, ATOM and RED in their class, with their operands as they stand at issue; an ATOM with a
destination takes a reservation due by LSEL; ARRIVE.REL follows every earlier access of its classes. No register and no byte of memory changes before
the operation performs (R193, R208, R314 to R317, R363). Which reservations are free is the model's choice (log entry 60). -/
def Sys2Proof.Claims.BuckleOperationsIssue : Prop :=
  ∀ (s : State) (key : Nat) (c : Ctx), Issues s key c →
    let s1 := translated s key c (c.readE 40)
    (∀ op oc lsel ty, atomOk op ty = true → reachable s key c .atomic (c.readE 40) (wordSize ty) → fencesPass s c oc →
      exec (.atom op oc lsel 0 ty) s = .next (listed s1 key c (some oc) (wordOrder s key c (some oc) (c.readE 40)) (c.fenceDeps (some oc))
        (.atom op ty (c.readE 40) (c.readE 41) (c.readE 42) none))
      ∧ ∀ rd, rd ≠ 0 → reservationFree c →
        let c1 := { c with pend := c.pend ++ [atomPending s c lsel rd] }
        exec (.atom op oc lsel rd ty) s = .next (listed { withCtx s1 key c1 with nextId := s.nextId + 1 } key c1 (some oc)
          (wordOrder s key c (some oc) (c.readE 40)) (c.fenceDeps (some oc)) (.atom op ty (c.readE 40) (c.readE 41) (c.readE 42) (some s.nextId))))
    ∧ (∀ op oc ty, redOk op ty = true → reachable s key c .sync (c.readE 40) (wordSize ty) → fencesPass s c oc →
      (c.readE 42).extractLsb' 32 32 ≠ 0 → (c.readE 42).extractLsb' 0 32 < (c.readE 42).extractLsb' 32 32 →
      exec (.red op oc ty) s = .next (listed s1 key c (some oc) (wordOrder s key c (some oc) (c.readE 40)) (c.fenceDeps (some oc))
        (.red op ty (c.readE 40) (c.readE 41) ((c.readE 42).extractLsb' 32 32).toNat ((c.readE 42).extractLsb' 0 32).toNat)))
    ∧ (∀ (rel : Bool) (classes : BitVec 16), (rel = true → classes ≠ 0) → reachable s key c .sync (c.readE 40) 8 →
      exec (.arrive rel classes) s = .next (listed s1 key c none (wordOrder s key c none (c.readE 40))
        (if rel then s.maskDeps key c classes else []) (.arrive (c.readE 40))))

/-- PAGEREQ, LAUNCH and SIGNAL complete at both levels when their staging registers hold what their rules ask: the request is listed, after every
earlier write of the context, PAGEREQ in class oc0 too (R337, R338, R360, R369). -/
def Sys2Proof.Claims.RequestsIssue : Prop :=
  ∀ (s : State) (key : Nat) (c : Ctx), Issues s key c →
    ((c.readE 41).extractLsb' 40 24 = 0 → (c.readE 41).extractLsb' 24 8 = 0 → (c.readE 41).extractLsb' 0 24 ≠ 0 → staged (c.readE 40) 0x8000 →
      reachable s key c .store (c.readE 42) 32 →
      exec .pagereq s = .next (listed (translated s key c (c.readE 42)) key c (some 0) (s.writeDeps key c ++ s.classDeps key c (some 0))
        (c.fenceDeps (some 0)) (.pagereq (c.readE 40) (((c.readE 41).extractLsb' 0 24).setWidth 64) (c.readE 43) (c.readE 42) ((c.readE 41).extractLsb' 32 8).toNat)))
    ∧ ((c.readE 40).extractLsb' 14 50 = 0 →
      exec .launch s = .next (listed s key c none (s.writeDeps key c) []
        (.launch (c.readE 40).toNat [c.readE 41, c.readE 42, c.readE 43, c.readE 44])))
    ∧ (∀ v, exec (.signal v) s = .next (listed s key c none (s.writeDeps key c) [] (.signal v)))

/-- In trap time SHOOT, SHMAP and LNCTL complete when their staging registers hold what their rules ask: SHOOT is listed after every earlier write
of the context, SHMAP after every earlier access that has a class and every fence in force, LNCTL after the context's earlier Lining commands
(R243, R251, R367, R368). -/
def Obligations.SystemRequestsIssue : Prop :=
  ∀ (s : State) (key : Nat) (c : Ctx), Issues s key c → c.tm = true →
    (∀ k, (k = .page → validAddress (c.readE 40).toInt) →
      (k = .range → (c.readE 41).extractLsb' 24 40 = 0 ∧ (c.readE 41).extractLsb' 0 24 ≠ 0 ∧ staged (c.readE 40) 0x8000) →
      exec (.shoot k) s = .next (listed s key c none (s.writeDeps key c) [] (.shoot k (c.readE 40) (c.readE 41))))
    ∧ ((c.readE 41).extractLsb' 12 52 = 0 →
      exec .shmap s = .next (listed s key c none (shmapOrder s key c) (c.fences.flatMap (·.before)) (.shmap (c.readE 41).toNat (c.readE 40))))
    ∧ (∀ lent < c.pk.lining, exec (.lnctlInval lent) s
        = .next (listed s key c none (s.liningDeps key c) (c.fenceDeps none) (.lnctl 0 lent (c.readE 40))))
    ∧ exec .lnctlInvalall s = .next (listed s key c none (s.liningDeps key c) (c.fenceDeps none) (.lnctl 1 0 (c.readE 40)))
    ∧ (∀ lent < c.pk.lining, (c.readE 40).extractLsb' 48 16 = 0 → (c.readE 40).extractLsb' 16 16 = 0 → (c.readE 40).extractLsb' 32 16 ≠ 0 →
      exec (.lnctlSetref lent) s = .next (listed s key c none (s.liningDeps key c) (c.fenceDeps none) (.lnctl 2 lent (c.readE 40))))

/-- MDLT completes when the lease is the context's to use, its slot and tokens are allotted, its reserved bits zero, and its weights, input and output
are BOUND with the shapes and formats that R234 asks, the elements of one that a handle backs within it: the command is listed with the three tensors
and e16 to e21 as they stand at issue, after every earlier Lining command of the context, gives its token, and counts under the lease (R233, R234,
R241). -/
def Obligations.LiningCommandsIssue : Prop :=
  ∀ (s : State) (key : Nat) (c : Ctx) (lent tw give : Nat) (after : After), Issues s key c → s.leaseReady key c = true → liningReserved c →
    lent < c.pk.lining → tokensAllotted c give after → tensorReady s c tw → tensorReady s c (inputTn c) → tensorReady s c (outputTn c) →
    liningShapes c (c.tensor tw).desc (c.tensor (inputTn c)).desc (c.tensor (outputTn c)).desc → mapsSettled s key c [tw, inputTn c, outputTn c] →
    (∀ tn ∈ [tw, inputTn c, outputTn c], ∀ h, (c.tensor tn).desc.handle = some h →
      (c.tensor tn).desc.groupsFault (c.handle h).desc.size (c.tensor tn).desc.allGroups = none) →
    ∃ extra, (∀ n ∈ extra, ∃ a ∈ s.ctxAccs key c, a.id = n) ∧ (∀ n ∈ s.liningDeps key c, n ∈ extra)
      ∧ exec (.mdlt lent tw give after) s = .next ((commanded s key c (some (liningClass c)) give after extra
          (.mdlt lent (tensorOf s c tw) (tensorOf s c (inputTn c)) (tensorOf s c (outputTn c)) (c.stage 16 21))).leaseCount key)

/-- WAITPH and WAITCNT complete when their word is reachable and its condition holds after the context's own earlier operations on it, or has held
since the context went BLOCKED; nothing but that memory of it changes. While the condition does not hold the context is BLOCKED, and every register
keeps its value (R193, R205, R206, R406, R407). The word's decoder is met by the wait that reads it. A pair's leader reads the word for both twins, so
that its follower's waits complete: the model's reading (log entries 11 and 32). -/
def Sys2Proof.Claims.WaitsComplete : Prop :=
  ∀ (s : State) (key : Nat) (c : Ctx) (acq : Bool) (classes : BitVec 16) (w : Word), Issues s key c → reachable s key c .waitRead (c.readE 40) 8 →
    waitWord (s.seen c) key c w → (acq = true → classes ≠ 0) →
    let ended := c.waitDone = true ∨ (s.leaderOf c).isSome
    let settled := s.wordReady key c (c.readE 40) = true
    let completed (t : State) : State := withCtx t key { c with waitDone := false }
    ((c.readE 41).extractLsb' 32 32 = 0 →
      (ended → exec (.waitph acq classes) s = .next (completed s))
      ∧ (¬ ended → settled → phaseReached (c.readE 41) w = true → exec (.waitph acq classes) s = .next (completed (s.meetWait key c)))
      ∧ (¬ ended → ¬ (settled ∧ phaseReached (c.readE 41) w = true) → ∃ t c', exec (.waitph acq classes) s = .next t ∧ t.ctx? key = some c'
          ∧ c'.status = .blocked ∧ sameRegisters c c' ∧ c'.pc = c.pc))
    ∧ (ended → exec (.waitcnt acq classes) s = .next (completed s))
    ∧ (¬ ended → settled → c.readE 41 ≤ w → exec (.waitcnt acq classes) s = .next (completed (s.meetWait key c)))
    ∧ (¬ ended → ¬ (settled ∧ c.readE 41 ≤ w) → ∃ t c', exec (.waitcnt acq classes) s = .next t ∧ t.ctx? key = some c'
          ∧ c'.status = .blocked ∧ sameRegisters c c' ∧ c'.pc = c.pc)

/-- FENCE never stalls: the accesses of its classes that are outstanding come before the later ones of those classes, and nothing else changes.
DRAIN completes when nothing that it covers is outstanding, or nothing was when the context was BLOCKED, and no fault waits on its path; DRAIN.TILE
makes visible what CPFILL has read ahead. While something is outstanding the context is BLOCKED (R196, R198, R332, R334). That every scope of a FENCE
acts alike is the model's reading (log entry 20). -/
def Sys2Proof.Claims.FenceAndDrainComplete : Prop :=
  ∀ (s : State) (key : Nat) (c : Ctx), Issues s key c →
    (∀ (scope : _) (classes : BitVec 16), classes ≠ 0 → exec (.fence scope classes) s = .next (withCtx s key { c with
        fences := (c.fences.filter fun f => f.before.any s.outstanding) ++
          if s.maskDeps key c classes = [] then [] else [⟨c.progNo, classes, s.maskDeps key c classes⟩] }))
    ∧ (∀ p, (c.waitDone = true ∨ ∀ a ∈ s.ctxAccs key c, (s.seen c).accReaches p a = false) → c.report p = none →
      exec (.drain p) s = .next (withCtx s key { (if p = .tile then c.takeAhead else c) with waitDone := false }))
    ∧ (∀ p a, c.waitDone = false → a ∈ s.ctxAccs key c → (s.seen c).accReaches p a = true →
      ∃ t c', exec (.drain p) s = .next t ∧ t.ctx? key = some c' ∧ c'.status = .blocked ∧ sameRegisters c c' ∧ c'.pc = c.pc)

/-- The events that end a wait: a BLOCKED context whose bundle holds a WAITPH or WAITCNT becomes READY when the word's condition holds after the
context's own earlier operations on it, and one whose bundle holds a DRAIN when nothing that it covers is outstanding; until then the event changes
nothing (R47, R193, R198, R205, R206). -/
def Sys2Proof.Claims.WaitEventsComplete : Prop :=
  ∀ (s : State) (key : Nat) (c : Ctx), s.ctx? key = some c → c.status = .blocked → c.waitDone = false →
    (∀ w, waitWord s key c w →
      ((∃ acq m, .waitph acq m ∈ s.bundleInstrs key c) →
        exec (.phaseWaitComplete key) s = .next (if s.wordReady key c (c.readE 40) = true ∧ phaseReached (c.readE 41) w = true then withCtx (s.meetWait key c) key (waitOver c) else s))
      ∧ ((∃ acq m, .waitcnt acq m ∈ s.bundleInstrs key c) →
        exec (.counterWaitComplete key) s = .next (if s.wordReady key c (c.readE 40) = true ∧ c.readE 41 ≤ w then withCtx (s.meetWait key c) key (waitOver c) else s)))
    ∧ (∀ p, .drain p ∈ s.bundleInstrs key c → (∀ q, .drain q ∈ s.bundleInstrs key c → q = p) →
      ((∀ a ∈ s.ctxAccs key c, s.accReaches p a = false) → exec (.drainComplete key) s = .next (withCtx s key (waitOver c)))
      ∧ (∀ a ∈ s.ctxAccs key c, s.accReaches p a = true → exec (.drainComplete key) s = .next s))

/-! ## Operations at their Buckle -/

/-- An ATOM performs at the home of its word in one step: the word becomes the new value of R203 and the old value is the reply, sign-extended for
I32. Where the page is under migration the operation joins its die's queue and memory is unchanged (R203, R258). No register changes before the
reply lands, and no other byte of memory. -/
def Sys2Proof.Claims.AtomicsPerformAtHome : Prop :=
  ∀ (s : State) (a : Acc) (c : Ctx) (op : AOp) (ty : AType) (va x cmp : Word) (pend : Option Nat) (pa : Nat), atHome s a → s.accCtx a = some c →
    a.op = .atom op ty va x cmp pend →
    (wordAt s a .atomic va (wordSize ty) pa →
      let n := wordSize ty
      let old := numberAt s pa n
      ∃ t c', exec (.atomicApply a.id) s = .next t ∧ t.ctx? a.ctx = some c' ∧ gone t a ∧ registersStay s t
        ∧ wordWritten s t pa n (atomValueOf op ty old (x.toNat % 2 ^ (8 * n)) (cmp.toNat % 2 ^ (8 * n)) % 2 ^ (8 * n))
        ∧ c'.pend = c.pend.map fun p =>
            if pend = some p.uid then { p with reply := some ⟨(atomDelivers ty old).setWidth 4096, 0, none, false⟩ } else p)
    ∧ (s.locateWord a.who .atomic va (wordSize ty) = .held → ∃ t, exec (.atomicApply a.id) s = .next t ∧ queuedAtHome s t a)

/-- A RED contribution at the home of its word (R204): the next one in index order is applied at once, the session going on or, after the last one,
ending; a later one is held there, has not performed, and memory keeps its value; one that is out of date, or of another count, poisons the word and
ends the session. -/
def Sys2Proof.Claims.ContributionsApplyInOrder : Prop :=
  ∀ (s : State) (a : Acc) (op : AOp) (ty : AType) (va x : Word) (n i pa : Nat), atHome s a → a.op = .red op ty va x n i →
    wordAt s a .sync va (wordSize ty) pa →
    let z := sessionFor s a pa va n
    let b := wordSize ty
    (z.n = n → i = z.next → z.held = [] →
      ∃ t, exec (.reductionContribution a.id) s = .next t ∧ gone t a ∧ registersStay s t
        ∧ wordWritten s t pa b (atomValueOf op ty (numberAt s pa b) (x.toNat % 2 ^ (8 * b)) 0 % 2 ^ (8 * b))
        ∧ sessionAt t pa = if i + 1 = n then none else some { z with next := i + 1 })
    ∧ (z.n = n → z.next < i → z.held.find i = none → z.held.find z.next = none → s.contributions (.phys pa) < 8192 →
      ∃ t, exec (.reductionContribution a.id) s = .next t ∧ t.acc? a.id = some { a with posted := true, entry := none } ∧ registersStay s t
        ∧ (∀ k, readByte t.mem k = readByte s.mem k)
        ∧ (z.next ≠ n → sessionAt t pa = some { z with held := z.held.insert i (x, op, ty, some a.id) }))
    ∧ (z.n ≠ n ∨ i < z.next ∨ (z.held.find i).isSome →
      ∃ t, exec (.reductionContribution a.id) s = .next t ∧ gone t a ∧ registersStay s t ∧ t.mem = s.mem ∧ sessionAt t pa = none
        ∧ t.locPoisoned (.phys pa) b = true)

/-- Arrivals perform at the home of their word (R200, R205): a phase word counts one arrival, and the arrival that meets EXPECT (65536 for zero)
clears the count and moves the phase on; a counter rises by the bytes of its unit modulo 2^64. No other byte of memory and no register changes. -/
def Sys2Proof.Claims.ArrivalsCount : Prop :=
  ∀ (s : State) (a : Acc) (va : Word) (pa : Nat), atHome s a → wordAt s a .sync va 8 pa →
    (a.op = .arrive va →
      ∃ t, exec (.phaseArrival a.id) s = .next t ∧ gone t a ∧ registersStay s t ∧ t.read64 pa = arrived (s.read64 pa) ∧ memoryOutside s t pa 8)
    ∧ (∀ n path, a.op = .count va n path →
      ∃ t, exec (.counterArrival a.id) s = .next t ∧ gone t a ∧ registersStay s t ∧ t.read64 pa = s.read64 pa + BitVec.ofNat 64 n
        ∧ memoryOutside s t pa 8)

/-- Requests perform once they are released and everything that they follow has (R90, R297, R361, R369). SIGNAL sets its bit of SPEND in every
function of the tenant, and of no other; PAGEREQ writes its record of four words and sets its vector's bit; LAUNCH, last in its clock, appends its entry at
TAIL of an enabled queue of the tenant that has room while its node has not been torn down, and TAIL rises by one. -/
def Sys2Proof.Claims.RequestsPerform : Prop :=
  ∀ (s : State) (a : Acc), goesOn s a → unpaired s a → a.released = true →
    (∀ v, v < 256 → a.op = .signal v →
      ∃ t, exec (.signalDeliver a.id) s = .next t ∧ gone t a ∧ signalled s t a.who.tenant v ∧ t.mem = s.mem ∧ registersStay s t)
    ∧ (∀ va count cookie rec node vec pa, vec < 256 → a.op = .pagereq va count cookie rec vec → a.who.node = some node → node < 2 ^ 64 →
      writeAt s a.who ⟨rec.toInt, none, bytesOf 8 va.toNat ++ bytesOf 8 count.toNat ++ bytesOf 8 node ++ bytesOf 8 cookie.toNat⟩ pa →
      (pa + 32 ≤ node ∨ node + 8 ≤ pa) →
      ∃ t, exec (.pagereqRecord a.id) s = .next t ∧ gone t a ∧ registersStay s t ∧ signalled s t a.who.tenant vec
        ∧ t.read64 pa = va ∧ t.read64 (pa + 8) = count ∧ t.read64 (pa + 16) = BitVec.ofNat 64 node ∧ t.read64 (pa + 24) = cookie
        ∧ ∀ b, (b < pa ∨ pa + 32 ≤ b) → (b < node ∨ node + 8 ≤ b) → readByte t.mem b = readByte s.mem b)
    ∧ (∀ q w0 w1 w2 w3 n, a.op = .launch q [w0, w1, w2, w3] → s.round = [] → a.who.node = some n → (s.node? n).isSome →
        (s.queue q).st ≠ .disabled → (s.queue q).owner = a.who.tenant →
      ((s.queue q).tail - (s.queue q).head).toNat < 2 ^ (s.queue q).log2n →
      let pa := (s.queue q).base + 64 * ((s.queue q).tail.toNat % 2 ^ (s.queue q).log2n)
      runInMap pa 64 = true →
      ∃ t, exec (.launchAppend a.id) s = .next t ∧ gone t a ∧ registersStay s t ∧ t.queue q = { s.queue q with tail := (s.queue q).tail + 1 }
        ∧ (∀ k, k ≠ q → t.queue k = s.queue k) ∧ t.read64 pa = w0 ∧ t.read64 (pa + 8) = w1 ∧ t.read64 (pa + 16) = w2 ∧ t.read64 (pa + 24) = w3
        ∧ (∀ b, 32 ≤ b → b < 64 → readByte t.mem (pa + b) = 0) ∧ memoryOutside s t pa 64)

/-- SHMAP's image is installed whole when it is well formed, names the entry's own tenant, differs from the entry, and its version is the next one;
the entry keeps its tenant and every other entry is as it was. An image of another version changes no entry, and the error waits for DRAIN.HBM
(R250, R251). Stated for an image in one clean run of physical memory. -/
def Sys2Proof.Claims.MantleImagesInstall : Prop :=
  ∀ (s : State) (a : Acc) (c : Ctx) (ment pa : Nat) (va : Word) (m : MEnt), goesOn s a → unpaired s a → a.released = true → s.accCtx a = some c →
    a.order < c.progNo → a.op = .shmap ment va → staged va 128 → copyReads s a.who va.toInt 1152 pa → parseImage (readMem s.mem pa 1152) = some m →
    let e := s.mantle.read .reset ment
    e.tenant = some a.who.tenant → { m with tenant := e.tenant } ≠ e →
    (m.version = e.version + 1 →
      ∃ t, exec (.shmapInstall a.id) s = .next t ∧ gone t a ∧ registersStay s t ∧ t.mem = s.mem
        ∧ ∀ k, t.mantle.read .reset k = if k = ment then { m with tenant := e.tenant } else s.mantle.read .reset k)
    ∧ (m.version ≠ e.version + 1 →
      ∃ t c', exec (.shmapInstall a.id) s = .next t ∧ t.ctx? a.ctx = some c' ∧ gone t a ∧ registersStay s t ∧ t.mem = s.mem ∧ t.mantle = s.mantle
        ∧ c'.drainFaults = c.drainFaults ++ [⟨some .hbm, a.order, ⟨0x13, 2, .sy, va⟩⟩])

/-- A shoot-down (R184, R258): in its turn no TLB of the package keeps an entry that it matches, and every other entry stays. Where no access that used
such an entry is on its way it is complete; else it waits for those accesses, and completes once they have performed. SHOOT.PAGE of a page under
migration does so as the home fence request, any other at its release. No byte of memory and no register changes. Which accesses count as having used
an entry is the model's reading (log entry 39). -/
def Sys2Proof.Claims.ShootDownsClearTheTlbs : Prop :=
  ∀ (s : State) (a : Acc) (k : ShootKind) (e40 e41 : Word), goesOn s a → unpaired s a → a.released = true → a.op = .shoot k e40 e41 →
    let users (n : Nat) : Prop := ∃ x ∈ s.accs, x.id = n ∧ stillUses s a k e40 e41 x
    let begins (t : State) : Prop := t.mem = s.mem ∧ registersStay s t
      ∧ (∀ n, (t.tile n).tlb = (s.tile n).tlb.filter fun e => !shootEntry k a.who.tenant e40 e41 e)
      ∧ ((∀ n, ¬ users n) → gone t a)
      ∧ ((∃ n, users n) → ∃ l, t.acc? a.id = some { a with posted := true, deps := l } ∧ ∀ n, n ∈ l ↔ users n)
    (a.posted = false →
      (s.fencing a = true → ∃ t, exec (.homeFenceRequest a.id) s = .next t ∧ begins t)
      ∧ (s.fencing a = false → ∃ t, exec (.effectRelease a.id) s = .next t ∧ begins t))
    ∧ (a.posted = true → ∃ t, exec (.effectRelease a.id) s = .next t ∧ gone t a ∧ t.mem = s.mem ∧ registersStay s t ∧ t.tiles = s.tiles)

/-- The oldest operation that its die's Buckle may send after a migration goes out again; a younger one waits (R258). -/
def Sys2Proof.Claims.QueuedOperationsGoOutInOrder : Prop :=
  ∀ (s : State) (a : Acc), s.acc? a.id = some a →
    let mine := s.accs.filter fun x => x.queued = some true && tileDie x.who.tile = tileDie a.who.tile
    (mine.head? = some a →
      exec (.queuedAtomicResend a.id) s = .next { s with accs := s.accs.map fun x => if x.id = a.id then { x with queued := none } else x })
    ∧ (mine.head? ≠ some a → exec (.queuedAtomicResend a.id) s = .next s)

/-! ## The Lining -/

/-- MDLT's integer grid never drifts (R238): when PREVX holds p and PREVY holds its full results, the delta results of the difference blocks that are
not zero are, in every row and column, the full results of q. Rows are of 32 elements a group. -/
def Obligations.IntegerDeltaEqualsFullCompute : Prop :=
  ∀ (g : MdltArgs) (q p : List (List Int)) (weights : List (List (List Int))) (n : Nat), p.length = q.length →
    (∀ r ∈ q, r.length = 32 * n) → (∀ r ∈ p, r.length = 32 * n) → (∀ w ∈ weights, w.length = n ∧ ∀ b ∈ w, b.length = 32) →
    let groups := List.range n
    let diff := q.zipWith (fun x y => x.zipWith (· - ·) y) p
    let need := groups.filter fun j => diff.any fun row => !((row.drop (32 * j)).take 32).all (· = 0)
    let full (rows : List (List Int)) := mdltRows g rows groups (weights.map fun w => w.map .ints) []
    mdltRows g diff need (weights.map fun w => need.map fun j => .ints (w.getD j [])) (full p) = full q

/-- MDLT_EXECUTE (R230, R236, R237, R240): its slot is bound, the version word and the input are read; where the entry fits the command and the version
read (`fits`), PREVX too; where it fits and no more difference blocks are nonzero than THR allows (`delta`), the results are those of PREVY and the
nonzero difference blocks, else those of the input and every block. The results and the quantised input are written to Y, PREVY and PREVX. After the
delta path the entry counts one more; after the full one it takes the command's configuration, its count zero and its version the one read, VALID when
that is even and STALE when it is odd. The command is gone, its token produced and its entry the most recently used, or, where Y goes to a window, it
waits for its posted stores. While another command on the entry is not complete it waits (R241). `s2` to `s6` are the state after each read, `s7`
after the writes. -/
def Sys2Proof.Claims.LiningComputes : Prop :=
  ∀ (s s7 : State) (a : Acc) (c : Ctx) (lent : Nat) (w x y : TDesc) (wm xm ym : Option MEnt) (e : Tab Word) (fits delta : Bool)
    (vb xb pb wb yb : List Byte),
    goesOn s a → unpaired s a → a.released = true → a.posted = false → s.accCtx a = some c → a.op = .mdlt lent (.tens w wm) (.tens x xm) (.tens y ym) e →
    mdltChk e (some w) (some x) (some y) = .ok → (∀ p ∈ [(w, wm), (x, xm), (y, ym)], p.2.all (mantleFits c.tenant p.1) = true ∧ p.1.backedOk c = true) →
    let g := mdltArgs e
    let grp := s.liningGroup c.grp
    let d := ((s.group? grp).map (·.die)).getD 0
    let b := s.bindSlot grp lent g.layer c.tenant
    let r : MdltRun := ⟨w, wm, x, xm, y, ym⟩
    let m := x.extent 1
    let k := w.extent 0
    let n := y.extent 0
    let groups := List.range (k / 32)
    let lv := [wordRun (canonical56 w.veraddr) 0 8]
    let lx := (List.range m).map fun i => x.rowSpots xm i 0 k
    let lp := if fits then [wordRun g.prevx 0 (m * k)] else []
    let q := splitRows k m ((chunks (x.fmt.bits / 8) (m * k) xb).map (gridValue x.fmt g.ge))
    let diff := q.zipWith (fun u v => u.zipWith (· - ·) v) (splitRows k m (pb.map fun v => v.toInt))
    let nonzero (j : Nat) : Nat := (diff.filter fun row => ((row.drop (32 * j)).take 32).any (· ≠ 0)).length
    let need := if delta then groups.filter fun j => 0 < nonzero j else groups
    let lw := (List.range n).flatMap fun col => need.map fun j => r.block col j
    let ly := if delta then [wordRun g.prevy 0 (4 * m * n)] else []
    let s2 := b.1.touchSpots a lv.flatten
    let s3 := s2.touchSpots a lx.flatten
    let s4 := s3.touchSpots a lp.flatten
    let s5 := s4.touchSpots a lw.flatten
    let s6 := s5.touchSpots a ly.flatten
    let size := 4 * w.fmt.bits + if w.fmt.isTxb then 2 else 0
    let cols := splitRows need.length n ((List.range (n * need.length)).map fun i => decodeBlock g.float w.fmt ((wb.drop (i * size)).take size))
    let out := (mdltRows g (if delta then diff else q) need cols (splitRows n m (chunks 4 (m * n) yb))).flatMap fun row => row.flatMap (bytesOf 4)
    let busy := ∃ i, b.2 = some i ∧ ∃ z ∈ s.accs, z.id ≠ a.id ∧ z.entry = some (d, i)
    (busy → exec (.mdltExecute a.id) s = .next s)
    ∧ (¬ busy →
      (fits = true ↔ ∃ i, b.2 = some i ∧ numOf vb % 2 = 0 ∧ liningFits (s3.lent d i) g r (numOf vb)) →
      (delta = true ↔ fits = true ∧ (groups.map nonzero).sum * 65536 ≤ ((b.2.map (s3.lent d)).getD .empty).thr * (m * k / 32)) →
      b.1.readAll a c lv = .ok vb false none → s2.readAll a c lx = .ok xb false none → s3.readAll a c lp = .ok pb false none →
      s4.readAll a c lw = .ok wb false none → s5.readAll a c ly = .ok yb false none →
      s6.mdltWrites a c d b.2 ((r.outputs g).zipWith spotData [out, out, q.flatMap fun row => row.map fun v => BitVec.ofInt 8 v]) = .go s7 →
      ∃ t, exec (.mdltExecute a.id) s = .next t ∧ (s7.sending a.id = true → t.sending a.id = true) ∧ t.mem = s7.mem
        ∧ (s7.sending a.id = false → gone t a ∧ ∀ c7 c', s7.ctx? a.ctx = some c7 → c7.grp = a.grp → a.order < c7.progNo → t.ctx? a.ctx = some c' →
            tokenProduced a c7 c')
        ∧ ∀ i, b.2 = some i → let l := t.lent d i
          (s7.sending a.id = false → a.who.tenant = c.tenant → l.used = (t.die d).liningUse)
          ∧ (delta = true → l = { s7.lent d i with cnt := (s7.lent d i).cnt + 1, used := l.used })
          ∧ (delta = false → l.m = m ∧ l.k = k ∧ l.ncol = n ∧ l.wfmt = w.fmt ∧ l.veraddr = w.veraddr ∧ l.float = g.float ∧ l.ge = g.ge
              ∧ l.prevx = g.prevx ∧ l.prevy = g.prevy ∧ l.n = g.n ∧ l.thr = g.thr ∧ l.cnt = 0 ∧ l.ver = BitVec.ofNat 64 (numOf vb)
              ∧ l.st = (if numOf vb % 2 = 0 then .valid else .stale)))

/-- The end of a command whose Y went to a window: it waits while a posted store of it has not performed; then it is gone, its token is produced, and
its entry, if it still is the tenant's for the layer, is the most recently used (R230, R240). -/
def Sys2Proof.Claims.LiningCommandsEnd : Prop :=
  ∀ (s : State) (a : Acc) (c : Ctx) (lent : Nat) (w x y : CSide) (e : Tab Word), goesOn s a → unpaired s a → a.posted = true → s.accCtx a = some c →
    a.op = .mdlt lent w x y e →
    (s.sending a.id = true → exec (.mdltExecute a.id) s = .next s)
    ∧ (s.sending a.id = false → ∃ t, exec (.mdltExecute a.id) s = .next t ∧ gone t a ∧ t.mem = s.mem ∧ registersStay s t
      ∧ (a.order < c.progNo → ∀ c', t.ctx? a.ctx = some c' → tokenProduced a c c')
      ∧ ∀ d i, a.entry = some (d, i) → (s.lent d i).claimed = true → (s.lent d i).tenant = a.who.tenant → (s.lent d i).layer = (mdltArgs e).layer →
          t.lent d i = { s.lent d i with used := (s.die d).liningUse + 1 } ∧ (t.die d).liningUse = (s.die d).liningUse + 1)

/-- LNCTL takes effect at its release (R243): INVAL makes the slot's entry STALE, INVALALL every entry of the tenant on the die EMPTY and of no other
tenant, SETREF sets N and THR of the slot's entry. No byte of memory and no register changes. -/
def Sys2Proof.Claims.LnctlChangesEntries : Prop :=
  ∀ (s : State) (a : Acc) (c : Ctx) (fn lent g d : Nat) (e40 : Word), goesOn s a → unpaired s a → a.released = true → s.accCtx a = some c →
    a.op = .lnctl fn lent e40 → s.liningGroup c.grp = g → (∃ v, s.group? g = some v ∧ v.die = d) →
    ∃ t, exec (.effectRelease a.id) s = .next t ∧ gone t a ∧ t.mem = s.mem ∧ registersStay s t
      ∧ (fn = 1 → ∀ i, ((s.lent d i).claimed = true → (s.lent d i).tenant = c.tenant → t.lent d i = .empty)
          ∧ ((∀ p ∈ (s.die d).lining, p.1 = i → (p.2.claimed && p.2.tenant = c.tenant) = false) → t.lent d i = s.lent d i))
      ∧ (fn ≠ 1 → ∀ v i, s.group? g = some v → v.slots.find lent = some i →
          t.lent d i = if fn = 0 then { s.lent d i with st := .stale }
            else { s.lent d i with n := (e40.extractLsb' 32 16).toNat, thr := (e40.extractLsb' 0 16).toNat })

/-! ## Landing and messages -/

/-- A result that is due, alone, lands where its instruction named: registers, rows by lane, masks, staging, spill, control registers, the unfolding
state and its latch; it leaves flight and nothing else changes. Raised flags go to CTL.FLG, CTL.FER and, when enabled, a trap. A store's bytes enter
its TILE handle; a send puts a message on its channel, stamped with its landing lc, and takes the next sequence number. A reply that is here lands
alike at its due cycle, an MWLD's in its weight buffer. A unit of storage that is written whole is in error no longer, one that is written in part is put
right first, and none that is poisoned is written in part. Several results of one lc land in the order of `landsBefore`, so that the last one remains; that
control writes come before every other result is R335 and R375, and their place among each other log entry 10 (R27, R28, R33, R34, R38, R143, R154,
R217, R279, R280). -/
def Sys2Proof.Claims.LandingWritesRegisters : Prop :=
  ∀ (s : State) (key : Nat) (c : Ctx), landing s key c →
    (∀ f, onlyDue c f → s.bumpBlocked c f.land = false → f.torn c = false →
      let s1 := s.correctUnits key f.tears
      let d := cleaned { landed (mended c f.tears) f with inflight := c.inflight.filter fun x => x.uid != f.uid } fun u => f.share u = 64
      ((∀ q, f.act ≠ .port q) → (∀ h off, f.act ≠ .hbytes h off) → (∀ tn g idx h r, f.act ≠ .tstore tn g idx h r) →
        (f.allFlags c = 0 → exec (.resultLands key) s = .next (withCtx s1 key d))
        ∧ (∀ p n, f.allFlags c ≠ 0 → flagPlace f.slot = some (p, n) →
            exec (.resultLands key) s = .next (withCtx s1 key (flagged d p n f (f.allFlags c)))))
      ∧ (∀ h off, f.act = .hbytes h off → f.flags = 0 →
          ∃ k, storedBytes (c.handle h) k off f ∧ exec (.resultLands key) s = .next (withCtx s1 key { d with handles := c.handles.write .empty h k }))
      ∧ (∀ q ch, f.act = .port q → f.flags = 0 → c.sendChan q = some ch →
          exec (.resultLands key) s = .next { withCtx s1 key { d with ports := c.ports.write .empty q { c.port q with seq := (c.port q).seq + 1 } } with
            flights := s.flights ++ [⟨s.nextId, key, c.grp, ch.rdx, ch.rdy, ch.rhead, false, s.clock,
              ⟨f.value, f.mask, if c.tm then c.lcc else f.land, (c.port q).seq⟩⟩]
            nextId := s.nextId + 1 }))
    ∧ (∀ q r, c.pend = [q] → (c.inflight.filter fun x => x.prog != c.tm && lcLe x.land c.time) = [] → q.prog ≠ c.tm → q.reply = some r →
        lcLe q.due c.time = true → q.gran = none → r.poison = false → (q.result r).torn c = false →
        let s1 := s.correctUnits key (q.result r).tears
        let c1 := mended c (q.result r).tears
        (q.wb = none → exec (.resultLands key) s
          = .next (withCtx s1 key (cleaned { replied c1 q r with pend := [] } fun u => (q.result r).share u = 64)))
        ∧ (∀ b w, q.wb = some b → q.cause = none → r.wbuf = some w →
            exec (.resultLands key) s = .next (withCtx s1 key
              (cleaned ({ replied c1 q r with pend := [] }.setWbuf b w) fun u => u.ofBuffer b = true ∨ (q.result r).share u = 64))))
    ∧ (∀ (l : List Inflight) (t : Lc), l ≠ [] → l.Perm (c.inflight.filter fun x => x.prog != c.tm && lcLe x.land c.time) → (∀ f ∈ l, f.land = t) →
        l.Pairwise landsBefore → c.pend = [] → c.bad = [] → c.flaws = [] → s.bumpBlocked c t = false →
        ∃ u c', exec (.resultLands key) s = .next u ∧ u.ctx? key = some c' ∧ u.mem = s.mem
          ∧ (let d := l.foldl landed c
             c'.sregs = d.sregs ∧ c'.bank = d.bank ∧ c'.rows = d.rows ∧ c'.masks = d.masks ∧ c'.latches = d.latches ∧ c'.eregs = d.eregs
             ∧ c'.spill = d.spill ∧ c'.scratch = d.scratch ∧ c'.acct = d.acct ∧ c'.rnd = d.rnd ∧ c'.tvec = d.tvec ∧ c'.tframe = d.tframe
             ∧ c'.limit = d.limit ∧ c'.unf = d.unf
             ∧ ((∀ f ∈ l, f.flags = 0 ∧ ∀ n p, f.act ≠ .mx n p) → c'.flg = d.flg ∧ c'.fer = d.fer))
          ∧ ∀ f ∈ l, f ∉ c'.inflight)

/-- A message departs after the one before it on its channel, and arrives after it too: it enters the skid buffer of its receive queue head behind
those already there, while its group is placed; nothing else changes (R38, R40). -/
def Sys2Proof.Claims.MessagesKeepChannelOrder : Prop :=
  ∀ (s : State) (id : Nat) (f : Flight), s.flights.find? (fun x => x.id = id) = some f →
    (f.departed = false → (∀ g ∈ s.flights, g.id < id → oneChannel g f → g.departed = true) →
      exec (.messageDepart id) s = .next { s with flights := s.flights.map fun g => if g.id = id then { g with departed := true } else g })
    ∧ (∀ g ∈ s.flights, g.id < id → oneChannel g f → g.departed = false → exec (.messageDepart id) s = .next s)
    ∧ (∀ grp p c, s.group? f.grp = some grp → grp.place = some p → f.departed = true →
        (∀ g ∈ s.flights, g.id < id → ¬ oneChannel g f) →
        let key := ((p.die * 64 + (p.y + f.dy) * 8 + (p.x + f.dx)) * 4 + p.k)
        s.ctx? key = some c → s.undo = [] →
        exec (.messageArrive id) s = .next { withCtx s key { c with
            heads := c.heads.write .empty f.head { c.head f.head with skid := (c.head f.head).skid ++ [f.msg] } } with
          flights := s.flights.filter fun g => g.id != id })
    ∧ (∀ g ∈ s.flights, g.id < id → oneChannel g f → exec (.messageArrive id) s = .next s)

/-! ## Work queues and the dispatcher -/

/-- The registers and commands of a work queue, through a mapping that reaches it: a TAIL write is taken, with HEAD, while DISABLED, and else only
when R71 accepts it; QBASE and QREGION take their fields while DISABLED, OWNER from firmware alone; ENABLE, DISABLE, THAW and FLUSH of a queue with
nothing fetched and nothing to fetch change the state as R70's table says; whatever the table does not accept sets ERR and changes nothing else.
Through any other mapping nothing changes (R69, R70, R71, R294). ENABLE reads the blocks of the region's chain (`m`). That reserved bits of a written
value are dropped is the model's choice (log entry 57), as is firmware's mapping, which has the number 64 (log entry 42). -/
def Sys2Proof.Claims.QueueRegistersFollowTheirTable : Prop :=
  ∀ (s : State) (f q : Nat),
    (s.reaches f q = true →
      let v := s.queue q
      (∀ w : BitVec 64, let t := w.setWidth 32
        (v.st = .disabled → exec (.qtailWrite f q w) s = .next (withQueue s q { v with tail := t, head := t }))
        ∧ (v.st ≠ .disabled → tailAccepted v t → exec (.qtailWrite f q w) s = .next (withQueue s q { v with tail := t }))
        ∧ (v.st ≠ .disabled → ¬ tailAccepted v t → exec (.qtailWrite f q w) s = .next (refused s q)))
      ∧ (∀ w : Word, v.st = .disabled →
          exec (.registerWrite f (.qbase q) w) s
            = .next (withQueue s q { v with base := (w.extractLsb' 12 40).toNat * 4096, log2n := (w.extractLsb' 0 5).toNat })
          ∧ exec (.registerWrite f (.qregion q) w) s = .next (withQueue s q { v with
              region := (w.extractLsb' 0 45).toNat, owner := if f = 64 then (w.extractLsb' 48 16).toNat else v.owner }))
      ∧ (∀ w : Word, v.st ≠ .disabled → exec (.registerWrite f (.qbase q) w) s = .next (refused s q)
          ∧ exec (.registerWrite f (.qregion q) w) s = .next (refused s q))
      ∧ (let m := s.meetAll (s.chainRuns (v.region * 128));
          (v.st = .disabled → enables m v → exec (.queueEnable f q) s = .next (withQueue m q { v with st := .active }))
          ∧ (¬ (v.st = .disabled ∧ enables m v) → exec (.queueEnable f q) s = .next (refused m q)))
      ∧ (v.st = .active → v.head = v.tail → ¬ fetchedFrom s q →
          exec (.queueDisable f q) s = .next (withQueue s q { v with st := .disabled, err := false }))
      ∧ (¬ (v.st = .active ∧ v.head = v.tail ∧ ¬ fetchedFrom s q) → exec (.queueDisable f q) s = .next (refused s q))
      ∧ (v.st = .frozen → exec (.queueThaw f q) s = .next (withQueue s q { v with st := .active, frz := 0 }))
      ∧ (v.st ≠ .frozen → exec (.queueThaw f q) s = .next (refused s q) ∧ exec (.queueFlush f q) s = .next (refused s q))
      ∧ (v.st = .frozen → v.head = v.tail → ¬ fetchedFrom s q → exec (.queueFlush f q) s = .next (withQueue s q { v with st := .active }))
      ∧ (∀ cmd : BitVec 3, 5 ≤ cmd → exec (.queueCmdRefused f q cmd) s = .next (refused s q))
      ∧ (v.st = .disabled → ¬ enables s v → exec (.queueCmdRefused f q 1) s = .next (refused s q))
      ∧ (v.st ≠ .frozen → exec (.queueCmdRefused f q 3) s = .next (refused s q) ∧ exec (.queueCmdRefused f q 4) s = .next (refused s q)))
    ∧ (s.reaches f q = false →
      (∀ w, exec (.qtailWrite f q w) s = .next s ∧ exec (.registerWrite f (.qbase q) w) s = .next s
        ∧ exec (.registerWrite f (.qregion q) w) s = .next s)
      ∧ exec (.queueEnable f q) s = .next s ∧ exec (.queueDisable f q) s = .next s ∧ exec (.queueThaw f q) s = .next s
      ∧ exec (.queueFlush f q) s = .next s ∧ ∀ cmd, exec (.queueCmdRefused f q cmd) s = .next s)

/-- The dispatcher takes the entry at HEAD of an ACTIVE queue. A FENCE entry waits for every node fetched before it and then only moves HEAD on; a
NODE entry waits while a budget of pending nodes is full. What is read is met as every access to memory is (`State.meet`, `State.meetAll`). An entry
that cannot be read, is malformed, names no record, or names one that is not NEW moves HEAD on and sets ERR. Any other NODE entry moves HEAD on and
its node is fetched: where the node block, chain, packet and budgets allow it and not all its predecessors have completed, the record takes its cookie
and enters WAITING (R72, R73). That an entry whose NODE or CREC is misaligned is malformed is the model's choice (log entry 57). -/
def Sys2Proof.Claims.EntriesAreFetchedInOrder : Prop :=
  ∀ (s : State) (q : Nat), let v := s.queue q; let w := entryAt s v
    (¬ fetchable v → exec (.launchEntryFetch q) s = .next s ∧ exec (.fenceEntryConsume q) s = .next s)
    ∧ (fetchable v → slotReadable s v →
      ((w 0).extractLsb' 60 4 = 2 →
        exec (.launchEntryFetch q) s = .next s
        ∧ (fetchedFrom s q → exec (.fenceEntryConsume q) s = .next s)
        ∧ (¬ fetchedFrom s q → (entryWhole w → exec (.fenceEntryConsume q) s = .next (fetched s q))
          ∧ (¬ entryWhole w → exec (.fenceEntryConsume q) s = .next (refused (fetched s q) q))))
      ∧ ((w 0).extractLsb' 60 4 ≠ 2 → ((w 0).extractLsb' 60 4 ≠ 1 ∨ s.bqdFull q v = false) →
        let record := ((w 2).extractLsb' 0 52).toNat
        (¬ entryWhole w → exec (.launchEntryFetch q) s = .next (refused (fetched s q) q))
        ∧ (entryWhole w → record = 0 ∨ runInMap record 64 = false → exec (.launchEntryFetch q) s = .next (refused (fetched s q) q))
        ∧ (entryWhole w → record ≠ 0 → runInMap record 64 = true → s.poisoned record 64 = false →
          (s.recState record ≠ 0 → exec (.launchEntryFetch q) s = .next (refused ((fetched s q).meet record 64) q))
          ∧ (s.recState record = 0 →
            let e : Entry := ⟨false, ((w 0).extractLsb' 0 52).toNat, w 1, record, (w 3).getLsbD 0⟩
            let u := (fetched s q).meetAll ((record, 64) :: s.nodeRuns e.node)
            exec (.launchEntryFetch q) s = .next (u.takeNode q e)
            ∧ ∀ n, u.fetchNode q e = .ok (n, false) → u.nodeOwners e = [] → s.recArrived record < n.predn →
              u.takeNode q e = { (u.write64 (record + 8) (w 1)).setRecState record 1 with nodes := s.nodes.insert record n }))))
    ∧ (fetchable v → ¬ slotReadable s v → exec (.launchEntryFetch q) s = .next (refused (fetched s q) q))
    ∧ (fetchable v → slotReadable s v → (w 0).extractLsb' 60 4 = 1 → s.bqdFull q v = true → exec (.launchEntryFetch q) s = .next s)

/-- Aging, periods and budgets of time. At a package time past a further multiple of 100,000 ns every READY or RUNNING node takes the effective
priority of that multiple; past a further multiple of 1,000,000 ns every BTIME count is zero and no node is background; a node whose chain has used
up a block's BTIME becomes background. Otherwise nothing changes (R56, R77, R78). -/
def Sys2Proof.Claims.PrioritiesFollowTheirPeriods : Prop :=
  ∀ s : State,
    (s.now / 100000 ≤ s.aging → exec .priorityAging s = .next s)
    ∧ (s.aging < s.now / 100000 → let at_ := s.now / 100000 * 100000
        exec .priorityAging s = .next { s with
          aging := s.now / 100000
          nodes := s.nodes.map fun p => if s.recState p.1 = 2 ∨ s.recState p.1 = 3
            then (p.1, { p.2 with eff := min p.2.pcap (p.2.prio + (at_ - s.recReady p.1) / 100000) }) else p })
    ∧ (s.now / 1000000 ≤ s.period → exec .schedulingPeriod s = .next s)
    ∧ (s.period < s.now / 1000000 → exec .schedulingPeriod s = .next { s with
        period := s.now / 1000000, btime := [], nodes := s.nodes.map fun p => (p.1, { p.2 with background := false }) })
    ∧ (∀ addr, ∃ l, exec (.btimeExhausted addr) s = .next { s with nodes := l } ∧ l.length = s.nodes.length
        ∧ ∀ (i : Nat) (p : Nat × Node), s.nodes[i]? = some p →
          (usedUp s addr p.2 → l[i]? = some (p.1, { p.2 with background := true })) ∧ (¬ usedUp s addr p.2 → l[i]? = some p))

/-- When a new group is placed, each of its contexts starts in the initial state that R53's table gives, before its first bundle at lc 0: the first
group in the order of R79, whose budgets admit it and for which a place is found, takes that place; its node's record is RUNNING, no other context
changes, and no byte of memory outside the record's first word. -/
def Obligations.GroupsStartInTheInitialState : Prop :=
  ∀ (s : State) (d : Nat) (w : Waiting) (rest : List Waiting) (p : Place), nothingToClear s d → s.waiting d = w :: rest → w.saved = [] →
    s.admits w [] = true → s.findBoth w = some (p, none) → 0 < w.node.pk.w → 0 < w.node.pk.h →
    ∃ t g, exec (.groupPlace d) s = .next t
      ∧ t.group? s.nextId = some g ∧ g.node = w.id ∧ g.grid = w.grid ∧ g.place = some p ∧ g.die = p.die
      ∧ (∀ dx < w.node.pk.w, ∀ dy < w.node.pk.h, ∃ c, t.ctx? (keyAt p dx dy) = some c ∧ c.status = .ready ∧ c.grp = s.nextId ∧ c.node = w.id
          ∧ c.dx = dx ∧ c.dy = dy ∧ c.pk = w.node.pk ∧ startsAs c w.node w.grid dx dy)
      ∧ (∀ key, (∀ dx < w.node.pk.w, ∀ dy < w.node.pk.h, key ≠ keyAt p dx dy) → t.ctx? key = s.ctx? key)
      ∧ t.recState w.id = 3 ∧ memoryOutside s t w.id 8
      ∧ (∀ n, s.node? w.id = some n → ∃ n', t.node? w.id = some n' ∧ n'.nextGrid = n.nextGrid + 1)
      ∧ t.queues = s.queues ∧ t.accs = s.accs

/-- Groups resume, make room and go. A saved group takes its place again with every register of its contexts as saved, each READY unless EXITED; a
group that does not fit claims the best room and its occupants are asked to stop; a group that has finished leaves, and no context of it stays
(R60, R80, R81, R277). A group not saved PDL ns after the request is stopped by force at its next bundle boundaries; a stopped group with nothing
outstanding, 64 ns after its last bundle, is saved: its contexts are kept as they stand and leave their tiles, and its messages stay on their way
(R63, R64, R274 to R276). Which groups are asked to make room is the model's reading (log entry 8), and so is that a save waits for every access of
the group, released effects too (log entry 29). -/
def Obligations.GroupsStopAreSavedAndResume : Prop :=
  ∀ (s : State),
    (∀ (d : Nat) (w : Waiting) (rest : List Waiting), nothingToClear s d → s.waiting d = w :: rest →
      (∀ g grp p, w.saved = [g] → s.admits w [] = true → s.findBoth w = some (p, none) → s.group? g = some grp → Tab.sorted grp.saved = true →
        (∀ a ∈ grp.saved, a.1 % 8 < w.node.pk.w ∧ a.1 / 8 < w.node.pk.h) →
        ∃ t grp', exec (.groupPlace d) s = .next t ∧ t.group? g = some grp' ∧ grp'.place = some p ∧ grp'.saved = []
          ∧ ∀ i x, grp.saved.find i = some x → ∃ c, t.ctx? (keyAt p (i % 8) (i / 8)) = some c ∧ sameRegisters x c
              ∧ c.status = (if x.status = .exited then .exited else .ready))
      ∧ (w.node.background = false → (s.admits w [] = true → s.findBoth w = none) → ∀ r, bestRoom (s.rooms w) = some r →
        ∃ t, exec (.groupPlace d) s = .next t ∧ (t.die d).claim = some ⟨w.id, w.grid, r.place, r.twin, r.set⟩
          ∧ ∀ g ∈ r.set, ∀ x, s.group? g = some x → ∃ y, t.group? g = some y ∧ y.stop = x.stop.or (some (s.now, false))))
    ∧ (∀ (d : Nat) (p : Nat × Group), (∀ q ∈ s.nodes, ofDie d q → s.poisoned q.1 64 = false) →
        s.groups.find? (fun q => (s.nodes.filter fun n => n.2.queue / 4096 = d).any (fun n => n.1 = q.2.node) && s.finished q.1) = some p →
        ∃ t, exec (.groupPlace d) s = .next t ∧ t.group? p.1 = none ∧ ∀ q ∈ t.ctxs, q.2.grp ≠ p.1)
    ∧ (∀ (g t : Nat) (x : Group) (n : Node), s.group? g = some x → s.node? x.node = some n → x.stop = some (t, false) → x.place ≠ none →
      (s.now ≤ t + n.pdl → exec (.forcedPreempt g) s = .next s)
      ∧ (t + n.pdl < s.now → ∃ u y, exec (.forcedPreempt g) s = .next u ∧ u.group? g = some y ∧ y.stop = some (s.now, true)
          ∧ ∀ key c, s.ctx? key = some c → c.grp = g → stoppable c → ∃ c', u.ctx? key = some c' ∧ c'.status = .stopped ∧ sameRegisters c c'))
    ∧ (∀ (g : Nat) (x : Group), s.group? g = some x → x.twin = none → x.place ≠ none → x.stop ≠ none →
      (∀ p ∈ s.ctxs, p.2.grp = g → (p.2.status = .stopped ∨ p.2.status = .exited) ∧ (∀ q ∈ p.2.pend, q.reply ≠ none)
        ∧ ∀ q ∈ s.ctxs, q.2.grp = g → 8 * q.2.dy + q.2.dx = 8 * p.2.dy + p.2.dx → q = p) →
      (∃ p ∈ s.ctxs, p.2.grp = g ∧ p.2.status = .stopped) → (∀ a ∈ s.accs, a.grp ≠ g) → x.issued + 96 ≤ s.clock →
      ∃ t y, exec (.groupSave g) s = .next t ∧ t.group? g = some y ∧ y.place = none ∧ y.stop = none
        ∧ (∀ p ∈ s.ctxs, p.2.grp = g → y.saved.find (8 * p.2.dy + p.2.dx) = some p.2)
        ∧ (∀ p ∈ t.ctxs, p.2.grp ≠ g) ∧ t.flights = s.flights ∧ t.accs = s.accs)
    ∧ (∀ (g : Nat), (∃ a ∈ s.accs, a.grp = g) → exec (.groupSave g) s = .next s)

/-- The selector gives issue, when no context of the tile holds it and no wait has just ended, to the READY context of highest effective priority,
the first going upward from the one after the last holder where several have it; it is RUNNING, or TRAP in trap time, and keeps every register.
While a context holds issue nothing changes (R49). -/
def Sys2Proof.Claims.TheSelectorChoosesByPriority : Prop :=
  ∀ (s : State) (tile : Nat),
    ((s.tile tile).holder ≠ none → exec (.contextSwitch tile) s = .next s)
    ∧ (∀ (k : Nat) (c : Ctx), (s.tile tile).holder = none → (∀ p ∈ s.tileCtxs tile, s.satisfied (tile * 4 + p.1) p.2 = false) →
      k < 4 → s.ctx? (tile * 4 + k) = some c → c.status = .ready →
      (∀ p ∈ s.tileCtxs tile, p.2.status = .ready → s.prio p.2 ≤ s.prio c
        ∧ (s.prio p.2 = s.prio c → p.1 ≠ k → (k + 7 - (s.tile tile).last % 4) % 4 < (p.1 + 7 - (s.tile tile).last % 4) % 4)) →
      (∃ t c', exec (.contextSwitch tile) s = .next t ∧ t.ctx? (tile * 4 + k) = some c' ∧ sameRegisters c c'
        ∧ c'.status = (if c.tm then .trap else .running) ∧ (t.tile tile).holder = some k ∧ (t.tile tile).last = k)
      ∧ (s.rings = [] → exec (.contextSwitch tile) s
          = .next ((withCtx s (tile * 4 + k) { c with status := if c.tm then .trap else .running }).setTile tile
              { s.tile tile with holder := some k, last := k })))

/-- A window-precise fault is taken at the trap point before the third bundle after its load, and HOSTSIG, then SAMPLE, at a trap point where no
other cause is due: the handler is entered with the cause, its detail, source, ORIG and FVA in the trap bank, and the interrupt that is taken is
pending no more. In trap time no interrupt is taken (R262 to R266, R273). -/
def Obligations.WindowFaultsAndInterruptsEnterTheHandler : Prop :=
  ∀ (s : State) (key : Nat) (c : Ctx),
    (atTrapPoint s key c → hasHandler s key c →
      (∀ w rest, c.windows = w :: rest →
        (w.num + 3 ≤ c.issued → ∃ t c', exec (.windowPreciseFault key) s = .next t ∧ t.ctx? key = some c'
          ∧ entered c c' w.cause.code w.cause.detail 1 w.pc w.cause.fva)
        ∧ (c.issued < w.num + 3 → exec (.windowPreciseFault key) s = .next s))
      ∧ (c.windows = [] → exec (.windowPreciseFault key) s = .next s)
      ∧ (c.dueTrap = none → s.interruptible key c = true →
        (c.hostsig = true → ∃ t c', exec (.interruptTaken key) s = .next t ∧ t.ctx? key = some c' ∧ entered c c' 0x16 0 5 c.pc 0
          ∧ c'.hostsig = false ∧ c'.sample = c.sample)
        ∧ (c.hostsig = false → c.sample = true → ∃ t c', exec (.interruptTaken key) s = .next t ∧ t.ctx? key = some c'
          ∧ entered c c' 0x15 0 5 c.pc 0 ∧ c'.sample = false)
        ∧ (c.hostsig = false → c.sample = false → exec (.interruptTaken key) s = .next s)))
    ∧ (s.ctx? key = some c → c.tm = true → exec (.interruptTaken key) s = .next s)

/-- How a node ends. Once its last group has gone and no access of it is outstanding its staged pages pass to the live tree and their translations are
shot down; where accesses have used those and are on their way, it waits for them. Then it is DONE: record DONE with its time, its token as it was, one
more ARRIVED in a successor's record, which becomes READY when that was the last predecessor and no token came. A group that hangs kills its
node with token HANG: groups gone, record KILLED, the node's queue frozen with the token. An uncorrectable error that a running node consumes puts
it back to READY with one more RETRY while it has released nothing irreversible and has been re-queued fewer than three times; else it is KILLED
with token POISON, its queue as it was. Otherwise nothing changes (R76, R86, R87, R88, R184). Which accesses have used a translation is the model's
reading (log entry 39). -/
def Obligations.NodesEndAsTheirOutcomeSays : Prop :=
  ∀ (s : State) (at_ : Nat) (n : Node), s.node? at_ = some n → s.poisoned at_ 64 = false →
    (s.recState at_ = 3 → n.pk.grid ≤ n.nextGrid → s.nodeGroups at_ = [] → (∀ a ∈ s.accs, a.who.node ≠ some at_) →
      let shows (t : State) : Prop := recordShows s t at_ 4 (s.read64 (at_ + 0x10)) (s.read64 (at_ + 0x18)) ∧ t.groups = s.groups ∧ t.ctxs = s.ctxs
      let passed : Prop := n.commit = none ∧ n.staged = [] ∨ ∃ l, n.commit = some l ∧ ∀ k ∈ l, ∀ x ∈ s.accs, x.id ≠ k ∧ x.parent ≠ some k
      let users (k : Nat) : Prop := ∃ x ∈ s.accs, x.id = k ∧ usedStaged s n x
      (n.commit = none → n.pages ≠ [] → ∃ t, exec (.nodeComplete at_) s = .next t ∧ t.groups = s.groups
        ∧ (∀ i, ∀ e ∈ (t.tile i).tlb, n.stagedEntry e = false)
        ∧ ((∃ k, users k) → ∃ l, t.node? at_ = some { n with commit := some l } ∧ ∀ k, k ∈ l ↔ users k)
        ∧ ((∀ k, ¬ users k) → n.succn = 0 → t.node? at_ = none ∧ t.recState at_ = 4))
      ∧ (∀ l, n.commit = some l → (∃ k ∈ l, ∃ x ∈ s.accs, x.id = k ∨ x.parent = some k) → exec (.nodeComplete at_) s = .next s)
      ∧ (n.succn = 0 → passed → ∃ t, exec (.nodeComplete at_) s = .next t ∧ shows t ∧ (s.rings = [] → memoryOutside s t at_ 64))
      ∧ (n.succn = 1 → passed → s.rings = [] → s.ecc.lines = [] → s.ecc.tsvBad = [] → runInMap n.succ 8 = true →
        (s.read64 n.succ).extractLsb' 52 12 = 0 → (s.read64 n.succ).extractLsb' 0 6 = 0 →
        let r := ((s.read64 n.succ).extractLsb' 6 46).toNat * 64
        (r + 64 ≤ at_ ∨ at_ + 64 ≤ r) → runInMap r 64 = true → s.poisoned r 64 = false → s.recArrived r < 65535 →
        (∀ m, s.node? r = some m → s.recState r = 1 → s.recArrived r + 1 ≤ m.predn ∧ (s.read64 (r + 0x10)).extractLsb' 56 8 = 0) →
          ∃ t, exec (.nodeComplete at_) s = .next t ∧ shows t ∧ t.recArrived r = s.recArrived r + 1
            ∧ (s.node? r = none → t.recState r = s.recState r)
            ∧ ∀ m, s.node? r = some m → s.recState r = 1 → s.recArrived r + 1 = m.predn →
                t.recState r = 2 ∧ t.read64 (r + 0x20) = BitVec.ofNat 64 s.now))
    ∧ (s.recState at_ ≠ 3 ∨ n.nextGrid < n.pk.grid ∨ s.nodeGroups at_ ≠ [] ∨ (∃ a ∈ s.accs, a.who.node = some at_) → exec (.nodeComplete at_) s = .next s)
    ∧ (∀ g x, s.group? g = some x → x.node = at_ →
      (¬ hung s x n → exec (.nodeHang g) s = .next s)
      ∧ (hung s x n → n.succn = 0 → ∃ t, exec (.nodeHang g) s = .next t ∧ recordShows s t at_ 6 (tokenOf 3 at_) 0 ∧ groupsGone s t at_
          ∧ ((s.queue n.queue).st = .active → (t.queue n.queue).st = .frozen ∧ (t.queue n.queue).frz = tokenOf 3 at_)))
    ∧ (s.recState at_ ≠ 3 → exec (.uncorrectableConsumed at_) s = .next s)
    ∧ (s.recState at_ = 3 →
      (s.recIrrev at_ = false → s.recRetry at_ < 3 → s.rings = [] →
        ∃ t, exec (.uncorrectableConsumed at_) s = .next t ∧ t.recState at_ = 2 ∧ t.recRetry at_ = s.recRetry at_ + 1
          ∧ t.recArrived at_ = s.recArrived at_ ∧ t.recIrrev at_ = false ∧ t.node? at_ = some { n with nextGrid := 0, lining := [], commit := none }
          ∧ groupsGone s t at_ ∧ memoryOutside s t at_ 8 ∧ t.queues = s.queues)
      ∧ (s.recIrrev at_ = true ∨ 3 ≤ s.recRetry at_ → n.succn = 0 →
        ∃ t, exec (.uncorrectableConsumed at_) s = .next t ∧ recordShows s t at_ 6 (tokenOf 4 at_) 0 ∧ groupsGone s t at_ ∧ t.queues = s.queues))

/-! ## The host -/

/-- HSIG raises HOSTSIG in the context at (0, 0) of the group of lowest grid index of the tenant's pending node that it names, placed or saved, or
keeps it in a node of which no group has been placed. Writing 1 clears a CPEND bit of the tenant's own queues and any SPEND bit, and writing 0 leaves
it. IMASK takes its four bits, and sends a vector once whose bit clears while a cause bit is set; that vectors 2 and 3 keep no cause is the model's
reading (log entry 38). Through a function of no tenant, and for a record that is no pending node of the tenant, nothing changes (R294, R296, R297,
R298). -/
def Sys2Proof.Claims.HostSignalsFollowTheirRules : Prop :=
  ∀ (s : State) (f : Nat),
    (∀ t, tenantFunction s f t →
      (∀ v n, s.node? (signalledRecord v) = some n → n.tenant = t →
        ((∀ q ∈ s.groups, ¬ (q.2.node = signalledRecord v ∧ q.2.leader = true)) →
          exec (.hostSignalWrite f v) s = .next { s with nodes := s.nodes.insert (signalledRecord v) { n with hostsig := true } })
        ∧ (∀ g x, firstGroup s (signalledRecord v) g x →
          (∀ p c, x.place = some p → s.ctx? (keyAt p 0 0) = some c → s.undo = [] →
            exec (.hostSignalWrite f v) s = .next (withCtx s (keyAt p 0 0) { c with hostsig := true }))
          ∧ (x.place = none → exec (.hostSignalWrite f v) s = .next { s with groups := s.groups.insert g { x with
              saved := x.saved.map fun c => if c.1 = 0 then (c.1, { c.2 with hostsig := true }) else c } })))
      ∧ (∀ v, (∀ n, s.node? (signalledRecord v) = some n → n.tenant ≠ t) → exec (.hostSignalWrite f v) s = .next s)
      ∧ (∀ word v, word < 256 → ∃ x, exec (.cpendClear f word v) s = .next { s with fns := s.fns.write .reset f { s.fn f with cpend := x } }
          ∧ ∀ q < 16384, x.getLsbD q = ((s.fn f).cpend.getLsbD q
              && !(decide (q / 64 = word) && v.getLsbD (q % 64) && decide ((s.queue q).owner = t))))
      ∧ (∀ word v, word < 4 → ∃ x, exec (.spendClear f word v) s = .next { s with fns := s.fns.write .reset f { s.fn f with spend := x } }
          ∧ ∀ b < 256, x.getLsbD b = ((s.fn f).spend.getLsbD b && !(decide (b / 64 = word) && v.getLsbD (b % 64)))))
    ∧ (s.ready = true → f < 64 → ∀ v : Word,
        exec (.imaskWrite f v) s = .next { s with
          fns := s.fns.write .reset f { s.fn f with imask := v.extractLsb' 0 4 }
          irqs := s.irqs
            ++ (if (s.fn f).cpend ≠ 0 ∧ (s.fn f).imask.getLsbD 0 = true ∧ v.getLsbD 0 = false then [(f, 0)] else [])
            ++ (if (s.fn f).spend ≠ 0 ∧ (s.fn f).imask.getLsbD 1 = true ∧ v.getLsbD 1 = false then [(f, 1)] else []) })
    ∧ (noTenantFunction s f → ∀ word v, exec (.hostSignalWrite f v) s = .next s ∧ exec (.cpendClear f word v) s = .next s
        ∧ exec (.spendClear f word v) s = .next s)
    ∧ (s.ready = false → ∀ v, exec (.imaskWrite f v) s = .next s)

/-- The memory window reads and writes device memory that the tenant has been granted whole: a read answers its bytes, none where it meets poison; a
write stores its bytes and no others, and one that covers a poisoned line in part is dropped whole; rows open for both, and the decoder meets their
lines, which changes no byte. Any other read of it answers all ones, any other write is dropped, and both are logged to firmware. Below it a read
answers the words of the registers: a queue's where the mapping reaches it, the function's own signal block; a write of a word is the write of its
register (R69, R279, R280, R283, R294, R296, R299). How answers are listed and that registers take whole words are the model's choices (log entry 41), as
is what the decoder finds in a line (log entry 55). -/
def Sys2Proof.Claims.HostMemoryWindowReadsAndWrites : Prop :=
  ∀ (s : State) (f off : Nat), s.ready = true →
    (∀ t, tenantFunction s f t →
      (∀ n, windowGranted s t off n → exec (.hostMemoryRead f off n) s = .next ((answers s f off
        (if s.locPoisoned (.phys (off - 0x100000000)) n then [] else readMem s.mem (off - 0x100000000) n)).meet (off - 0x100000000) n))
      ∧ (∀ d, windowGranted s t off d.length → let m := s.meet (off - 0x100000000) d.length
        (m.poisonMet [(off - 0x100000000, d.length)] = [] → ∃ u, exec (.hostMemoryWrite f off d) s = .next u
          ∧ readMem u.mem (off - 0x100000000) d.length = d ∧ memoryOutside s u (off - 0x100000000) d.length
          ∧ u.ctxs = s.ctxs ∧ u.fns = s.fns ∧ u.poison = m.poison)
        ∧ ((∃ l ∈ m.poisonMet [(off - 0x100000000, d.length)], 64 * l < off - 0x100000000 ∨ off - 0x100000000 + d.length < 64 * l + 64) →
          exec (.hostMemoryWrite f off d) s = .next m))
      ∧ (∀ q < 16384, (s.regWord f (0x20000 + q / 64)).getLsbD (q % 64) = ((s.fn f).cpend.getLsbD q && decide ((s.queue q).owner = t))))
    ∧ (∀ pa n, let t := s.meet pa n
      t.mem = s.mem ∧ t.ctxs = s.ctxs ∧ t.fns = s.fns
      ∧ (s.ecc.lines = [] → s.ecc.tsvBad = [] → t = { s with
          accesses := t.accesses, rowCount := t.rowCount, refresh := t.refresh, ras := t.ras, irqs := t.irqs
          ecc := { s.ecc with events := t.ecc.events } }))
    ∧ (off < 0x100000000 →
      (∀ n, exec (.hostMemoryRead f off n) s = .next (answers s f off (s.regBytes f off n)))
      ∧ ∀ d : List Byte, d.length = 8 → let w := BitVec.ofNat 64 (numOf d)
        let writes (i : Instr) : Prop := exec (.hostMemoryWrite f off d) s = exec i s
        (∀ q < 16384, (off = 64 * q → writes (.registerWrite f (.qbase q) w)) ∧ (off = 64 * q + 8 → writes (.registerWrite f (.qregion q) w))
          ∧ (off = 64 * q + 16 → writes (.qtailWrite f q w)))
        ∧ (∀ k < 256, off = 0x100000 + 8 * k → writes (.cpendClear f k w)) ∧ (∀ k < 4, off = 0x100800 + 8 * k → writes (.spendClear f k w))
        ∧ (off = 0x100820 → writes (.imaskWrite f w)) ∧ (off = 0x100828 → writes (.hostSignalWrite f w))
        ∧ (∀ k < 8, off = 0x110000 + 8 * k → writes (.registerWrite f (.req k) w)) ∧ (off = 0x110080 → writes (.registerWrite f .door w)))
    ∧ (∀ q k, q < 16384 → k < 8 → s.regWord f (8 * q + k) = if s.reaches f q then queueWord (s.queue q) k else 0)
    ∧ (∀ k < 4, s.regWord f (0x20100 + k) = (s.fn f).spend.extractLsb' (64 * k) 64) ∧ s.regWord f 0x20104 = (s.fn f).imask.setWidth 64
    ∧ (∀ n, inMemoryWindow off = true → (noTenantFunction s f ∨ ∃ t v, (s.fn f).bind = .tenant t ∧ s.tenants.find t = some v ∧ ¬ windowGranted s t off n) →
      ∃ u, exec (.hostMemoryRead f off n) s = .next u ∧ u.answers = s.answers ++ [(f, off, List.replicate n 0xFF)]
        ∧ u.ras = s.ras ++ [.hostAccess f off] ∧ u.mem = s.mem ∧ u.ctxs = s.ctxs)
    ∧ (∀ d : List Byte, inMemoryWindow off = true → (noTenantFunction s f ∨ ∃ t v, (s.fn f).bind = .tenant t ∧ s.tenants.find t = some v ∧ ¬ windowGranted s t off d.length) →
      ∃ u, exec (.hostMemoryWrite f off d) s = .next u ∧ u.answers = s.answers ∧ u.ras = s.ras ++ [.hostAccess f off]
        ∧ u.mem = s.mem ∧ u.ctxs = s.ctxs)

/-- When firmware removes a tenant it makes every entry of that tenant on every die EMPTY, in the step that frees the tenant identifier; with them go
its ranges, its Mantle grants and the poison of the lines that it owned; a group changes in its slots alone. The command answers 0, whatever nodes of
the tenant are pending (R248, R304, R305; the last is the model's reading, log entry 37). -/
def Obligations.TenantRemovalEmptiesItsEntries : Prop :=
  ∀ (s : State) (f tenant : Nat) (v : Tenant), submitted s f 0x02 → (s.fn f).bind = .owner → arg s f 1 = tenant → tenant < 65536 →
    s.tenants.find tenant = some v →
    ∃ u, exec (.tenantDel f) s = .next u ∧ answered u f 0 ∧ u.tenants = s.tenants.erase tenant
      ∧ (∀ d < 4, ∀ i, ((s.die d).lining.read .empty i).tenant = tenant → (u.die d).lining.read .empty i = .empty)
      ∧ (∀ i, (s.mantle.read .reset i).tenant = some tenant → (u.mantle.read .reset i).tenant = none ∧ (u.mantle.read .reset i).rank = 0)
      ∧ (∀ l, l ∈ u.poison ↔ l ∈ s.poison ∧ inRanges v.ranges (64 * l) 64 = false)
      ∧ u.mem = s.mem ∧ u.ctxs = s.ctxs ∧ u.queues = s.queues
      ∧ ∀ g x, s.group? g = some x → ∃ y, u.group? g = some y ∧ y = { x with slots := y.slots }

/-- The mailbox commands, submitted by a function that may issue them and with arguments in their ranges, do what R305 lists and answer 0:
TENANT_NEW, GRANT_MEM, SET_ROOT, MANTLE_GRANT, MANTLE_DROP, COUNTERS, TRACE_BIND, QUOTE, QUARANTINE and LOG_READ. A function that may not issue a
command is answered 1, and a code that is not listed 2, with nothing else changed; a command that is not submitted changes nothing (R186, R248, R249,
R290, R304, R305, R307, R308). A new tenant finds no Lining entry of an earlier one of its identifier. COUNTERS answering and then clearing counters and
queue, the layout of RSP's words, LOG_READ of an empty log answered 1 and the quote's address in RSP word 1 are the model's choices (log entry 7), and
so are the byte order and the signature of a quote (log entry 6). -/
def Obligations.MailboxCommandsAnswer : Prop :=
  ∀ (s : State) (f : Nat),
    ((s.fn f).bind = .owner →
      (submitted s f 0x01 → arg s f 1 < 65536 → arg s f 2 < 64 → s.tenants.find (arg s f 1) = none → (s.fn (arg s f 2)).bind = .none →
        ∃ u, exec (.tenantNew f) s = .next u ∧ answered u f 0 ∧ (u.fn (arg s f 2)).bind = .tenant (arg s f 1)
          ∧ u = { s with tenants := s.tenants.insert (arg s f 1) ⟨arg s f 2, [], none⟩, fns := u.fns, dies := u.dies, groups := u.groups }
          ∧ (∀ d < 4, u.die d = { s.die d with lining := (u.die d).lining }
              ∧ ∀ i, ((s.die d).lining.read .empty i).tenant = arg s f 1 → (u.die d).lining.read .empty i = .empty)
          ∧ ((∀ d < 4, ∀ p ∈ (s.die d).lining, p.2.tenant ≠ arg s f 1) → u.dies = s.dies ∧ u.groups = s.groups)
          ∧ ∀ g x, s.group? g = some x → ∃ y, u.group? g = some y ∧ y = { x with slots := y.slots })
      ∧ (∀ v, submitted s f 0x03 → arg s f 1 < 65536 → arg s f 2 % 0x8000 = 0 → arg s f 3 ≠ 0 → runInMap (arg s f 2) (arg s f 3 * 0x8000) = true →
        s.tenants.find (arg s f 1) = some v → ∃ u, exec (.grantMem f) s = .next u ∧ answered u f 0
          ∧ u = { s with tenants := s.tenants.insert (arg s f 1) { v with ranges := v.ranges ++ [(arg s f 2, arg s f 3 * 0x8000)] }, fns := u.fns })
      ∧ (∀ v, submitted s f 0x05 → arg s f 1 < 65536 → arg s f 2 < 4096 → s.tenants.find (arg s f 1) = some v →
        ∃ u, exec (.mantleGrant f) s = .next u ∧ answered u f 0 ∧ u = { s with mantle := u.mantle, fns := u.fns }
          ∧ u.mantle.read .reset (arg s f 2)
            = { MEnt.reset with version := (s.mantle.read .reset (arg s f 2)).version, tenant := some (arg s f 1) }
          ∧ ∀ i, i ≠ arg s f 2 → u.mantle.read .reset i = s.mantle.read .reset i)
      ∧ (submitted s f 0x0B → arg s f 1 < 65536 → arg s f 2 < 4096 → (s.mantle.read .reset (arg s f 2)).tenant = some (arg s f 1) →
        ∃ u, exec (.mantleDrop f) s = .next u ∧ answered u f 0 ∧ u = { s with mantle := u.mantle, fns := u.fns }
          ∧ u.mantle.read .reset (arg s f 2) = { MEnt.reset with version := (s.mantle.read .reset (arg s f 2)).version }
          ∧ ∀ i, i ≠ arg s f 2 → u.mantle.read .reset i = s.mantle.read .reset i)
      ∧ (submitted s f 0x06 → arg s f 1 < 4 → arg s f 2 < 65536 →
        ∃ u, exec (.counters f) s = .next u ∧ answered u f 0 ∧ u.die (arg s f 1) = { s.die (arg s f 1) with accTh := arg s f 2, events := [], overflow := false }
          ∧ (∀ b, u.accCount.read 0 b = if paDie (b * 0x10000) = arg s f 1 then 0 else s.accCount.read 0 b)
          ∧ u = { s with accCount := u.accCount, dies := u.dies, fns := u.fns }
          ∧ (∀ k < 7, (u.fn f).rsp.read 0 (k + 1) = Config.eventWord (s.die (arg s f 1)).events (s.die (arg s f 1)).overflow
              (s.accCount.filter fun p => paDie (p.1 * 0x10000) = arg s f 1) k)
          ∧ ∀ d, d ≠ arg s f 1 → u.die d = s.die d)
      ∧ (∀ u32 : BitVec 32, submitted s f 0x09 → arg s f 1 = u32.toNat → unitOk u32 = true →
        (arg s f 2 = 1 → (∀ p ∈ s.groups, p.2.twin = none) → ∃ u, exec (.quarantine f) s = .next u ∧ answered u f 0 ∧ u32 ∈ u.quarantine
          ∧ (∀ x, x ∈ s.quarantine → x ∈ u.quarantine) ∧ u = { s with quarantine := u.quarantine, fns := u.fns })
        ∧ (arg s f 2 = 0 → ∃ u, exec (.quarantine f) s = .next u ∧ answered u f 0 ∧ u32 ∉ u.quarantine
          ∧ (∀ x, x ∈ s.quarantine → x ≠ u32 → x ∈ u.quarantine) ∧ u = { s with quarantine := u.quarantine, fns := u.fns }))
      ∧ (∀ r rest, submitted s f 0x0A → s.ras = r :: rest →
        ∃ u, exec (.logRead f) s = .next u ∧ answered u f 0 ∧ u = { s with ras := rest, fns := u.fns }
          ∧ ∀ k < 7, (u.fn f).rsp.read 0 (k + 1) = Config.logWord r.numbers k)
      ∧ (submitted s f 0x0A → s.ras = [] → onlyAnswers (.logRead f) s f 1))
    ∧ (∀ t v, (s.fn f).bind = .tenant t → s.tenants.find t = some v →
      (submitted s f 0x04 → arg s f 1 % 0x8000 = 0 → ∃ u, exec (.setRoot f) s = .next u ∧ answered u f 0
          ∧ u = { s with tenants := s.tenants.insert t { v with root := some (arg s f 1) }, fns := u.fns })
      ∧ (∀ b l, submitted s f 0x07 → 16 ≤ arg s f 3 → arg s f 3 ≤ 36 → arg s f 2 % 2 ^ arg s f 3 = 0 → runInMap (arg s f 2) (2 ^ arg s f 3) = true →
        s.block? (arg s f 1) = .ok b → s.chain (arg s f 1) = .ok l → b.kind ≠ 3 → chainTenant l = t →
        inRanges v.ranges (arg s f 2) (2 ^ arg s f 3) = true → ∃ u, exec (.traceBind f) s = .next u ∧ answered u f 0
          ∧ u = { s.meetAll (s.chainRuns (arg s f 1)) with
                         fns := u.fns
                         rings := (s.rings.filter fun r => r.region != arg s f 1) ++ [⟨arg s f 1, arg s f 2, arg s f 3, arg s f 4⟩] })
      ∧ (∀ r rest, submitted s f 0x08 → v.ranges = r :: rest → s.poison = [] → s.ecc.lines = [] → s.ecc.tsvBad = [] →
        ∃ u, exec (.quote f) s = .next u ∧ answered u f 0 ∧ (u.fn f).rsp.read 0 1 = BitVec.ofNat 64 r.1
          ∧ readMem u.mem r.1 32 = (List.range 4).flatMap (fun k => bytesOf 8 (arg s f (k + 1)))
          ∧ readMem u.mem (r.1 + 0x20) 48 = bigEndian 48 s.meas0.toNat ∧ readMem u.mem (r.1 + 0x50) 48 = bigEndian 48 s.meas1.toNat
          ∧ readMem u.mem (r.1 + 0x80) 8 = bytesOf 8 0x00F4000065530000 ∧ readMem u.mem (r.1 + 0x88) 8 = bytesOf 8 t
          ∧ readMem u.mem (r.1 + 0x90) 16 = List.replicate 16 0
          ∧ readMem u.mem (r.1 + 0xA0) 96 = quoteSignature (readMem u.mem r.1 160) ∧ memoryOutside s u r.1 256 ∧ u.ctxs = s.ctxs ∧ u.tenants = s.tenants))
    ∧ (∀ p ∈ mailboxCode f, submitted s f p.2 →
        (ownersCommand p.2 → (s.fn f).bind ≠ .owner → onlyAnswers p.1 s f 1)
        ∧ (¬ ownersCommand p.2 → (∀ t, (s.fn f).bind ≠ .tenant t) → onlyAnswers p.1 s f 1))
    ∧ (∀ code : Nat, code < 256 → (code = 0 ∨ 0x0B < code) → submitted s f code → onlyAnswers (.mailboxUnknown f) s f 2)
    ∧ (∀ p ∈ mailboxCode f, ¬ submitted s f p.2 → exec p.1 s = .next s)

/-! ## Reliability, links, power and trace -/

/-- The diagnostic of a quarantined tile: a pass lifts the quarantine; a failure on a die that has retired no column keeps the column's place free and
asks every group with a context there to stop, and once none is left there the column is retired; on a die that has retired another column, or is
retiring one, the die is failed and logged. A tile that is not quarantined is left as it is (R18, R290, R291). A targeted refresh that is queued ends
with its row's counter at 0, and a bank holds at most four of them (R283, R284).
An old copy of the undo log is forgotten once no rewind can need it, and no other (R286, R287; the log as whole copies is log entry 49). -/
def Sys2Proof.Claims.RepairFollowsItsRules : Prop :=
  ∀ s : State,
    (∀ (u : BitVec 32) (d c r : Nat), s.ready = true → unitTile u = some (d, c, r) → u ∈ s.quarantine →
      exec (.tileDiagnostic u true) s = .next { s with quarantine := s.quarantine.filter (· != u) }
      ∧ ((s.die d).retiring = none → (s.die d).failed = false →
        ((s.die d).retired = none → ∃ t, exec (.tileDiagnostic u false) s = .next t ∧ (t.die d).retiring = some c
            ∧ ∀ p ∈ s.ctxs, p.1 / 256 = d → c ≤ p.1 / 4 % 8 → ∀ x, s.group? p.2.grp = some x →
                ∃ y, t.group? p.2.grp = some y ∧ y.stop = x.stop.or (some (s.now, false)))
        ∧ (∀ c', (s.die d).retired = some c' → c' ≠ c → (∀ p ∈ s.groups, p.2.twin = none) →
            exec (.tileDiagnostic u false) s = .next ((s.mapDie d fun v => { v with failed := true }).log (.dieFailed d))))
      ∧ (∀ c', (s.die d).retiring = some c' → c' ≠ c → (s.die d).failed = false → (∀ p ∈ s.groups, p.2.twin = none) →
          exec (.tileDiagnostic u false) s = .next ((s.mapDie d fun v => { v with failed := true }).log (.dieFailed d)))
      ∧ ((s.die d).retiring = some c → (∀ p ∈ s.ctxs, p.1 / 256 = d → p.1 / 4 % 8 < c) →
          exec (.tileDiagnostic u false) s = .next (s.mapDie d fun v => { v with retired := some c, retiring := none })))
    ∧ (∀ u pass, u ∉ s.quarantine → exec (.tileDiagnostic u pass) s = .next s)
    ∧ (∀ row, row ∈ s.refresh → exec (.targetedRefreshDone row) s
        = .next { s with refresh := s.refresh.filter (· != row), rowCount := s.rowCount.write 0 row 0 })
    ∧ (∀ row, row ∉ s.refresh → exec (.targetedRefreshDone row) s = .next s)
    ∧ (let held (t : State) (b : Nat) : Nat := (t.refresh.filter fun r => Config.dramBankOf r = b).length
      (∀ b, held s b ≤ 4) → ∀ row b, held (s.queueRefresh row) b ≤ 4)
    ∧ ∃ l, exec .undoLogRetire s = .next { s with undo := l } ∧ l.Sublist s.undo ∧ ∀ u, u ∈ l ↔ u ∈ s.undo ∧ ¬ oldEnough s u

/-- A strike report of a tile takes every context of an unpaired group that has one near it back to the copy of 64 ns before: its registers, PC and
time are those of the first bundle that it issued since, it is READY, or STOPPED when its group was being saved, and its accesses issued since are
discarded; one that has issued none since stays as it is. The event is logged, and bits in error near it are put right. Contexts of groups that have
none near it keep their registers, and memory keeps every byte. With no context near it, and of a unit that holds no storage, a report is logged
alone; one that names no unit changes nothing (R285, R286, R288, R289). That a rewind restores whole copies is the model's reading (log entry 49). -/
def Sys2Proof.Claims.StrikesRewindTheirGroups : Prop :=
  ∀ (s : State) (d pcol row : Nat), s.ready = true → d < 4 → pcol < 9 → row < 8 →
    let n := 2 ^ 28 + d * 2 ^ 26 + pcol * 2 ^ 22 + row * 2 ^ 19
    let u : Instr := .strikeReport 1 d (pcol * 2 ^ 22 + row * 2 ^ 19)
    ((∀ p ∈ s.ctxs, ¬ nearStrike s d pcol row (p.1 / 4)) → ∃ t, exec u s = .next t ∧ t.ctxs = s.ctxs ∧ t.accs = s.accs
      ∧ t.groups = s.groups ∧ t.mem = s.mem ∧ (∃ l, t.ras = s.ras ++ l ++ [.strike n])
      ∧ ((∀ x ∈ s.undo, x.ctx.flaws = []) → t.ras = s.ras ++ [.strike n]))
    ∧ (∃ t, exec u s = .next t ∧ ∀ key c, t.ctx? key = some c → nearStrike s d pcol row (key / 4) → c.flaws = [])
    ∧ (∀ v : BitVec 32, let report : Instr := .strikeReport (v.toNat / 2 ^ 28) (v.toNat / 2 ^ 26 % 4) (v.toNat % 2 ^ 26)
      (unitOk v = false → exec report s = .next s) ∧ (unitOk v = true → unitKind v ∉ [1, 2, 7, 8] → exec report s = .next (s.log (.strike v.toNat))))
    ∧ (Tab.sorted s.ctxs = true → (∀ p ∈ s.groups, p.2.twin = none) → s.rings = [] → (∀ p ∈ s.ctxs, p.2.flaws = []) → (∀ x ∈ s.undo, x.ctx.flaws = []) →
      ∃ t, exec u s = .next t ∧ t.mem = s.mem ∧ t.nodes = s.nodes ∧ t.ras = s.ras ++ [.strike n]
        ∧ (∀ key c, s.ctx? key = some c → (∀ p ∈ s.ctxs, p.2.grp = c.grp → ¬ nearStrike s d pcol row (p.1 / 4)) →
            ∃ c', t.ctx? key = some c' ∧ sameRegisters c c' ∧ c'.status = c.status)
        ∧ (∀ key c u, s.ctx? key = some c → (∃ p ∈ s.ctxs, p.2.grp = c.grp ∧ nearStrike s d pcol row (p.1 / 4)) → s.twinOf c = none →
            s.undo.filter (fun x => x.key = key) = [u] → s.clock ≤ u.clock + 96 → u.ctx.grp = c.grp → u.ctx.comb < c.comb →
            ∃ c', t.ctx? key = some c' ∧ sameRegisters u.ctx c' ∧ (beingSaved s c.grp → c'.status = .stopped) ∧ (¬ beingSaved s c.grp → c'.status = .ready)
              ∧ ∀ a ∈ t.accs, a.ctx = key → a.grp = c.grp → a.order < u.ctx.progNo)
        ∧ ∀ key c, s.ctx? key = some c → s.twinOf c = none → (∀ x ∈ s.undo, x.key = key → x.clock + 96 < s.clock) →
            ∃ c', t.ctx? key = some c' ∧ sameRegisters c c' ∧ c'.status = c.status)

/-- Errors of a memory line. Symbols in error join those that the line has; up to half its check symbols the line keeps its data, and the next access
corrects it and logs a correctable event; beyond that the line is poisoned and logged as uncorrectable, and no byte of memory changes. A failed TSV
group corrupts exactly 8 symbols of a line of HBM4, which are corrected (R279 to R281). That a line is poisoned as soon as its errors exceed the code is the
model's choice (log entry 55). -/
def Sys2Proof.Claims.StorageErrorsFollowTheirCodes : Prop :=
  ∀ (s : State) (l : Nat), (inHbm (64 * l) = true ∨ inCap (64 * l) = true) →
    (∀ e, l ∉ s.poison →
      let m := { s with ecc := { s.ecc with lines := s.ecc.lines.write [] l (mergeSymbols (s.ecc.lines.read [] l) e) } }
      (2 * (m.lineErrors l).length ≤ lineChecks l → s.upset (.line l e) = m)
      ∧ (lineChecks l < 2 * (m.lineErrors l).length → l ∈ (s.upset (.line l e)).poison ∧ (s.upset (.line l e)).mem = s.mem
        ∧ .uncorrectable (lineUnit l).toNat ∈ (s.upset (.line l e)).ras))
    ∧ (s.lineErrors l = [] → s.meetLine l = s)
    ∧ (s.lineErrors l ≠ [] → 2 * (s.lineErrors l).length ≤ lineChecks l → (s.meetLine l).mem = s.mem ∧ (s.meetLine l).poison = s.poison
      ∧ .correctable (lineUnit l).toNat ∈ (s.meetLine l).ras ∧ (s.meetLine l).ecc.lines.find l = none)
    ∧ (inHbm (64 * l) = true → lineChecks l = 16 ∧ ∀ i, s.ecc.lines.read [] l = [] → s.ecc.tsvBad = [tsvOf l i] → s.ecc.tsvSpare = [] →
      i < 80 → (s.lineErrors l).length = 8 ∧ s.unreadable l = false)
    ∧ (inCap (64 * l) = true → lineChecks l = 8)

/-- The links. A replay and a resent flit change nothing; a failed lane takes one of the link's four spares at both ends; a station narrows once for
each of two failed lanes; an unsupported request is answered with an error. A request of a peer package of at most 256 bytes for a frame all in the map
and in the tenant's ranges reads or writes memory, or performs at the Buckle here: an atomic, an arrival, a count; any other is answered with an error
and writes nothing, and one outside the ranges is logged (R203, R205, R292, R293, R300 to R302). How answers are listed is the model's choice (log entries
41 and 47). -/
def Sys2Proof.Claims.LinksAndPeersAnswer : Prop :=
  ∀ s : State,
    (∀ port, exec (.linkReplay port) s = .next s) ∧ (∀ d other, exec (.ucieRetry d other none) s = .next s)
    ∧ (∀ d other l, d < 4 → other < 4 → d ≠ other → let used := (s.die d).lanes.read [] other
        (l ∉ used → used.length < 4 → ∃ t, exec (.ucieRetry d other (some l)) s = .next t ∧ t = { s with dies := t.dies }
          ∧ (t.die d).lanes.read [] other = used ++ [l] ∧ (t.die other).lanes.read [] d = used ++ [l]
          ∧ ∀ e, e ≠ d → e ≠ other → t.die e = s.die e)
        ∧ ((l ∈ used ∨ 4 ≤ used.length) → exec (.ucieRetry d other (some l)) s = .next s))
    ∧ (∀ d station, d < 4 → station < 9 → let n := (s.die d).stations.read 0 station
        (n < 2 → exec (.ualinkStationRetrain d station) s = .next (s.mapDie d fun v => { v with stations := v.stations.write 0 station (n + 1) }))
        ∧ (2 ≤ n → exec (.ualinkStationRetrain d station) s = .next s))
    ∧ (s.ready = true → ∀ g peer, g < 4 →
      (∀ d, exec (.ualinkUnsupported d peer) s = .next { s with answers := s.answers ++ [(256 + peer, 0, [])] })
      ∧ (∀ op tenant place addr, 256 < peerBytes op →
          exec (.peerAccessArrive g peer op tenant place addr) s = .next { s with answers := s.answers ++ [(256 + peer, 0, [])] })
      ∧ (∀ tenant pa n, n ≤ 256 → runInMap pa n = true → tenantHolds s tenant pa n →
          ∃ t, exec (.peerAccessArrive g peer (.read n) tenant .frame pa) s = .next t ∧ t.mem = s.mem ∧ t.ctxs = s.ctxs
            ∧ t.answers = s.answers ++ [(256 + peer, pa, if s.locPoisoned (.phys pa) n then [] else readMem s.mem pa n)])
      ∧ (∀ tenant pa d, d.length ≤ 256 → runInMap pa d.length = true → tenantHolds s tenant pa d.length →
          s.poisonMet [(pa, d.length)] = [] → s.ecc.lines = [] → s.ecc.tsvBad = [] →
          ∃ t, exec (.peerAccessArrive g peer (.write d) tenant .frame pa) s = .next t ∧ readMem t.mem pa d.length = d
            ∧ memoryOutside s t pa d.length ∧ t.ctxs = s.ctxs ∧ t.answers = s.answers)
      ∧ (∀ tenant pa n, runInMap pa n = true → tenantHolds s tenant pa n → s.locPoisoned (.phys pa) n = false →
          let does (op : PeerOp) (t : State) : Prop := exec (.peerAccessArrive g peer op tenant .frame pa) s = .next t ∧ t.ctxs = s.ctxs
          (∀ op ty x cmp, n = wordSize ty → ∃ t, does (.atom op ty x cmp) t
            ∧ wordWritten s t pa n (atomValueOf op ty (numberAt s pa n) (x.toNat % 2 ^ (8 * n)) (cmp.toNat % 2 ^ (8 * n)) % 2 ^ (8 * n))
            ∧ t.answers = s.answers ++ [(256 + peer, pa, bytesOf n (numberAt s pa n))])
          ∧ (n = 8 → (∃ t, does .arrive t ∧ t.read64 pa = arrived (s.read64 pa) ∧ memoryOutside s t pa 8)
            ∧ ∀ k, ∃ t, does (.count k) t ∧ t.read64 pa = s.read64 pa + BitVec.ofNat 64 k ∧ memoryOutside s t pa 8))
      ∧ (∀ op tenant pa v, peerBytes op ≤ 256 → s.tenants.find tenant = some v →
          runInMap pa (peerBytes op) = false ∨ inRanges v.ranges pa (peerBytes op) = false →
          ∃ t, exec (.peerAccessArrive g peer op tenant .frame pa) s = .next t ∧ t.mem = s.mem ∧ t.ctxs = s.ctxs
            ∧ t.answers = s.answers ++ [(256 + peer, pa, [])] ∧ t.ras = s.ras ++ [.peerRefused peer pa]))

/-- The power-on sequence brings an unpowered package up: both measurements extended from zero, the poison directories and access counters cleared,
the owner's function bound, every die's column mapping set by its tile tests, two bad columns failing it, and the host link ready; a step n that
fails, or whose image is not accepted, stops it, and every function's mailbox STATUS shows 0x10 + n. Once it has run it changes nothing. The removal
of power leaves no device state: the package is as at reset, and only host memory and the peer packages keep theirs, beside what the model lists of
the world outside (R303, R306). That the owner's function is function 0 is the model's choice (log entry 3), and the measurement's hash and what makes
an image acceptable are taken from outside the spec (log entry 6). -/
def Sys2Proof.Claims.PowerComesAndGoes : Prop :=
  ∀ s : State,
    (s.ready = false → s.failStep = none →
      ∀ failStep bad peers, (∀ p ∈ s.groups, p.2.twin = none) → ∃ t, exec (.powerOn ⟨failStep, bad, peers⟩) s = .next t
        ∧ t.failStep = stopsAt failStep ∧ t.ready = (stopsAt failStep).isNone ∧ (t.fn 0).bind = .owner ∧ t.mem = s.mem ∧ t.queues = s.queues
        ∧ t.ctxs = s.ctxs
        ∧ (∀ n, stopsAt failStep = some n → ∀ f < 64, (t.fn f).rsp.read 0 0 = BitVec.ofNat 64 (0x10 + n))
        ∧ (let comesTo (k : Nat) : Prop := ∀ n, stopsAt failStep = some n → k ≤ n
          let completes (k : Nat) : Prop := ∀ n, stopsAt failStep = some n → k < n
          (comesTo 1 → t.meas0 = extend 0 (Config.image 1)) ∧ (¬ comesTo 1 → t.meas0 = 0)
          ∧ (comesTo 2 → t.meas1 = extend 0 (Config.image 2)) ∧ (¬ comesTo 2 → t.meas1 = 0)
          ∧ (completes 3 → t.poison = [] ∧ t.accCount = []) ∧ (¬ completes 3 → t.poison = s.poison ∧ t.accCount = s.accCount)
          ∧ (completes 4 → ∀ d < 4,
              ((∀ b ∈ bad, b.1 ≠ d) → (t.die d).retired = none)
              ∧ (∀ c, (∃ b ∈ bad, b.1 = d) → (∀ b ∈ bad, b.1 = d → b.2.1 = c) → (t.die d).retired = some c)
              ∧ ((∃ a ∈ bad, ∃ b ∈ bad, a.1 = d ∧ b.1 = d ∧ a.2.1 ≠ b.2.1) → (t.die d).failed = true))
          ∧ (completes 5 → ∀ d < 4, ∀ n < 255,
              ((∀ e ∈ peers, ¬ (e.1 = d ∧ e.2.1 = n)) → (t.die d).peerTab.find n = none)
              ∧ ∀ e ∈ peers, e.1 = d → e.2.1 = n → (∀ x ∈ peers, x.1 = d → x.2.1 = n → x = e) → (t.die d).peerTab.find n = some e.2.2)))
    ∧ (s.ready = true ∨ s.failStep ≠ none → ∀ found, exec (.powerOn found) s = .next s)
    ∧ ∃ m, exec .powerRemoval s = .next { State.reset with
          mem := m, peers := s.peers, irqs := s.irqs, answers := s.answers, agenda := s.agenda, free := s.free
          upsets := s.upsets.map fun p => (p.1 - s.clock, p.2) }
        ∧ (Memory.wf s.mem = true → ∀ a, readByte m a = if inHost a then readByte s.mem a else memDefault)

/-- The trace unit's periods. A traced context that has issued 4096 bundles since its last SYNC emits one: the packet of R309 with its PC and CTL.LCC
goes to its tile's block. Once a tile has issued a sample period's bundles for a node, SAMPLE is raised in the context that holds issue and the count
starts again. Otherwise nothing changes (R308 to R310). -/
def Sys2Proof.Claims.TraceUnitKeepsItsPeriods : Prop :=
  ∀ (s : State) (key : Nat) (c : Ctx), s.ctx? key = some c →
    (∀ r, s.traceRing c.node = some r →
      (4096 ≤ c.sinceSync → ∃ t c' l, exec (.traceSyncPeriod key) s = .next t ∧ t.ctx? key = some c' ∧ sameRegisters c c'
        ∧ c'.needSync = false ∧ c'.sinceSync = 0 ∧ (t.tile (key / 4)).tbuf.read [] r.base = l ++ syncPacket (key % 4) c)
      ∧ (c.sinceSync < 4096 → exec (.traceSyncPeriod key) s = .next s)
      ∧ (let n := (s.tile (key / 4)).bundles.read 0 c.node
        (r.period ≠ 0 → r.period ≤ n → (s.tile (key / 4)).holder = some (key % 4) → s.undo = [] →
          exec (.traceSamplePeriod key) s = .next (withCtx (s.setTile (key / 4)
            { s.tile (key / 4) with bundles := (s.tile (key / 4)).bundles.write 0 c.node (n - r.period) }) key { c with sample := true }))
        ∧ (r.period = 0 ∨ n < r.period ∨ (s.tile (key / 4)).holder ≠ some (key % 4) → exec (.traceSamplePeriod key) s = .next s)))
    ∧ (s.traceRing c.node = none → exec (.traceSyncPeriod key) s = .next s ∧ exec (.traceSamplePeriod key) s = .next s)

/-! ## Decoding, reset and the step -/

/-- Words written out from the encodings of the spec, one or more for every slot and for the header, decode to the instructions they stand for:
ADD s3, s3, #0x40 and LOOP #128 are the spec's own examples (R103 to R113). -/
def Obligations.WordsDecodeAsWritten : Prop :=
  ∀ p ∈ ([
    (400, 0x2100306000000040, .addImm (.s 3) (.s 3) 0x40),
    (400, 0x4C80000800000004, .loopImm 128 4),
    (400, 0x1150105140000000, .cmp .lt true (.s 1) (.s 2) (.latch 5)),
    (400, 0x5800000000000021, .trap 0x21),
    (400, 0x49108000FFFFFFFD, .brc .nez (.s 4) 0xFFFFFFFD),
    (400, 0x5100900000000011, .gts (.s 9) 17),
    (328, 0x1939002C815038000, .vadd ⟨false, .f32, ⟨3, true⟩, .nearest, .row 5⟩ (.head 2) (.scalar 7)),
    (256, 0x10200001800E000004, .vcmp ⟨true, ⟨0, false⟩, 3⟩ .i16 .gt (.row 1) .zero),
    (208, 0x16007009D00, .mma .ada true 7 9 true .i8),
    (176, 0x29030000, .xpop (.port 3)),
    (120, 0x33C00C04288400, .vldt ⟨3, 6⟩ (.row 12) 4 10 2 ⟨1, false⟩),
    (64, 0x22800805080060, .vst ⟨2, true⟩ (.row 8) 5 2 3 ⟨0, false⟩),
    (32, 0x44C60002, .cpfill 9 ⟨some 3, none, none⟩ 1),
    (0, 0x38006300, .fence .die 12),
    (0, 0xC131880, .atom .cas 2 3 6 .i64),
    (0, 0x6A028000, .lnctlSetref 5),
    (496, 0x5, .hold 5),
    (500, 0x2, .pop 2)] : List (Nat × Nat × Instr)), decodeTableWord 512 (bundleOf p.1 p.2.1) = some p.2.2

/-- Decoding an encoded instruction gives it back, for every well-formed instruction that has words of its own, with every operand at every value
that the encoding admits; its bundle fits 512 bits (R92 to R113). -/
def Obligations.DecodingUndoesEncoding : Prop :=
  ∀ i : Instr, i.wf = true → encodable i = true → encode i < 2 ^ 512 ∧ decodeTableWord 512 (encode i) = some i

/-- Reset: no power-on step has run; no context, group, node or access exists; every queue is DISABLED with a ring of 64 entries and counts 0; every
Mantle entry has RANK 0, VERSION 0 and no tenant; every function's CPEND and SPEND are 0 and its IMASK 0xF; every row threshold is 4096. Memory is in
its canonical form with nothing listed; that an unlisted byte reads 0 is the model's choice (log entry 2), as is the threshold of the access
counters (R69, R249, R283, R296, R303). -/
def Obligations.ResetHoldsTheStatedValues : Prop :=
  State.reset.ready = false ∧ Memory.wf State.reset.mem = true ∧ State.reset.mem = []
    ∧ (∀ key, State.reset.ctx? key = none) ∧ (∀ g, State.reset.group? g = none) ∧ (∀ n, State.reset.node? n = none) ∧ State.reset.accs = []
    ∧ (∀ q, (State.reset.queue q).st = .disabled ∧ (State.reset.queue q).log2n = 6 ∧ (State.reset.queue q).head = 0 ∧ (State.reset.queue q).tail = 0
        ∧ (State.reset.queue q).err = false ∧ (State.reset.queue q).frz = 0 ∧ (State.reset.queue q).owner = 0 ∧ (State.reset.queue q).base = 0)
    ∧ (∀ i, (State.reset.mantle.read .reset i).rank = 0 ∧ (State.reset.mantle.read .reset i).version = 0
        ∧ (State.reset.mantle.read .reset i).tenant = none)
    ∧ (∀ f, (State.reset.fn f).cpend = 0 ∧ (State.reset.fn f).spend = 0 ∧ (State.reset.fn f).imask = 0xF)
    ∧ (∀ d, (State.reset.die d).rowTh = 4096) ∧ (∀ b, State.reset.accCount.read 0 b = 0) ∧ State.reset.meas0 = 0 ∧ State.reset.meas1 = 0

/-- A step. When the bundle at the PC of the context whose turn it is decodes to one slot instruction i whose checks pass, and its twin, if any, has
come far enough, the step is exec of i in the issuing state, bits in error of the units that it reads put right, and then what follows a bundle, its
old copy counting its bytes in the undo log; without room there it stalls (log entry 49). A trap or a wait of the instruction's own check is taken in
the state before it, a trap once the results due and the loads of its window are in (R262, R265). What the agenda names, what the device does of its
own accord, and the power-on sequence are steps of exec too; with nothing left in a clock, the next one begins (R90, R114; the order among these is
the model's: log entry 1). -/
def Obligations.StepRunsTheDecodedInstruction : Prop :=
  (∀ (s : State) (key : Nat) (rest : List Nat) (c c0 : Ctx) (i : Instr), atTurn s key rest c → (issuing s key rest c).ctx? key = some c0 →
    aloneAtPc s key rest c c0 i → privileged c0 i = false →
    let s0 := issuing s key rest c
    let s1 : State := { s with round := rest }
    let s2 := s0.correctRead key c0 [i]
    (checksPass s0 key c0 i → s1.meetsBad c0 [i] = false → i ≠ .exit → i ≠ .rte → ∀ c2, s2.ctx? key = some c2 → checksPass s2 key c2 i →
      ∃ t, exec i s2 = .next t ∧
        let n := ((t.ctx? key).map (bundleBytesLogged c2)).getD 0
        let room := s0.logHeld (keyTile key) = 0 ∨ s0.logHeld (keyTile key) + n ≤ 163840
        (room → step s = .next ((t.afterBundle key c2 (decide (i = .loopx))).countLog key n)) ∧ (¬ room → step s = .next (s1.stallOn key 9)))
    ∧ (∀ cause sw, (slotOp i).own s0 key c0 = .trap cause sw →
      (c.entryWait = none → step s = .next (((s1.endStall key).touchFetch key c).slotTrap key i cause sw))
        ∧ ∀ n, c.entryWait = some n → step s = .next (s1.stallOn key n))
    ∧ (∀ n, (slotOp i).own s0 key c0 = .wait n → step s = .next (s1.stallOn key n)))
    ∧ (∀ (s : State) (i : Instr) (l : List Instr), s.agenda = i :: l → deviceStep i = true → step s = exec i { s with agenda := l })
    ∧ (∀ (s : State) (i : Instr), s.agenda = [] → s.ready = true → s.autoEvent = some i → step s = exec i s)
    ∧ (∀ s : State, s.agenda = [] → s.ready = false → s.failStep = none → step s = exec (.powerOn ⟨none, [], []⟩) s)
    ∧ (∀ s : State, s.agenda = [] → s.ready = true → s.autoEvent = none → s.round = [] → s.upsets = [] →
        ∃ t, step s = .next t ∧ t.clock = s.clock + 1 ∧ t.mem = s.mem ∧ t.ctxs = s.ctxs ∧ t.accs = s.accs)

/-- Every step keeps memory in its canonical form: addresses strictly rising, and none listed that holds what an unlisted byte reads as. -/
def Obligations.MemoryStaysCanonical : Prop :=
  ∀ s t : State, Memory.wf s.mem = true → step s = .next t → Memory.wf t.mem = true

/-! ## Statements of several parts -/

/-- The matrix slot: pushes, and the commands that set it up. -/
def Obligations.MatrixCommandsComplete : Prop :=
  Sys2Proof.Claims.MatrixPushesComplete ∧ Sys2Proof.Claims.MatrixSetupComplete

/-- The load slot: loads from TILE handles, of what is not there yet, through windows, and from tensors. -/
def Obligations.LoadsComplete : Prop :=
  Sys2Proof.Claims.TileLoadsComplete ∧ Sys2Proof.Claims.TensorLoadsStart ∧ Sys2Proof.Claims.LoadsBegin

/-- The store slot: stores to TILE handles, through windows, and to tensors. -/
def Obligations.StoresComplete : Prop :=
  Sys2Proof.Claims.TileStoresComplete ∧ Sys2Proof.Claims.TensorStoresComplete ∧ Sys2Proof.Claims.StoresBegin

/-- What replies bring: bytes of loads and fills, and compressed weight images. -/
def Obligations.RepliesBringTheBytes : Prop :=
  Sys2Proof.Claims.ReplyBringsTheBytes ∧ Sys2Proof.Claims.CompressedImagePlacesItsUnits

/-- Effects wait for the release horizon and perform; window accesses reach their target, and acknowledgements return the allowance. -/
def Obligations.EffectsReleaseAndPerform : Prop :=
  Sys2Proof.Claims.EffectsWaitForTheHorizon ∧ Sys2Proof.Claims.StoresPerform ∧ Sys2Proof.Claims.StoresPerformAhead
    ∧ Sys2Proof.Claims.WindowsReachTheirTarget ∧ Sys2Proof.Claims.AcknowledgementsReturnTheAllowance

/-- The copy slot: copies, fills and write-backs, and the order of a command's checks. -/
def Obligations.CopyCommandsIssue : Prop :=
  Sys2Proof.Claims.CopiesIssue ∧ Sys2Proof.Claims.HandleCommandsIssue ∧ Sys2Proof.Claims.CopyChecksComeInOrder

/-- Binding handles and tensor identifiers, at issue and when the engine completes it. -/
def Obligations.BindingsIssueAndComplete : Prop :=
  Sys2Proof.Claims.BindingsIssue ∧ Sys2Proof.Claims.HandleBindingCompletes ∧ Sys2Proof.Claims.TensorBindingCompletes

/-- The fields of handle and tensor descriptors. -/
def Obligations.DescriptorFieldsAreRead : Prop :=
  Sys2Proof.Claims.HandleDescriptorFields ∧ Sys2Proof.Claims.TensorDescriptorFields

/-- What the copy engine does: copies move units, and fills read the backing. -/
def Obligations.CopiesMoveTheirUnits : Prop :=
  Sys2Proof.Claims.CopiesMoveUnits ∧ Sys2Proof.Claims.FillsReadTheBacking

/-- The synchronisation slot: Buckle operations, and requests to the dispatcher and firmware. -/
def Obligations.SynchronisationIssues : Prop :=
  Sys2Proof.Claims.BuckleOperationsIssue ∧ Sys2Proof.Claims.RequestsIssue

/-- Waits, fences and drains, and the events that end them. -/
def Obligations.WaitsFencesAndDrainsComplete : Prop :=
  Sys2Proof.Claims.WaitsComplete ∧ Sys2Proof.Claims.FenceAndDrainComplete ∧ Sys2Proof.Claims.WaitEventsComplete

/-- Buckle operations perform at the home of their word. -/
def Obligations.WordsChangeAtHome : Prop :=
  Sys2Proof.Claims.AtomicsPerformAtHome ∧ Sys2Proof.Claims.ContributionsApplyInOrder ∧ Sys2Proof.Claims.ArrivalsCount

/-- Requests perform: page requests, launches and signals, Mantle images, shoot-downs, and operations queued at a Buckle. -/
def Obligations.RequestsAndSystemRequestsPerform : Prop :=
  Sys2Proof.Claims.RequestsPerform ∧ Sys2Proof.Claims.MantleImagesInstall ∧ Sys2Proof.Claims.ShootDownsClearTheTlbs ∧ Sys2Proof.Claims.QueuedOperationsGoOutInOrder

/-- The Lining: full computation, the delta path, the end of a command, and LNCTL. -/
def Obligations.LiningCommandsPerform : Prop :=
  Sys2Proof.Claims.LiningComputes ∧ Sys2Proof.Claims.LiningCommandsEnd ∧ Sys2Proof.Claims.LnctlChangesEntries

/-- Results and replies land, and messages travel in channel order. -/
def Obligations.ResultsLandAndMessagesTravel : Prop :=
  Sys2Proof.Claims.LandingWritesRegisters ∧ Sys2Proof.Claims.MessagesKeepChannelOrder

/-- Work queues: registers and commands, and the entries that the dispatcher takes. -/
def Obligations.QueuesFollowTheirTables : Prop :=
  Sys2Proof.Claims.QueueRegistersFollowTheirTable ∧ Sys2Proof.Claims.EntriesAreFetchedInOrder

/-- Priorities and their periods, and the selector's choice. -/
def Obligations.SchedulingFollowsPriority : Prop :=
  Sys2Proof.Claims.PrioritiesFollowTheirPeriods ∧ Sys2Proof.Claims.TheSelectorChoosesByPriority

/-- The host's signal block and memory window. -/
def Obligations.HostWindowsFollowTheirRules : Prop :=
  Sys2Proof.Claims.HostSignalsFollowTheirRules ∧ Sys2Proof.Claims.HostMemoryWindowReadsAndWrites

/-- Tile repair, row refreshes and the undo log, strikes, and errors of storage. -/
def Obligations.RepairAndRewindFollowTheirRules : Prop :=
  Sys2Proof.Claims.RepairFollowsItsRules ∧ Sys2Proof.Claims.StrikesRewindTheirGroups ∧ Sys2Proof.Claims.StorageErrorsFollowTheirCodes

/-- Links and peer packages, power, and the trace unit's periods. -/
def Obligations.LinksPowerAndTraceFollowTheirRules : Prop :=
  Sys2Proof.Claims.LinksAndPeersAnswer ∧ Sys2Proof.Claims.PowerComesAndGoes ∧ Sys2Proof.Claims.TraceUnitKeepsItsPeriods
end

