-- ==== Sys2Proof/Laws/State.lean ====
section
/-! SUPPORT. What each update of the state leaves as it was: one lemma for each field and update, so that no proof unfolds a record. -/

namespace Sys2Proof.Machine

/-! ## State.setCtx -/

@[simp] theorem State.setCtx_ready (s : State) (key : Nat) (c : Ctx) : (s.setCtx key c).ready = s.ready := rfl
@[simp] theorem State.setCtx_failStep (s : State) (key : Nat) (c : Ctx) : (s.setCtx key c).failStep = s.failStep := rfl
@[simp] theorem State.setCtx_clock (s : State) (key : Nat) (c : Ctx) : (s.setCtx key c).clock = s.clock := rfl
@[simp] theorem State.setCtx_mem (s : State) (key : Nat) (c : Ctx) : (s.setCtx key c).mem = s.mem := rfl
@[simp] theorem State.setCtx_poison (s : State) (key : Nat) (c : Ctx) : (s.setCtx key c).poison = s.poison := rfl
@[simp] theorem State.setCtx_wordPoison (s : State) (key : Nat) (c : Ctx) : (s.setCtx key c).wordPoison = s.wordPoison := rfl
@[simp] theorem State.setCtx_accCount (s : State) (key : Nat) (c : Ctx) : (s.setCtx key c).accCount = s.accCount := rfl
@[simp] theorem State.setCtx_rowCount (s : State) (key : Nat) (c : Ctx) : (s.setCtx key c).rowCount = s.rowCount := rfl
@[simp] theorem State.setCtx_refresh (s : State) (key : Nat) (c : Ctx) : (s.setCtx key c).refresh = s.refresh := rfl
@[simp] theorem State.setCtx_accesses (s : State) (key : Nat) (c : Ctx) : (s.setCtx key c).accesses = s.accesses := rfl
@[simp] theorem State.setCtx_dies (s : State) (key : Nat) (c : Ctx) : (s.setCtx key c).dies = s.dies := rfl
@[simp] theorem State.setCtx_tiles (s : State) (key : Nat) (c : Ctx) : (s.setCtx key c).tiles = s.tiles := rfl
@[simp] theorem State.setCtx_groups (s : State) (key : Nat) (c : Ctx) : (s.setCtx key c).groups = s.groups := rfl
@[simp] theorem State.setCtx_nodes (s : State) (key : Nat) (c : Ctx) : (s.setCtx key c).nodes = s.nodes := rfl
@[simp] theorem State.setCtx_queues (s : State) (key : Nat) (c : Ctx) : (s.setCtx key c).queues = s.queues := rfl
@[simp] theorem State.setCtx_btime (s : State) (key : Nat) (c : Ctx) : (s.setCtx key c).btime = s.btime := rfl
@[simp] theorem State.setCtx_period (s : State) (key : Nat) (c : Ctx) : (s.setCtx key c).period = s.period := rfl
@[simp] theorem State.setCtx_aging (s : State) (key : Nat) (c : Ctx) : (s.setCtx key c).aging = s.aging := rfl
@[simp] theorem State.setCtx_mantle (s : State) (key : Nat) (c : Ctx) : (s.setCtx key c).mantle = s.mantle := rfl
@[simp] theorem State.setCtx_tenants (s : State) (key : Nat) (c : Ctx) : (s.setCtx key c).tenants = s.tenants := rfl
@[simp] theorem State.setCtx_fns (s : State) (key : Nat) (c : Ctx) : (s.setCtx key c).fns = s.fns := rfl
@[simp] theorem State.setCtx_irqs (s : State) (key : Nat) (c : Ctx) : (s.setCtx key c).irqs = s.irqs := rfl
@[simp] theorem State.setCtx_answers (s : State) (key : Nat) (c : Ctx) : (s.setCtx key c).answers = s.answers := rfl
@[simp] theorem State.setCtx_peers (s : State) (key : Nat) (c : Ctx) : (s.setCtx key c).peers = s.peers := rfl
@[simp] theorem State.setCtx_meas0 (s : State) (key : Nat) (c : Ctx) : (s.setCtx key c).meas0 = s.meas0 := rfl
@[simp] theorem State.setCtx_meas1 (s : State) (key : Nat) (c : Ctx) : (s.setCtx key c).meas1 = s.meas1 := rfl
@[simp] theorem State.setCtx_ras (s : State) (key : Nat) (c : Ctx) : (s.setCtx key c).ras = s.ras := rfl
@[simp] theorem State.setCtx_rings (s : State) (key : Nat) (c : Ctx) : (s.setCtx key c).rings = s.rings := rfl
@[simp] theorem State.setCtx_accs (s : State) (key : Nat) (c : Ctx) : (s.setCtx key c).accs = s.accs := rfl
@[simp] theorem State.setCtx_streams (s : State) (key : Nat) (c : Ctx) : (s.setCtx key c).streams = s.streams := rfl
@[simp] theorem State.setCtx_flights (s : State) (key : Nat) (c : Ctx) : (s.setCtx key c).flights = s.flights := rfl
@[simp] theorem State.setCtx_sessions (s : State) (key : Nat) (c : Ctx) : (s.setCtx key c).sessions = s.sessions := rfl
@[simp] theorem State.setCtx_undo (s : State) (key : Nat) (c : Ctx) : (s.setCtx key c).undo = s.undo := rfl
@[simp] theorem State.setCtx_views (s : State) (key : Nat) (c : Ctx) : (s.setCtx key c).views = s.views := rfl
@[simp] theorem State.setCtx_quarantine (s : State) (key : Nat) (c : Ctx) : (s.setCtx key c).quarantine = s.quarantine := rfl
@[simp] theorem State.setCtx_ecc (s : State) (key : Nat) (c : Ctx) : (s.setCtx key c).ecc = s.ecc := rfl
@[simp] theorem State.setCtx_upsets (s : State) (key : Nat) (c : Ctx) : (s.setCtx key c).upsets = s.upsets := rfl
@[simp] theorem State.setCtx_agenda (s : State) (key : Nat) (c : Ctx) : (s.setCtx key c).agenda = s.agenda := rfl
@[simp] theorem State.setCtx_round (s : State) (key : Nat) (c : Ctx) : (s.setCtx key c).round = s.round := rfl
@[simp] theorem State.setCtx_cur (s : State) (key : Nat) (c : Ctx) : (s.setCtx key c).cur = s.cur := rfl
@[simp] theorem State.setCtx_nextId (s : State) (key : Nat) (c : Ctx) : (s.setCtx key c).nextId = s.nextId := rfl
@[simp] theorem State.setCtx_free (s : State) (key : Nat) (c : Ctx) : (s.setCtx key c).free = s.free := rfl

/-! ## State.mapCtx -/

@[simp] theorem State.mapCtx_ready (s : State) (key : Nat) (f : Ctx → Ctx) : (s.mapCtx key f).ready = s.ready := by unfold State.mapCtx; split <;> rfl
@[simp] theorem State.mapCtx_failStep (s : State) (key : Nat) (f : Ctx → Ctx) : (s.mapCtx key f).failStep = s.failStep := by unfold State.mapCtx; split <;> rfl
@[simp] theorem State.mapCtx_clock (s : State) (key : Nat) (f : Ctx → Ctx) : (s.mapCtx key f).clock = s.clock := by unfold State.mapCtx; split <;> rfl
@[simp] theorem State.mapCtx_mem (s : State) (key : Nat) (f : Ctx → Ctx) : (s.mapCtx key f).mem = s.mem := by unfold State.mapCtx; split <;> rfl
@[simp] theorem State.mapCtx_poison (s : State) (key : Nat) (f : Ctx → Ctx) : (s.mapCtx key f).poison = s.poison := by unfold State.mapCtx; split <;> rfl
@[simp] theorem State.mapCtx_wordPoison (s : State) (key : Nat) (f : Ctx → Ctx) : (s.mapCtx key f).wordPoison = s.wordPoison := by unfold State.mapCtx; split <;> rfl
@[simp] theorem State.mapCtx_accCount (s : State) (key : Nat) (f : Ctx → Ctx) : (s.mapCtx key f).accCount = s.accCount := by unfold State.mapCtx; split <;> rfl
@[simp] theorem State.mapCtx_rowCount (s : State) (key : Nat) (f : Ctx → Ctx) : (s.mapCtx key f).rowCount = s.rowCount := by unfold State.mapCtx; split <;> rfl
@[simp] theorem State.mapCtx_refresh (s : State) (key : Nat) (f : Ctx → Ctx) : (s.mapCtx key f).refresh = s.refresh := by unfold State.mapCtx; split <;> rfl
@[simp] theorem State.mapCtx_accesses (s : State) (key : Nat) (f : Ctx → Ctx) : (s.mapCtx key f).accesses = s.accesses := by unfold State.mapCtx; split <;> rfl
@[simp] theorem State.mapCtx_dies (s : State) (key : Nat) (f : Ctx → Ctx) : (s.mapCtx key f).dies = s.dies := by unfold State.mapCtx; split <;> rfl
@[simp] theorem State.mapCtx_tiles (s : State) (key : Nat) (f : Ctx → Ctx) : (s.mapCtx key f).tiles = s.tiles := by unfold State.mapCtx; split <;> rfl
@[simp] theorem State.mapCtx_groups (s : State) (key : Nat) (f : Ctx → Ctx) : (s.mapCtx key f).groups = s.groups := by unfold State.mapCtx; split <;> rfl
@[simp] theorem State.mapCtx_nodes (s : State) (key : Nat) (f : Ctx → Ctx) : (s.mapCtx key f).nodes = s.nodes := by unfold State.mapCtx; split <;> rfl
@[simp] theorem State.mapCtx_queues (s : State) (key : Nat) (f : Ctx → Ctx) : (s.mapCtx key f).queues = s.queues := by unfold State.mapCtx; split <;> rfl
@[simp] theorem State.mapCtx_btime (s : State) (key : Nat) (f : Ctx → Ctx) : (s.mapCtx key f).btime = s.btime := by unfold State.mapCtx; split <;> rfl
@[simp] theorem State.mapCtx_period (s : State) (key : Nat) (f : Ctx → Ctx) : (s.mapCtx key f).period = s.period := by unfold State.mapCtx; split <;> rfl
@[simp] theorem State.mapCtx_aging (s : State) (key : Nat) (f : Ctx → Ctx) : (s.mapCtx key f).aging = s.aging := by unfold State.mapCtx; split <;> rfl
@[simp] theorem State.mapCtx_mantle (s : State) (key : Nat) (f : Ctx → Ctx) : (s.mapCtx key f).mantle = s.mantle := by unfold State.mapCtx; split <;> rfl
@[simp] theorem State.mapCtx_tenants (s : State) (key : Nat) (f : Ctx → Ctx) : (s.mapCtx key f).tenants = s.tenants := by unfold State.mapCtx; split <;> rfl
@[simp] theorem State.mapCtx_fns (s : State) (key : Nat) (f : Ctx → Ctx) : (s.mapCtx key f).fns = s.fns := by unfold State.mapCtx; split <;> rfl
@[simp] theorem State.mapCtx_irqs (s : State) (key : Nat) (f : Ctx → Ctx) : (s.mapCtx key f).irqs = s.irqs := by unfold State.mapCtx; split <;> rfl
@[simp] theorem State.mapCtx_answers (s : State) (key : Nat) (f : Ctx → Ctx) : (s.mapCtx key f).answers = s.answers := by unfold State.mapCtx; split <;> rfl
@[simp] theorem State.mapCtx_peers (s : State) (key : Nat) (f : Ctx → Ctx) : (s.mapCtx key f).peers = s.peers := by unfold State.mapCtx; split <;> rfl
@[simp] theorem State.mapCtx_meas0 (s : State) (key : Nat) (f : Ctx → Ctx) : (s.mapCtx key f).meas0 = s.meas0 := by unfold State.mapCtx; split <;> rfl
@[simp] theorem State.mapCtx_meas1 (s : State) (key : Nat) (f : Ctx → Ctx) : (s.mapCtx key f).meas1 = s.meas1 := by unfold State.mapCtx; split <;> rfl
@[simp] theorem State.mapCtx_ras (s : State) (key : Nat) (f : Ctx → Ctx) : (s.mapCtx key f).ras = s.ras := by unfold State.mapCtx; split <;> rfl
@[simp] theorem State.mapCtx_rings (s : State) (key : Nat) (f : Ctx → Ctx) : (s.mapCtx key f).rings = s.rings := by unfold State.mapCtx; split <;> rfl
@[simp] theorem State.mapCtx_accs (s : State) (key : Nat) (f : Ctx → Ctx) : (s.mapCtx key f).accs = s.accs := by unfold State.mapCtx; split <;> rfl
@[simp] theorem State.mapCtx_streams (s : State) (key : Nat) (f : Ctx → Ctx) : (s.mapCtx key f).streams = s.streams := by unfold State.mapCtx; split <;> rfl
@[simp] theorem State.mapCtx_flights (s : State) (key : Nat) (f : Ctx → Ctx) : (s.mapCtx key f).flights = s.flights := by unfold State.mapCtx; split <;> rfl
@[simp] theorem State.mapCtx_sessions (s : State) (key : Nat) (f : Ctx → Ctx) : (s.mapCtx key f).sessions = s.sessions := by unfold State.mapCtx; split <;> rfl
@[simp] theorem State.mapCtx_undo (s : State) (key : Nat) (f : Ctx → Ctx) : (s.mapCtx key f).undo = s.undo := by unfold State.mapCtx; split <;> rfl
@[simp] theorem State.mapCtx_views (s : State) (key : Nat) (f : Ctx → Ctx) : (s.mapCtx key f).views = s.views := by unfold State.mapCtx; split <;> rfl
@[simp] theorem State.mapCtx_quarantine (s : State) (key : Nat) (f : Ctx → Ctx) : (s.mapCtx key f).quarantine = s.quarantine := by unfold State.mapCtx; split <;> rfl
@[simp] theorem State.mapCtx_ecc (s : State) (key : Nat) (f : Ctx → Ctx) : (s.mapCtx key f).ecc = s.ecc := by unfold State.mapCtx; split <;> rfl
@[simp] theorem State.mapCtx_upsets (s : State) (key : Nat) (f : Ctx → Ctx) : (s.mapCtx key f).upsets = s.upsets := by unfold State.mapCtx; split <;> rfl
@[simp] theorem State.mapCtx_agenda (s : State) (key : Nat) (f : Ctx → Ctx) : (s.mapCtx key f).agenda = s.agenda := by unfold State.mapCtx; split <;> rfl
@[simp] theorem State.mapCtx_round (s : State) (key : Nat) (f : Ctx → Ctx) : (s.mapCtx key f).round = s.round := by unfold State.mapCtx; split <;> rfl
@[simp] theorem State.mapCtx_cur (s : State) (key : Nat) (f : Ctx → Ctx) : (s.mapCtx key f).cur = s.cur := by unfold State.mapCtx; split <;> rfl
@[simp] theorem State.mapCtx_nextId (s : State) (key : Nat) (f : Ctx → Ctx) : (s.mapCtx key f).nextId = s.nextId := by unfold State.mapCtx; split <;> rfl
@[simp] theorem State.mapCtx_free (s : State) (key : Nat) (f : Ctx → Ctx) : (s.mapCtx key f).free = s.free := by unfold State.mapCtx; split <;> rfl

/-! ## State.setTile -/

@[simp] theorem State.setTile_ready (s : State) (t : Nat) (v : Tile) : (s.setTile t v).ready = s.ready := rfl
@[simp] theorem State.setTile_failStep (s : State) (t : Nat) (v : Tile) : (s.setTile t v).failStep = s.failStep := rfl
@[simp] theorem State.setTile_clock (s : State) (t : Nat) (v : Tile) : (s.setTile t v).clock = s.clock := rfl
@[simp] theorem State.setTile_mem (s : State) (t : Nat) (v : Tile) : (s.setTile t v).mem = s.mem := rfl
@[simp] theorem State.setTile_poison (s : State) (t : Nat) (v : Tile) : (s.setTile t v).poison = s.poison := rfl
@[simp] theorem State.setTile_wordPoison (s : State) (t : Nat) (v : Tile) : (s.setTile t v).wordPoison = s.wordPoison := rfl
@[simp] theorem State.setTile_accCount (s : State) (t : Nat) (v : Tile) : (s.setTile t v).accCount = s.accCount := rfl
@[simp] theorem State.setTile_rowCount (s : State) (t : Nat) (v : Tile) : (s.setTile t v).rowCount = s.rowCount := rfl
@[simp] theorem State.setTile_refresh (s : State) (t : Nat) (v : Tile) : (s.setTile t v).refresh = s.refresh := rfl
@[simp] theorem State.setTile_accesses (s : State) (t : Nat) (v : Tile) : (s.setTile t v).accesses = s.accesses := rfl
@[simp] theorem State.setTile_dies (s : State) (t : Nat) (v : Tile) : (s.setTile t v).dies = s.dies := rfl
@[simp] theorem State.setTile_ctxs (s : State) (t : Nat) (v : Tile) : (s.setTile t v).ctxs = s.ctxs := rfl
@[simp] theorem State.setTile_groups (s : State) (t : Nat) (v : Tile) : (s.setTile t v).groups = s.groups := rfl
@[simp] theorem State.setTile_nodes (s : State) (t : Nat) (v : Tile) : (s.setTile t v).nodes = s.nodes := rfl
@[simp] theorem State.setTile_queues (s : State) (t : Nat) (v : Tile) : (s.setTile t v).queues = s.queues := rfl
@[simp] theorem State.setTile_btime (s : State) (t : Nat) (v : Tile) : (s.setTile t v).btime = s.btime := rfl
@[simp] theorem State.setTile_period (s : State) (t : Nat) (v : Tile) : (s.setTile t v).period = s.period := rfl
@[simp] theorem State.setTile_aging (s : State) (t : Nat) (v : Tile) : (s.setTile t v).aging = s.aging := rfl
@[simp] theorem State.setTile_mantle (s : State) (t : Nat) (v : Tile) : (s.setTile t v).mantle = s.mantle := rfl
@[simp] theorem State.setTile_tenants (s : State) (t : Nat) (v : Tile) : (s.setTile t v).tenants = s.tenants := rfl
@[simp] theorem State.setTile_fns (s : State) (t : Nat) (v : Tile) : (s.setTile t v).fns = s.fns := rfl
@[simp] theorem State.setTile_irqs (s : State) (t : Nat) (v : Tile) : (s.setTile t v).irqs = s.irqs := rfl
@[simp] theorem State.setTile_answers (s : State) (t : Nat) (v : Tile) : (s.setTile t v).answers = s.answers := rfl
@[simp] theorem State.setTile_peers (s : State) (t : Nat) (v : Tile) : (s.setTile t v).peers = s.peers := rfl
@[simp] theorem State.setTile_meas0 (s : State) (t : Nat) (v : Tile) : (s.setTile t v).meas0 = s.meas0 := rfl
@[simp] theorem State.setTile_meas1 (s : State) (t : Nat) (v : Tile) : (s.setTile t v).meas1 = s.meas1 := rfl
@[simp] theorem State.setTile_ras (s : State) (t : Nat) (v : Tile) : (s.setTile t v).ras = s.ras := rfl
@[simp] theorem State.setTile_rings (s : State) (t : Nat) (v : Tile) : (s.setTile t v).rings = s.rings := rfl
@[simp] theorem State.setTile_accs (s : State) (t : Nat) (v : Tile) : (s.setTile t v).accs = s.accs := rfl
@[simp] theorem State.setTile_streams (s : State) (t : Nat) (v : Tile) : (s.setTile t v).streams = s.streams := rfl
@[simp] theorem State.setTile_flights (s : State) (t : Nat) (v : Tile) : (s.setTile t v).flights = s.flights := rfl
@[simp] theorem State.setTile_sessions (s : State) (t : Nat) (v : Tile) : (s.setTile t v).sessions = s.sessions := rfl
@[simp] theorem State.setTile_undo (s : State) (t : Nat) (v : Tile) : (s.setTile t v).undo = s.undo := rfl
@[simp] theorem State.setTile_views (s : State) (t : Nat) (v : Tile) : (s.setTile t v).views = s.views := rfl
@[simp] theorem State.setTile_quarantine (s : State) (t : Nat) (v : Tile) : (s.setTile t v).quarantine = s.quarantine := rfl
@[simp] theorem State.setTile_ecc (s : State) (t : Nat) (v : Tile) : (s.setTile t v).ecc = s.ecc := rfl
@[simp] theorem State.setTile_upsets (s : State) (t : Nat) (v : Tile) : (s.setTile t v).upsets = s.upsets := rfl
@[simp] theorem State.setTile_agenda (s : State) (t : Nat) (v : Tile) : (s.setTile t v).agenda = s.agenda := rfl
@[simp] theorem State.setTile_round (s : State) (t : Nat) (v : Tile) : (s.setTile t v).round = s.round := rfl
@[simp] theorem State.setTile_cur (s : State) (t : Nat) (v : Tile) : (s.setTile t v).cur = s.cur := rfl
@[simp] theorem State.setTile_nextId (s : State) (t : Nat) (v : Tile) : (s.setTile t v).nextId = s.nextId := rfl
@[simp] theorem State.setTile_free (s : State) (t : Nat) (v : Tile) : (s.setTile t v).free = s.free := rfl

/-! ## State.mapTile -/

@[simp] theorem State.mapTile_ready (s : State) (t : Nat) (f : Tile → Tile) : (s.mapTile t f).ready = s.ready := rfl
@[simp] theorem State.mapTile_failStep (s : State) (t : Nat) (f : Tile → Tile) : (s.mapTile t f).failStep = s.failStep := rfl
@[simp] theorem State.mapTile_clock (s : State) (t : Nat) (f : Tile → Tile) : (s.mapTile t f).clock = s.clock := rfl
@[simp] theorem State.mapTile_mem (s : State) (t : Nat) (f : Tile → Tile) : (s.mapTile t f).mem = s.mem := rfl
@[simp] theorem State.mapTile_poison (s : State) (t : Nat) (f : Tile → Tile) : (s.mapTile t f).poison = s.poison := rfl
@[simp] theorem State.mapTile_wordPoison (s : State) (t : Nat) (f : Tile → Tile) : (s.mapTile t f).wordPoison = s.wordPoison := rfl
@[simp] theorem State.mapTile_accCount (s : State) (t : Nat) (f : Tile → Tile) : (s.mapTile t f).accCount = s.accCount := rfl
@[simp] theorem State.mapTile_rowCount (s : State) (t : Nat) (f : Tile → Tile) : (s.mapTile t f).rowCount = s.rowCount := rfl
@[simp] theorem State.mapTile_refresh (s : State) (t : Nat) (f : Tile → Tile) : (s.mapTile t f).refresh = s.refresh := rfl
@[simp] theorem State.mapTile_accesses (s : State) (t : Nat) (f : Tile → Tile) : (s.mapTile t f).accesses = s.accesses := rfl
@[simp] theorem State.mapTile_dies (s : State) (t : Nat) (f : Tile → Tile) : (s.mapTile t f).dies = s.dies := rfl
@[simp] theorem State.mapTile_ctxs (s : State) (t : Nat) (f : Tile → Tile) : (s.mapTile t f).ctxs = s.ctxs := rfl
@[simp] theorem State.mapTile_groups (s : State) (t : Nat) (f : Tile → Tile) : (s.mapTile t f).groups = s.groups := rfl
@[simp] theorem State.mapTile_nodes (s : State) (t : Nat) (f : Tile → Tile) : (s.mapTile t f).nodes = s.nodes := rfl
@[simp] theorem State.mapTile_queues (s : State) (t : Nat) (f : Tile → Tile) : (s.mapTile t f).queues = s.queues := rfl
@[simp] theorem State.mapTile_btime (s : State) (t : Nat) (f : Tile → Tile) : (s.mapTile t f).btime = s.btime := rfl
@[simp] theorem State.mapTile_period (s : State) (t : Nat) (f : Tile → Tile) : (s.mapTile t f).period = s.period := rfl
@[simp] theorem State.mapTile_aging (s : State) (t : Nat) (f : Tile → Tile) : (s.mapTile t f).aging = s.aging := rfl
@[simp] theorem State.mapTile_mantle (s : State) (t : Nat) (f : Tile → Tile) : (s.mapTile t f).mantle = s.mantle := rfl
@[simp] theorem State.mapTile_tenants (s : State) (t : Nat) (f : Tile → Tile) : (s.mapTile t f).tenants = s.tenants := rfl
@[simp] theorem State.mapTile_fns (s : State) (t : Nat) (f : Tile → Tile) : (s.mapTile t f).fns = s.fns := rfl
@[simp] theorem State.mapTile_irqs (s : State) (t : Nat) (f : Tile → Tile) : (s.mapTile t f).irqs = s.irqs := rfl
@[simp] theorem State.mapTile_answers (s : State) (t : Nat) (f : Tile → Tile) : (s.mapTile t f).answers = s.answers := rfl
@[simp] theorem State.mapTile_peers (s : State) (t : Nat) (f : Tile → Tile) : (s.mapTile t f).peers = s.peers := rfl
@[simp] theorem State.mapTile_meas0 (s : State) (t : Nat) (f : Tile → Tile) : (s.mapTile t f).meas0 = s.meas0 := rfl
@[simp] theorem State.mapTile_meas1 (s : State) (t : Nat) (f : Tile → Tile) : (s.mapTile t f).meas1 = s.meas1 := rfl
@[simp] theorem State.mapTile_ras (s : State) (t : Nat) (f : Tile → Tile) : (s.mapTile t f).ras = s.ras := rfl
@[simp] theorem State.mapTile_rings (s : State) (t : Nat) (f : Tile → Tile) : (s.mapTile t f).rings = s.rings := rfl
@[simp] theorem State.mapTile_accs (s : State) (t : Nat) (f : Tile → Tile) : (s.mapTile t f).accs = s.accs := rfl
@[simp] theorem State.mapTile_streams (s : State) (t : Nat) (f : Tile → Tile) : (s.mapTile t f).streams = s.streams := rfl
@[simp] theorem State.mapTile_flights (s : State) (t : Nat) (f : Tile → Tile) : (s.mapTile t f).flights = s.flights := rfl
@[simp] theorem State.mapTile_sessions (s : State) (t : Nat) (f : Tile → Tile) : (s.mapTile t f).sessions = s.sessions := rfl
@[simp] theorem State.mapTile_undo (s : State) (t : Nat) (f : Tile → Tile) : (s.mapTile t f).undo = s.undo := rfl
@[simp] theorem State.mapTile_views (s : State) (t : Nat) (f : Tile → Tile) : (s.mapTile t f).views = s.views := rfl
@[simp] theorem State.mapTile_quarantine (s : State) (t : Nat) (f : Tile → Tile) : (s.mapTile t f).quarantine = s.quarantine := rfl
@[simp] theorem State.mapTile_ecc (s : State) (t : Nat) (f : Tile → Tile) : (s.mapTile t f).ecc = s.ecc := rfl
@[simp] theorem State.mapTile_upsets (s : State) (t : Nat) (f : Tile → Tile) : (s.mapTile t f).upsets = s.upsets := rfl
@[simp] theorem State.mapTile_agenda (s : State) (t : Nat) (f : Tile → Tile) : (s.mapTile t f).agenda = s.agenda := rfl
@[simp] theorem State.mapTile_round (s : State) (t : Nat) (f : Tile → Tile) : (s.mapTile t f).round = s.round := rfl
@[simp] theorem State.mapTile_cur (s : State) (t : Nat) (f : Tile → Tile) : (s.mapTile t f).cur = s.cur := rfl
@[simp] theorem State.mapTile_nextId (s : State) (t : Nat) (f : Tile → Tile) : (s.mapTile t f).nextId = s.nextId := rfl
@[simp] theorem State.mapTile_free (s : State) (t : Nat) (f : Tile → Tile) : (s.mapTile t f).free = s.free := rfl

/-! ## State.mapDie -/

@[simp] theorem State.mapDie_ready (s : State) (d : Nat) (f : Die → Die) : (s.mapDie d f).ready = s.ready := rfl
@[simp] theorem State.mapDie_failStep (s : State) (d : Nat) (f : Die → Die) : (s.mapDie d f).failStep = s.failStep := rfl
@[simp] theorem State.mapDie_clock (s : State) (d : Nat) (f : Die → Die) : (s.mapDie d f).clock = s.clock := rfl
@[simp] theorem State.mapDie_mem (s : State) (d : Nat) (f : Die → Die) : (s.mapDie d f).mem = s.mem := rfl
@[simp] theorem State.mapDie_poison (s : State) (d : Nat) (f : Die → Die) : (s.mapDie d f).poison = s.poison := rfl
@[simp] theorem State.mapDie_wordPoison (s : State) (d : Nat) (f : Die → Die) : (s.mapDie d f).wordPoison = s.wordPoison := rfl
@[simp] theorem State.mapDie_accCount (s : State) (d : Nat) (f : Die → Die) : (s.mapDie d f).accCount = s.accCount := rfl
@[simp] theorem State.mapDie_rowCount (s : State) (d : Nat) (f : Die → Die) : (s.mapDie d f).rowCount = s.rowCount := rfl
@[simp] theorem State.mapDie_refresh (s : State) (d : Nat) (f : Die → Die) : (s.mapDie d f).refresh = s.refresh := rfl
@[simp] theorem State.mapDie_accesses (s : State) (d : Nat) (f : Die → Die) : (s.mapDie d f).accesses = s.accesses := rfl
@[simp] theorem State.mapDie_tiles (s : State) (d : Nat) (f : Die → Die) : (s.mapDie d f).tiles = s.tiles := rfl
@[simp] theorem State.mapDie_ctxs (s : State) (d : Nat) (f : Die → Die) : (s.mapDie d f).ctxs = s.ctxs := rfl
@[simp] theorem State.mapDie_groups (s : State) (d : Nat) (f : Die → Die) : (s.mapDie d f).groups = s.groups := rfl
@[simp] theorem State.mapDie_nodes (s : State) (d : Nat) (f : Die → Die) : (s.mapDie d f).nodes = s.nodes := rfl
@[simp] theorem State.mapDie_queues (s : State) (d : Nat) (f : Die → Die) : (s.mapDie d f).queues = s.queues := rfl
@[simp] theorem State.mapDie_btime (s : State) (d : Nat) (f : Die → Die) : (s.mapDie d f).btime = s.btime := rfl
@[simp] theorem State.mapDie_period (s : State) (d : Nat) (f : Die → Die) : (s.mapDie d f).period = s.period := rfl
@[simp] theorem State.mapDie_aging (s : State) (d : Nat) (f : Die → Die) : (s.mapDie d f).aging = s.aging := rfl
@[simp] theorem State.mapDie_mantle (s : State) (d : Nat) (f : Die → Die) : (s.mapDie d f).mantle = s.mantle := rfl
@[simp] theorem State.mapDie_tenants (s : State) (d : Nat) (f : Die → Die) : (s.mapDie d f).tenants = s.tenants := rfl
@[simp] theorem State.mapDie_fns (s : State) (d : Nat) (f : Die → Die) : (s.mapDie d f).fns = s.fns := rfl
@[simp] theorem State.mapDie_irqs (s : State) (d : Nat) (f : Die → Die) : (s.mapDie d f).irqs = s.irqs := rfl
@[simp] theorem State.mapDie_answers (s : State) (d : Nat) (f : Die → Die) : (s.mapDie d f).answers = s.answers := rfl
@[simp] theorem State.mapDie_peers (s : State) (d : Nat) (f : Die → Die) : (s.mapDie d f).peers = s.peers := rfl
@[simp] theorem State.mapDie_meas0 (s : State) (d : Nat) (f : Die → Die) : (s.mapDie d f).meas0 = s.meas0 := rfl
@[simp] theorem State.mapDie_meas1 (s : State) (d : Nat) (f : Die → Die) : (s.mapDie d f).meas1 = s.meas1 := rfl
@[simp] theorem State.mapDie_ras (s : State) (d : Nat) (f : Die → Die) : (s.mapDie d f).ras = s.ras := rfl
@[simp] theorem State.mapDie_rings (s : State) (d : Nat) (f : Die → Die) : (s.mapDie d f).rings = s.rings := rfl
@[simp] theorem State.mapDie_accs (s : State) (d : Nat) (f : Die → Die) : (s.mapDie d f).accs = s.accs := rfl
@[simp] theorem State.mapDie_streams (s : State) (d : Nat) (f : Die → Die) : (s.mapDie d f).streams = s.streams := rfl
@[simp] theorem State.mapDie_flights (s : State) (d : Nat) (f : Die → Die) : (s.mapDie d f).flights = s.flights := rfl
@[simp] theorem State.mapDie_sessions (s : State) (d : Nat) (f : Die → Die) : (s.mapDie d f).sessions = s.sessions := rfl
@[simp] theorem State.mapDie_undo (s : State) (d : Nat) (f : Die → Die) : (s.mapDie d f).undo = s.undo := rfl
@[simp] theorem State.mapDie_views (s : State) (d : Nat) (f : Die → Die) : (s.mapDie d f).views = s.views := rfl
@[simp] theorem State.mapDie_quarantine (s : State) (d : Nat) (f : Die → Die) : (s.mapDie d f).quarantine = s.quarantine := rfl
@[simp] theorem State.mapDie_ecc (s : State) (d : Nat) (f : Die → Die) : (s.mapDie d f).ecc = s.ecc := rfl
@[simp] theorem State.mapDie_upsets (s : State) (d : Nat) (f : Die → Die) : (s.mapDie d f).upsets = s.upsets := rfl
@[simp] theorem State.mapDie_agenda (s : State) (d : Nat) (f : Die → Die) : (s.mapDie d f).agenda = s.agenda := rfl
@[simp] theorem State.mapDie_round (s : State) (d : Nat) (f : Die → Die) : (s.mapDie d f).round = s.round := rfl
@[simp] theorem State.mapDie_cur (s : State) (d : Nat) (f : Die → Die) : (s.mapDie d f).cur = s.cur := rfl
@[simp] theorem State.mapDie_nextId (s : State) (d : Nat) (f : Die → Die) : (s.mapDie d f).nextId = s.nextId := rfl
@[simp] theorem State.mapDie_free (s : State) (d : Nat) (f : Die → Die) : (s.mapDie d f).free = s.free := rfl

/-! ## State.mapGroup -/

@[simp] theorem State.mapGroup_ready (s : State) (g : Nat) (f : Group → Group) : (s.mapGroup g f).ready = s.ready := by unfold State.mapGroup; split <;> rfl
@[simp] theorem State.mapGroup_failStep (s : State) (g : Nat) (f : Group → Group) : (s.mapGroup g f).failStep = s.failStep := by unfold State.mapGroup; split <;> rfl
@[simp] theorem State.mapGroup_clock (s : State) (g : Nat) (f : Group → Group) : (s.mapGroup g f).clock = s.clock := by unfold State.mapGroup; split <;> rfl
@[simp] theorem State.mapGroup_mem (s : State) (g : Nat) (f : Group → Group) : (s.mapGroup g f).mem = s.mem := by unfold State.mapGroup; split <;> rfl
@[simp] theorem State.mapGroup_poison (s : State) (g : Nat) (f : Group → Group) : (s.mapGroup g f).poison = s.poison := by unfold State.mapGroup; split <;> rfl
@[simp] theorem State.mapGroup_wordPoison (s : State) (g : Nat) (f : Group → Group) : (s.mapGroup g f).wordPoison = s.wordPoison := by unfold State.mapGroup; split <;> rfl
@[simp] theorem State.mapGroup_accCount (s : State) (g : Nat) (f : Group → Group) : (s.mapGroup g f).accCount = s.accCount := by unfold State.mapGroup; split <;> rfl
@[simp] theorem State.mapGroup_rowCount (s : State) (g : Nat) (f : Group → Group) : (s.mapGroup g f).rowCount = s.rowCount := by unfold State.mapGroup; split <;> rfl
@[simp] theorem State.mapGroup_refresh (s : State) (g : Nat) (f : Group → Group) : (s.mapGroup g f).refresh = s.refresh := by unfold State.mapGroup; split <;> rfl
@[simp] theorem State.mapGroup_accesses (s : State) (g : Nat) (f : Group → Group) : (s.mapGroup g f).accesses = s.accesses := by unfold State.mapGroup; split <;> rfl
@[simp] theorem State.mapGroup_dies (s : State) (g : Nat) (f : Group → Group) : (s.mapGroup g f).dies = s.dies := by unfold State.mapGroup; split <;> rfl
@[simp] theorem State.mapGroup_tiles (s : State) (g : Nat) (f : Group → Group) : (s.mapGroup g f).tiles = s.tiles := by unfold State.mapGroup; split <;> rfl
@[simp] theorem State.mapGroup_ctxs (s : State) (g : Nat) (f : Group → Group) : (s.mapGroup g f).ctxs = s.ctxs := by unfold State.mapGroup; split <;> rfl
@[simp] theorem State.mapGroup_nodes (s : State) (g : Nat) (f : Group → Group) : (s.mapGroup g f).nodes = s.nodes := by unfold State.mapGroup; split <;> rfl
@[simp] theorem State.mapGroup_queues (s : State) (g : Nat) (f : Group → Group) : (s.mapGroup g f).queues = s.queues := by unfold State.mapGroup; split <;> rfl
@[simp] theorem State.mapGroup_btime (s : State) (g : Nat) (f : Group → Group) : (s.mapGroup g f).btime = s.btime := by unfold State.mapGroup; split <;> rfl
@[simp] theorem State.mapGroup_period (s : State) (g : Nat) (f : Group → Group) : (s.mapGroup g f).period = s.period := by unfold State.mapGroup; split <;> rfl
@[simp] theorem State.mapGroup_aging (s : State) (g : Nat) (f : Group → Group) : (s.mapGroup g f).aging = s.aging := by unfold State.mapGroup; split <;> rfl
@[simp] theorem State.mapGroup_mantle (s : State) (g : Nat) (f : Group → Group) : (s.mapGroup g f).mantle = s.mantle := by unfold State.mapGroup; split <;> rfl
@[simp] theorem State.mapGroup_tenants (s : State) (g : Nat) (f : Group → Group) : (s.mapGroup g f).tenants = s.tenants := by unfold State.mapGroup; split <;> rfl
@[simp] theorem State.mapGroup_fns (s : State) (g : Nat) (f : Group → Group) : (s.mapGroup g f).fns = s.fns := by unfold State.mapGroup; split <;> rfl
@[simp] theorem State.mapGroup_irqs (s : State) (g : Nat) (f : Group → Group) : (s.mapGroup g f).irqs = s.irqs := by unfold State.mapGroup; split <;> rfl
@[simp] theorem State.mapGroup_answers (s : State) (g : Nat) (f : Group → Group) : (s.mapGroup g f).answers = s.answers := by unfold State.mapGroup; split <;> rfl
@[simp] theorem State.mapGroup_peers (s : State) (g : Nat) (f : Group → Group) : (s.mapGroup g f).peers = s.peers := by unfold State.mapGroup; split <;> rfl
@[simp] theorem State.mapGroup_meas0 (s : State) (g : Nat) (f : Group → Group) : (s.mapGroup g f).meas0 = s.meas0 := by unfold State.mapGroup; split <;> rfl
@[simp] theorem State.mapGroup_meas1 (s : State) (g : Nat) (f : Group → Group) : (s.mapGroup g f).meas1 = s.meas1 := by unfold State.mapGroup; split <;> rfl
@[simp] theorem State.mapGroup_ras (s : State) (g : Nat) (f : Group → Group) : (s.mapGroup g f).ras = s.ras := by unfold State.mapGroup; split <;> rfl
@[simp] theorem State.mapGroup_rings (s : State) (g : Nat) (f : Group → Group) : (s.mapGroup g f).rings = s.rings := by unfold State.mapGroup; split <;> rfl
@[simp] theorem State.mapGroup_accs (s : State) (g : Nat) (f : Group → Group) : (s.mapGroup g f).accs = s.accs := by unfold State.mapGroup; split <;> rfl
@[simp] theorem State.mapGroup_streams (s : State) (g : Nat) (f : Group → Group) : (s.mapGroup g f).streams = s.streams := by unfold State.mapGroup; split <;> rfl
@[simp] theorem State.mapGroup_flights (s : State) (g : Nat) (f : Group → Group) : (s.mapGroup g f).flights = s.flights := by unfold State.mapGroup; split <;> rfl
@[simp] theorem State.mapGroup_sessions (s : State) (g : Nat) (f : Group → Group) : (s.mapGroup g f).sessions = s.sessions := by unfold State.mapGroup; split <;> rfl
@[simp] theorem State.mapGroup_undo (s : State) (g : Nat) (f : Group → Group) : (s.mapGroup g f).undo = s.undo := by unfold State.mapGroup; split <;> rfl
@[simp] theorem State.mapGroup_views (s : State) (g : Nat) (f : Group → Group) : (s.mapGroup g f).views = s.views := by unfold State.mapGroup; split <;> rfl
@[simp] theorem State.mapGroup_quarantine (s : State) (g : Nat) (f : Group → Group) : (s.mapGroup g f).quarantine = s.quarantine := by unfold State.mapGroup; split <;> rfl
@[simp] theorem State.mapGroup_ecc (s : State) (g : Nat) (f : Group → Group) : (s.mapGroup g f).ecc = s.ecc := by unfold State.mapGroup; split <;> rfl
@[simp] theorem State.mapGroup_upsets (s : State) (g : Nat) (f : Group → Group) : (s.mapGroup g f).upsets = s.upsets := by unfold State.mapGroup; split <;> rfl
@[simp] theorem State.mapGroup_agenda (s : State) (g : Nat) (f : Group → Group) : (s.mapGroup g f).agenda = s.agenda := by unfold State.mapGroup; split <;> rfl
@[simp] theorem State.mapGroup_round (s : State) (g : Nat) (f : Group → Group) : (s.mapGroup g f).round = s.round := by unfold State.mapGroup; split <;> rfl
@[simp] theorem State.mapGroup_cur (s : State) (g : Nat) (f : Group → Group) : (s.mapGroup g f).cur = s.cur := by unfold State.mapGroup; split <;> rfl
@[simp] theorem State.mapGroup_nextId (s : State) (g : Nat) (f : Group → Group) : (s.mapGroup g f).nextId = s.nextId := by unfold State.mapGroup; split <;> rfl
@[simp] theorem State.mapGroup_free (s : State) (g : Nat) (f : Group → Group) : (s.mapGroup g f).free = s.free := by unfold State.mapGroup; split <;> rfl

/-! ## State.mapNode -/

@[simp] theorem State.mapNode_ready (s : State) (n : Nat) (f : Node → Node) : (s.mapNode n f).ready = s.ready := by unfold State.mapNode; split <;> rfl
@[simp] theorem State.mapNode_failStep (s : State) (n : Nat) (f : Node → Node) : (s.mapNode n f).failStep = s.failStep := by unfold State.mapNode; split <;> rfl
@[simp] theorem State.mapNode_clock (s : State) (n : Nat) (f : Node → Node) : (s.mapNode n f).clock = s.clock := by unfold State.mapNode; split <;> rfl
@[simp] theorem State.mapNode_mem (s : State) (n : Nat) (f : Node → Node) : (s.mapNode n f).mem = s.mem := by unfold State.mapNode; split <;> rfl
@[simp] theorem State.mapNode_poison (s : State) (n : Nat) (f : Node → Node) : (s.mapNode n f).poison = s.poison := by unfold State.mapNode; split <;> rfl
@[simp] theorem State.mapNode_wordPoison (s : State) (n : Nat) (f : Node → Node) : (s.mapNode n f).wordPoison = s.wordPoison := by unfold State.mapNode; split <;> rfl
@[simp] theorem State.mapNode_accCount (s : State) (n : Nat) (f : Node → Node) : (s.mapNode n f).accCount = s.accCount := by unfold State.mapNode; split <;> rfl
@[simp] theorem State.mapNode_rowCount (s : State) (n : Nat) (f : Node → Node) : (s.mapNode n f).rowCount = s.rowCount := by unfold State.mapNode; split <;> rfl
@[simp] theorem State.mapNode_refresh (s : State) (n : Nat) (f : Node → Node) : (s.mapNode n f).refresh = s.refresh := by unfold State.mapNode; split <;> rfl
@[simp] theorem State.mapNode_accesses (s : State) (n : Nat) (f : Node → Node) : (s.mapNode n f).accesses = s.accesses := by unfold State.mapNode; split <;> rfl
@[simp] theorem State.mapNode_dies (s : State) (n : Nat) (f : Node → Node) : (s.mapNode n f).dies = s.dies := by unfold State.mapNode; split <;> rfl
@[simp] theorem State.mapNode_tiles (s : State) (n : Nat) (f : Node → Node) : (s.mapNode n f).tiles = s.tiles := by unfold State.mapNode; split <;> rfl
@[simp] theorem State.mapNode_ctxs (s : State) (n : Nat) (f : Node → Node) : (s.mapNode n f).ctxs = s.ctxs := by unfold State.mapNode; split <;> rfl
@[simp] theorem State.mapNode_groups (s : State) (n : Nat) (f : Node → Node) : (s.mapNode n f).groups = s.groups := by unfold State.mapNode; split <;> rfl
@[simp] theorem State.mapNode_queues (s : State) (n : Nat) (f : Node → Node) : (s.mapNode n f).queues = s.queues := by unfold State.mapNode; split <;> rfl
@[simp] theorem State.mapNode_btime (s : State) (n : Nat) (f : Node → Node) : (s.mapNode n f).btime = s.btime := by unfold State.mapNode; split <;> rfl
@[simp] theorem State.mapNode_period (s : State) (n : Nat) (f : Node → Node) : (s.mapNode n f).period = s.period := by unfold State.mapNode; split <;> rfl
@[simp] theorem State.mapNode_aging (s : State) (n : Nat) (f : Node → Node) : (s.mapNode n f).aging = s.aging := by unfold State.mapNode; split <;> rfl
@[simp] theorem State.mapNode_mantle (s : State) (n : Nat) (f : Node → Node) : (s.mapNode n f).mantle = s.mantle := by unfold State.mapNode; split <;> rfl
@[simp] theorem State.mapNode_tenants (s : State) (n : Nat) (f : Node → Node) : (s.mapNode n f).tenants = s.tenants := by unfold State.mapNode; split <;> rfl
@[simp] theorem State.mapNode_fns (s : State) (n : Nat) (f : Node → Node) : (s.mapNode n f).fns = s.fns := by unfold State.mapNode; split <;> rfl
@[simp] theorem State.mapNode_irqs (s : State) (n : Nat) (f : Node → Node) : (s.mapNode n f).irqs = s.irqs := by unfold State.mapNode; split <;> rfl
@[simp] theorem State.mapNode_answers (s : State) (n : Nat) (f : Node → Node) : (s.mapNode n f).answers = s.answers := by unfold State.mapNode; split <;> rfl
@[simp] theorem State.mapNode_peers (s : State) (n : Nat) (f : Node → Node) : (s.mapNode n f).peers = s.peers := by unfold State.mapNode; split <;> rfl
@[simp] theorem State.mapNode_meas0 (s : State) (n : Nat) (f : Node → Node) : (s.mapNode n f).meas0 = s.meas0 := by unfold State.mapNode; split <;> rfl
@[simp] theorem State.mapNode_meas1 (s : State) (n : Nat) (f : Node → Node) : (s.mapNode n f).meas1 = s.meas1 := by unfold State.mapNode; split <;> rfl
@[simp] theorem State.mapNode_ras (s : State) (n : Nat) (f : Node → Node) : (s.mapNode n f).ras = s.ras := by unfold State.mapNode; split <;> rfl
@[simp] theorem State.mapNode_rings (s : State) (n : Nat) (f : Node → Node) : (s.mapNode n f).rings = s.rings := by unfold State.mapNode; split <;> rfl
@[simp] theorem State.mapNode_accs (s : State) (n : Nat) (f : Node → Node) : (s.mapNode n f).accs = s.accs := by unfold State.mapNode; split <;> rfl
@[simp] theorem State.mapNode_streams (s : State) (n : Nat) (f : Node → Node) : (s.mapNode n f).streams = s.streams := by unfold State.mapNode; split <;> rfl
@[simp] theorem State.mapNode_flights (s : State) (n : Nat) (f : Node → Node) : (s.mapNode n f).flights = s.flights := by unfold State.mapNode; split <;> rfl
@[simp] theorem State.mapNode_sessions (s : State) (n : Nat) (f : Node → Node) : (s.mapNode n f).sessions = s.sessions := by unfold State.mapNode; split <;> rfl
@[simp] theorem State.mapNode_undo (s : State) (n : Nat) (f : Node → Node) : (s.mapNode n f).undo = s.undo := by unfold State.mapNode; split <;> rfl
@[simp] theorem State.mapNode_views (s : State) (n : Nat) (f : Node → Node) : (s.mapNode n f).views = s.views := by unfold State.mapNode; split <;> rfl
@[simp] theorem State.mapNode_quarantine (s : State) (n : Nat) (f : Node → Node) : (s.mapNode n f).quarantine = s.quarantine := by unfold State.mapNode; split <;> rfl
@[simp] theorem State.mapNode_ecc (s : State) (n : Nat) (f : Node → Node) : (s.mapNode n f).ecc = s.ecc := by unfold State.mapNode; split <;> rfl
@[simp] theorem State.mapNode_upsets (s : State) (n : Nat) (f : Node → Node) : (s.mapNode n f).upsets = s.upsets := by unfold State.mapNode; split <;> rfl
@[simp] theorem State.mapNode_agenda (s : State) (n : Nat) (f : Node → Node) : (s.mapNode n f).agenda = s.agenda := by unfold State.mapNode; split <;> rfl
@[simp] theorem State.mapNode_round (s : State) (n : Nat) (f : Node → Node) : (s.mapNode n f).round = s.round := by unfold State.mapNode; split <;> rfl
@[simp] theorem State.mapNode_cur (s : State) (n : Nat) (f : Node → Node) : (s.mapNode n f).cur = s.cur := by unfold State.mapNode; split <;> rfl
@[simp] theorem State.mapNode_nextId (s : State) (n : Nat) (f : Node → Node) : (s.mapNode n f).nextId = s.nextId := by unfold State.mapNode; split <;> rfl
@[simp] theorem State.mapNode_free (s : State) (n : Nat) (f : Node → Node) : (s.mapNode n f).free = s.free := by unfold State.mapNode; split <;> rfl

/-! ## State.setQueue -/

@[simp] theorem State.setQueue_ready (s : State) (q : Nat) (v : Queue) : (s.setQueue q v).ready = s.ready := rfl
@[simp] theorem State.setQueue_failStep (s : State) (q : Nat) (v : Queue) : (s.setQueue q v).failStep = s.failStep := rfl
@[simp] theorem State.setQueue_clock (s : State) (q : Nat) (v : Queue) : (s.setQueue q v).clock = s.clock := rfl
@[simp] theorem State.setQueue_mem (s : State) (q : Nat) (v : Queue) : (s.setQueue q v).mem = s.mem := rfl
@[simp] theorem State.setQueue_poison (s : State) (q : Nat) (v : Queue) : (s.setQueue q v).poison = s.poison := rfl
@[simp] theorem State.setQueue_wordPoison (s : State) (q : Nat) (v : Queue) : (s.setQueue q v).wordPoison = s.wordPoison := rfl
@[simp] theorem State.setQueue_accCount (s : State) (q : Nat) (v : Queue) : (s.setQueue q v).accCount = s.accCount := rfl
@[simp] theorem State.setQueue_rowCount (s : State) (q : Nat) (v : Queue) : (s.setQueue q v).rowCount = s.rowCount := rfl
@[simp] theorem State.setQueue_refresh (s : State) (q : Nat) (v : Queue) : (s.setQueue q v).refresh = s.refresh := rfl
@[simp] theorem State.setQueue_accesses (s : State) (q : Nat) (v : Queue) : (s.setQueue q v).accesses = s.accesses := rfl
@[simp] theorem State.setQueue_dies (s : State) (q : Nat) (v : Queue) : (s.setQueue q v).dies = s.dies := rfl
@[simp] theorem State.setQueue_tiles (s : State) (q : Nat) (v : Queue) : (s.setQueue q v).tiles = s.tiles := rfl
@[simp] theorem State.setQueue_ctxs (s : State) (q : Nat) (v : Queue) : (s.setQueue q v).ctxs = s.ctxs := rfl
@[simp] theorem State.setQueue_groups (s : State) (q : Nat) (v : Queue) : (s.setQueue q v).groups = s.groups := rfl
@[simp] theorem State.setQueue_nodes (s : State) (q : Nat) (v : Queue) : (s.setQueue q v).nodes = s.nodes := rfl
@[simp] theorem State.setQueue_btime (s : State) (q : Nat) (v : Queue) : (s.setQueue q v).btime = s.btime := rfl
@[simp] theorem State.setQueue_period (s : State) (q : Nat) (v : Queue) : (s.setQueue q v).period = s.period := rfl
@[simp] theorem State.setQueue_aging (s : State) (q : Nat) (v : Queue) : (s.setQueue q v).aging = s.aging := rfl
@[simp] theorem State.setQueue_mantle (s : State) (q : Nat) (v : Queue) : (s.setQueue q v).mantle = s.mantle := rfl
@[simp] theorem State.setQueue_tenants (s : State) (q : Nat) (v : Queue) : (s.setQueue q v).tenants = s.tenants := rfl
@[simp] theorem State.setQueue_fns (s : State) (q : Nat) (v : Queue) : (s.setQueue q v).fns = s.fns := rfl
@[simp] theorem State.setQueue_irqs (s : State) (q : Nat) (v : Queue) : (s.setQueue q v).irqs = s.irqs := rfl
@[simp] theorem State.setQueue_answers (s : State) (q : Nat) (v : Queue) : (s.setQueue q v).answers = s.answers := rfl
@[simp] theorem State.setQueue_peers (s : State) (q : Nat) (v : Queue) : (s.setQueue q v).peers = s.peers := rfl
@[simp] theorem State.setQueue_meas0 (s : State) (q : Nat) (v : Queue) : (s.setQueue q v).meas0 = s.meas0 := rfl
@[simp] theorem State.setQueue_meas1 (s : State) (q : Nat) (v : Queue) : (s.setQueue q v).meas1 = s.meas1 := rfl
@[simp] theorem State.setQueue_ras (s : State) (q : Nat) (v : Queue) : (s.setQueue q v).ras = s.ras := rfl
@[simp] theorem State.setQueue_rings (s : State) (q : Nat) (v : Queue) : (s.setQueue q v).rings = s.rings := rfl
@[simp] theorem State.setQueue_accs (s : State) (q : Nat) (v : Queue) : (s.setQueue q v).accs = s.accs := rfl
@[simp] theorem State.setQueue_streams (s : State) (q : Nat) (v : Queue) : (s.setQueue q v).streams = s.streams := rfl
@[simp] theorem State.setQueue_flights (s : State) (q : Nat) (v : Queue) : (s.setQueue q v).flights = s.flights := rfl
@[simp] theorem State.setQueue_sessions (s : State) (q : Nat) (v : Queue) : (s.setQueue q v).sessions = s.sessions := rfl
@[simp] theorem State.setQueue_undo (s : State) (q : Nat) (v : Queue) : (s.setQueue q v).undo = s.undo := rfl
@[simp] theorem State.setQueue_views (s : State) (q : Nat) (v : Queue) : (s.setQueue q v).views = s.views := rfl
@[simp] theorem State.setQueue_quarantine (s : State) (q : Nat) (v : Queue) : (s.setQueue q v).quarantine = s.quarantine := rfl
@[simp] theorem State.setQueue_ecc (s : State) (q : Nat) (v : Queue) : (s.setQueue q v).ecc = s.ecc := rfl
@[simp] theorem State.setQueue_upsets (s : State) (q : Nat) (v : Queue) : (s.setQueue q v).upsets = s.upsets := rfl
@[simp] theorem State.setQueue_agenda (s : State) (q : Nat) (v : Queue) : (s.setQueue q v).agenda = s.agenda := rfl
@[simp] theorem State.setQueue_round (s : State) (q : Nat) (v : Queue) : (s.setQueue q v).round = s.round := rfl
@[simp] theorem State.setQueue_cur (s : State) (q : Nat) (v : Queue) : (s.setQueue q v).cur = s.cur := rfl
@[simp] theorem State.setQueue_nextId (s : State) (q : Nat) (v : Queue) : (s.setQueue q v).nextId = s.nextId := rfl
@[simp] theorem State.setQueue_free (s : State) (q : Nat) (v : Queue) : (s.setQueue q v).free = s.free := rfl

/-! ## State.mapFn -/

@[simp] theorem State.mapFn_ready (s : State) (f : Nat) (g : Fn → Fn) : (s.mapFn f g).ready = s.ready := rfl
@[simp] theorem State.mapFn_failStep (s : State) (f : Nat) (g : Fn → Fn) : (s.mapFn f g).failStep = s.failStep := rfl
@[simp] theorem State.mapFn_clock (s : State) (f : Nat) (g : Fn → Fn) : (s.mapFn f g).clock = s.clock := rfl
@[simp] theorem State.mapFn_mem (s : State) (f : Nat) (g : Fn → Fn) : (s.mapFn f g).mem = s.mem := rfl
@[simp] theorem State.mapFn_poison (s : State) (f : Nat) (g : Fn → Fn) : (s.mapFn f g).poison = s.poison := rfl
@[simp] theorem State.mapFn_wordPoison (s : State) (f : Nat) (g : Fn → Fn) : (s.mapFn f g).wordPoison = s.wordPoison := rfl
@[simp] theorem State.mapFn_accCount (s : State) (f : Nat) (g : Fn → Fn) : (s.mapFn f g).accCount = s.accCount := rfl
@[simp] theorem State.mapFn_rowCount (s : State) (f : Nat) (g : Fn → Fn) : (s.mapFn f g).rowCount = s.rowCount := rfl
@[simp] theorem State.mapFn_refresh (s : State) (f : Nat) (g : Fn → Fn) : (s.mapFn f g).refresh = s.refresh := rfl
@[simp] theorem State.mapFn_accesses (s : State) (f : Nat) (g : Fn → Fn) : (s.mapFn f g).accesses = s.accesses := rfl
@[simp] theorem State.mapFn_dies (s : State) (f : Nat) (g : Fn → Fn) : (s.mapFn f g).dies = s.dies := rfl
@[simp] theorem State.mapFn_tiles (s : State) (f : Nat) (g : Fn → Fn) : (s.mapFn f g).tiles = s.tiles := rfl
@[simp] theorem State.mapFn_ctxs (s : State) (f : Nat) (g : Fn → Fn) : (s.mapFn f g).ctxs = s.ctxs := rfl
@[simp] theorem State.mapFn_groups (s : State) (f : Nat) (g : Fn → Fn) : (s.mapFn f g).groups = s.groups := rfl
@[simp] theorem State.mapFn_nodes (s : State) (f : Nat) (g : Fn → Fn) : (s.mapFn f g).nodes = s.nodes := rfl
@[simp] theorem State.mapFn_queues (s : State) (f : Nat) (g : Fn → Fn) : (s.mapFn f g).queues = s.queues := rfl
@[simp] theorem State.mapFn_btime (s : State) (f : Nat) (g : Fn → Fn) : (s.mapFn f g).btime = s.btime := rfl
@[simp] theorem State.mapFn_period (s : State) (f : Nat) (g : Fn → Fn) : (s.mapFn f g).period = s.period := rfl
@[simp] theorem State.mapFn_aging (s : State) (f : Nat) (g : Fn → Fn) : (s.mapFn f g).aging = s.aging := rfl
@[simp] theorem State.mapFn_mantle (s : State) (f : Nat) (g : Fn → Fn) : (s.mapFn f g).mantle = s.mantle := rfl
@[simp] theorem State.mapFn_tenants (s : State) (f : Nat) (g : Fn → Fn) : (s.mapFn f g).tenants = s.tenants := rfl
@[simp] theorem State.mapFn_irqs (s : State) (f : Nat) (g : Fn → Fn) : (s.mapFn f g).irqs = s.irqs := rfl
@[simp] theorem State.mapFn_answers (s : State) (f : Nat) (g : Fn → Fn) : (s.mapFn f g).answers = s.answers := rfl
@[simp] theorem State.mapFn_peers (s : State) (f : Nat) (g : Fn → Fn) : (s.mapFn f g).peers = s.peers := rfl
@[simp] theorem State.mapFn_meas0 (s : State) (f : Nat) (g : Fn → Fn) : (s.mapFn f g).meas0 = s.meas0 := rfl
@[simp] theorem State.mapFn_meas1 (s : State) (f : Nat) (g : Fn → Fn) : (s.mapFn f g).meas1 = s.meas1 := rfl
@[simp] theorem State.mapFn_ras (s : State) (f : Nat) (g : Fn → Fn) : (s.mapFn f g).ras = s.ras := rfl
@[simp] theorem State.mapFn_rings (s : State) (f : Nat) (g : Fn → Fn) : (s.mapFn f g).rings = s.rings := rfl
@[simp] theorem State.mapFn_accs (s : State) (f : Nat) (g : Fn → Fn) : (s.mapFn f g).accs = s.accs := rfl
@[simp] theorem State.mapFn_streams (s : State) (f : Nat) (g : Fn → Fn) : (s.mapFn f g).streams = s.streams := rfl
@[simp] theorem State.mapFn_flights (s : State) (f : Nat) (g : Fn → Fn) : (s.mapFn f g).flights = s.flights := rfl
@[simp] theorem State.mapFn_sessions (s : State) (f : Nat) (g : Fn → Fn) : (s.mapFn f g).sessions = s.sessions := rfl
@[simp] theorem State.mapFn_undo (s : State) (f : Nat) (g : Fn → Fn) : (s.mapFn f g).undo = s.undo := rfl
@[simp] theorem State.mapFn_views (s : State) (f : Nat) (g : Fn → Fn) : (s.mapFn f g).views = s.views := rfl
@[simp] theorem State.mapFn_quarantine (s : State) (f : Nat) (g : Fn → Fn) : (s.mapFn f g).quarantine = s.quarantine := rfl
@[simp] theorem State.mapFn_ecc (s : State) (f : Nat) (g : Fn → Fn) : (s.mapFn f g).ecc = s.ecc := rfl
@[simp] theorem State.mapFn_upsets (s : State) (f : Nat) (g : Fn → Fn) : (s.mapFn f g).upsets = s.upsets := rfl
@[simp] theorem State.mapFn_agenda (s : State) (f : Nat) (g : Fn → Fn) : (s.mapFn f g).agenda = s.agenda := rfl
@[simp] theorem State.mapFn_round (s : State) (f : Nat) (g : Fn → Fn) : (s.mapFn f g).round = s.round := rfl
@[simp] theorem State.mapFn_cur (s : State) (f : Nat) (g : Fn → Fn) : (s.mapFn f g).cur = s.cur := rfl
@[simp] theorem State.mapFn_nextId (s : State) (f : Nat) (g : Fn → Fn) : (s.mapFn f g).nextId = s.nextId := rfl
@[simp] theorem State.mapFn_free (s : State) (f : Nat) (g : Fn → Fn) : (s.mapFn f g).free = s.free := rfl

/-! ## State.write64 -/

@[simp] theorem State.write64_ready (s : State) (pa : Nat) (v : Word) : (s.write64 pa v).ready = s.ready := rfl
@[simp] theorem State.write64_failStep (s : State) (pa : Nat) (v : Word) : (s.write64 pa v).failStep = s.failStep := rfl
@[simp] theorem State.write64_clock (s : State) (pa : Nat) (v : Word) : (s.write64 pa v).clock = s.clock := rfl
@[simp] theorem State.write64_poison (s : State) (pa : Nat) (v : Word) : (s.write64 pa v).poison = s.poison := rfl
@[simp] theorem State.write64_wordPoison (s : State) (pa : Nat) (v : Word) : (s.write64 pa v).wordPoison = s.wordPoison := rfl
@[simp] theorem State.write64_accCount (s : State) (pa : Nat) (v : Word) : (s.write64 pa v).accCount = s.accCount := rfl
@[simp] theorem State.write64_rowCount (s : State) (pa : Nat) (v : Word) : (s.write64 pa v).rowCount = s.rowCount := rfl
@[simp] theorem State.write64_refresh (s : State) (pa : Nat) (v : Word) : (s.write64 pa v).refresh = s.refresh := rfl
@[simp] theorem State.write64_accesses (s : State) (pa : Nat) (v : Word) : (s.write64 pa v).accesses = s.accesses := rfl
@[simp] theorem State.write64_dies (s : State) (pa : Nat) (v : Word) : (s.write64 pa v).dies = s.dies := rfl
@[simp] theorem State.write64_tiles (s : State) (pa : Nat) (v : Word) : (s.write64 pa v).tiles = s.tiles := rfl
@[simp] theorem State.write64_ctxs (s : State) (pa : Nat) (v : Word) : (s.write64 pa v).ctxs = s.ctxs := rfl
@[simp] theorem State.write64_groups (s : State) (pa : Nat) (v : Word) : (s.write64 pa v).groups = s.groups := rfl
@[simp] theorem State.write64_nodes (s : State) (pa : Nat) (v : Word) : (s.write64 pa v).nodes = s.nodes := rfl
@[simp] theorem State.write64_queues (s : State) (pa : Nat) (v : Word) : (s.write64 pa v).queues = s.queues := rfl
@[simp] theorem State.write64_btime (s : State) (pa : Nat) (v : Word) : (s.write64 pa v).btime = s.btime := rfl
@[simp] theorem State.write64_period (s : State) (pa : Nat) (v : Word) : (s.write64 pa v).period = s.period := rfl
@[simp] theorem State.write64_aging (s : State) (pa : Nat) (v : Word) : (s.write64 pa v).aging = s.aging := rfl
@[simp] theorem State.write64_mantle (s : State) (pa : Nat) (v : Word) : (s.write64 pa v).mantle = s.mantle := rfl
@[simp] theorem State.write64_tenants (s : State) (pa : Nat) (v : Word) : (s.write64 pa v).tenants = s.tenants := rfl
@[simp] theorem State.write64_fns (s : State) (pa : Nat) (v : Word) : (s.write64 pa v).fns = s.fns := rfl
@[simp] theorem State.write64_irqs (s : State) (pa : Nat) (v : Word) : (s.write64 pa v).irqs = s.irqs := rfl
@[simp] theorem State.write64_answers (s : State) (pa : Nat) (v : Word) : (s.write64 pa v).answers = s.answers := rfl
@[simp] theorem State.write64_peers (s : State) (pa : Nat) (v : Word) : (s.write64 pa v).peers = s.peers := rfl
@[simp] theorem State.write64_meas0 (s : State) (pa : Nat) (v : Word) : (s.write64 pa v).meas0 = s.meas0 := rfl
@[simp] theorem State.write64_meas1 (s : State) (pa : Nat) (v : Word) : (s.write64 pa v).meas1 = s.meas1 := rfl
@[simp] theorem State.write64_ras (s : State) (pa : Nat) (v : Word) : (s.write64 pa v).ras = s.ras := rfl
@[simp] theorem State.write64_rings (s : State) (pa : Nat) (v : Word) : (s.write64 pa v).rings = s.rings := rfl
@[simp] theorem State.write64_accs (s : State) (pa : Nat) (v : Word) : (s.write64 pa v).accs = s.accs := rfl
@[simp] theorem State.write64_streams (s : State) (pa : Nat) (v : Word) : (s.write64 pa v).streams = s.streams := rfl
@[simp] theorem State.write64_flights (s : State) (pa : Nat) (v : Word) : (s.write64 pa v).flights = s.flights := rfl
@[simp] theorem State.write64_sessions (s : State) (pa : Nat) (v : Word) : (s.write64 pa v).sessions = s.sessions := rfl
@[simp] theorem State.write64_undo (s : State) (pa : Nat) (v : Word) : (s.write64 pa v).undo = s.undo := rfl
@[simp] theorem State.write64_views (s : State) (pa : Nat) (v : Word) : (s.write64 pa v).views = s.views := rfl
@[simp] theorem State.write64_quarantine (s : State) (pa : Nat) (v : Word) : (s.write64 pa v).quarantine = s.quarantine := rfl
@[simp] theorem State.write64_ecc (s : State) (pa : Nat) (v : Word) : (s.write64 pa v).ecc = s.ecc := rfl
@[simp] theorem State.write64_upsets (s : State) (pa : Nat) (v : Word) : (s.write64 pa v).upsets = s.upsets := rfl
@[simp] theorem State.write64_agenda (s : State) (pa : Nat) (v : Word) : (s.write64 pa v).agenda = s.agenda := rfl
@[simp] theorem State.write64_round (s : State) (pa : Nat) (v : Word) : (s.write64 pa v).round = s.round := rfl
@[simp] theorem State.write64_cur (s : State) (pa : Nat) (v : Word) : (s.write64 pa v).cur = s.cur := rfl
@[simp] theorem State.write64_nextId (s : State) (pa : Nat) (v : Word) : (s.write64 pa v).nextId = s.nextId := rfl
@[simp] theorem State.write64_free (s : State) (pa : Nat) (v : Word) : (s.write64 pa v).free = s.free := rfl

/-! ## State.clearWordPoison -/

@[simp] theorem State.clearWordPoison_ready (s : State) (p : Option Nat) (pa n : Nat) : (s.clearWordPoison p pa n).ready = s.ready := rfl
@[simp] theorem State.clearWordPoison_failStep (s : State) (p : Option Nat) (pa n : Nat) : (s.clearWordPoison p pa n).failStep = s.failStep := rfl
@[simp] theorem State.clearWordPoison_clock (s : State) (p : Option Nat) (pa n : Nat) : (s.clearWordPoison p pa n).clock = s.clock := rfl
@[simp] theorem State.clearWordPoison_mem (s : State) (p : Option Nat) (pa n : Nat) : (s.clearWordPoison p pa n).mem = s.mem := rfl
@[simp] theorem State.clearWordPoison_poison (s : State) (p : Option Nat) (pa n : Nat) : (s.clearWordPoison p pa n).poison = s.poison := rfl
@[simp] theorem State.clearWordPoison_accCount (s : State) (p : Option Nat) (pa n : Nat) : (s.clearWordPoison p pa n).accCount = s.accCount := rfl
@[simp] theorem State.clearWordPoison_rowCount (s : State) (p : Option Nat) (pa n : Nat) : (s.clearWordPoison p pa n).rowCount = s.rowCount := rfl
@[simp] theorem State.clearWordPoison_refresh (s : State) (p : Option Nat) (pa n : Nat) : (s.clearWordPoison p pa n).refresh = s.refresh := rfl
@[simp] theorem State.clearWordPoison_accesses (s : State) (p : Option Nat) (pa n : Nat) : (s.clearWordPoison p pa n).accesses = s.accesses := rfl
@[simp] theorem State.clearWordPoison_dies (s : State) (p : Option Nat) (pa n : Nat) : (s.clearWordPoison p pa n).dies = s.dies := rfl
@[simp] theorem State.clearWordPoison_tiles (s : State) (p : Option Nat) (pa n : Nat) : (s.clearWordPoison p pa n).tiles = s.tiles := rfl
@[simp] theorem State.clearWordPoison_ctxs (s : State) (p : Option Nat) (pa n : Nat) : (s.clearWordPoison p pa n).ctxs = s.ctxs := rfl
@[simp] theorem State.clearWordPoison_groups (s : State) (p : Option Nat) (pa n : Nat) : (s.clearWordPoison p pa n).groups = s.groups := rfl
@[simp] theorem State.clearWordPoison_nodes (s : State) (p : Option Nat) (pa n : Nat) : (s.clearWordPoison p pa n).nodes = s.nodes := rfl
@[simp] theorem State.clearWordPoison_queues (s : State) (p : Option Nat) (pa n : Nat) : (s.clearWordPoison p pa n).queues = s.queues := rfl
@[simp] theorem State.clearWordPoison_btime (s : State) (p : Option Nat) (pa n : Nat) : (s.clearWordPoison p pa n).btime = s.btime := rfl
@[simp] theorem State.clearWordPoison_period (s : State) (p : Option Nat) (pa n : Nat) : (s.clearWordPoison p pa n).period = s.period := rfl
@[simp] theorem State.clearWordPoison_aging (s : State) (p : Option Nat) (pa n : Nat) : (s.clearWordPoison p pa n).aging = s.aging := rfl
@[simp] theorem State.clearWordPoison_mantle (s : State) (p : Option Nat) (pa n : Nat) : (s.clearWordPoison p pa n).mantle = s.mantle := rfl
@[simp] theorem State.clearWordPoison_tenants (s : State) (p : Option Nat) (pa n : Nat) : (s.clearWordPoison p pa n).tenants = s.tenants := rfl
@[simp] theorem State.clearWordPoison_fns (s : State) (p : Option Nat) (pa n : Nat) : (s.clearWordPoison p pa n).fns = s.fns := rfl
@[simp] theorem State.clearWordPoison_irqs (s : State) (p : Option Nat) (pa n : Nat) : (s.clearWordPoison p pa n).irqs = s.irqs := rfl
@[simp] theorem State.clearWordPoison_answers (s : State) (p : Option Nat) (pa n : Nat) : (s.clearWordPoison p pa n).answers = s.answers := rfl
@[simp] theorem State.clearWordPoison_peers (s : State) (p : Option Nat) (pa n : Nat) : (s.clearWordPoison p pa n).peers = s.peers := rfl
@[simp] theorem State.clearWordPoison_meas0 (s : State) (p : Option Nat) (pa n : Nat) : (s.clearWordPoison p pa n).meas0 = s.meas0 := rfl
@[simp] theorem State.clearWordPoison_meas1 (s : State) (p : Option Nat) (pa n : Nat) : (s.clearWordPoison p pa n).meas1 = s.meas1 := rfl
@[simp] theorem State.clearWordPoison_ras (s : State) (p : Option Nat) (pa n : Nat) : (s.clearWordPoison p pa n).ras = s.ras := rfl
@[simp] theorem State.clearWordPoison_rings (s : State) (p : Option Nat) (pa n : Nat) : (s.clearWordPoison p pa n).rings = s.rings := rfl
@[simp] theorem State.clearWordPoison_accs (s : State) (p : Option Nat) (pa n : Nat) : (s.clearWordPoison p pa n).accs = s.accs := rfl
@[simp] theorem State.clearWordPoison_streams (s : State) (p : Option Nat) (pa n : Nat) : (s.clearWordPoison p pa n).streams = s.streams := rfl
@[simp] theorem State.clearWordPoison_flights (s : State) (p : Option Nat) (pa n : Nat) : (s.clearWordPoison p pa n).flights = s.flights := rfl
@[simp] theorem State.clearWordPoison_sessions (s : State) (p : Option Nat) (pa n : Nat) : (s.clearWordPoison p pa n).sessions = s.sessions := rfl
@[simp] theorem State.clearWordPoison_undo (s : State) (p : Option Nat) (pa n : Nat) : (s.clearWordPoison p pa n).undo = s.undo := rfl
@[simp] theorem State.clearWordPoison_views (s : State) (p : Option Nat) (pa n : Nat) : (s.clearWordPoison p pa n).views = s.views := rfl
@[simp] theorem State.clearWordPoison_quarantine (s : State) (p : Option Nat) (pa n : Nat) : (s.clearWordPoison p pa n).quarantine = s.quarantine := rfl
@[simp] theorem State.clearWordPoison_ecc (s : State) (p : Option Nat) (pa n : Nat) : (s.clearWordPoison p pa n).ecc = s.ecc := rfl
@[simp] theorem State.clearWordPoison_upsets (s : State) (p : Option Nat) (pa n : Nat) : (s.clearWordPoison p pa n).upsets = s.upsets := rfl
@[simp] theorem State.clearWordPoison_agenda (s : State) (p : Option Nat) (pa n : Nat) : (s.clearWordPoison p pa n).agenda = s.agenda := rfl
@[simp] theorem State.clearWordPoison_round (s : State) (p : Option Nat) (pa n : Nat) : (s.clearWordPoison p pa n).round = s.round := rfl
@[simp] theorem State.clearWordPoison_cur (s : State) (p : Option Nat) (pa n : Nat) : (s.clearWordPoison p pa n).cur = s.cur := rfl
@[simp] theorem State.clearWordPoison_nextId (s : State) (p : Option Nat) (pa n : Nat) : (s.clearWordPoison p pa n).nextId = s.nextId := rfl
@[simp] theorem State.clearWordPoison_free (s : State) (p : Option Nat) (pa n : Nat) : (s.clearWordPoison p pa n).free = s.free := rfl

end Sys2Proof.Machine
end

