-- ==== Sys2Proof/Laws/Table.lean ====
section
/-! SUPPORT. Laws of sparse tables: what a key reads as after a change, and that each change keeps the canonical form. -/

namespace Sys2Proof.Machine

variable {α : Type}

/-! ## Finding -/

@[simp] theorem Tab.find_nil (k : Nat) : Tab.find ([] : Tab α) k = none := rfl

@[simp] theorem Tab.read_nil (d : α) (k : Nat) : Tab.read d [] k = d := rfl

/-- The key just listed holds its value; every other key is as it was. -/
theorem Tab.find_insert (t : Tab α) (k j : Nat) (v : α) :
    Tab.find (Tab.insert t k v) j = if j = k then some v else Tab.find t j := by
  induction t with
  | nil => simp only [Tab.insert, Tab.find]; grind
  | cons p rest ih => obtain ⟨a, w⟩ := p; simp only [Tab.insert, Tab.find]; grind [Tab.find]

@[simp] theorem Tab.find_insert_self (t : Tab α) (k : Nat) (v : α) : Tab.find (Tab.insert t k v) k = some v := by
  simp [Tab.find_insert]

theorem Tab.find_insert_ne (t : Tab α) {k j : Nat} (v : α) (h : j ≠ k) : Tab.find (Tab.insert t k v) j = Tab.find t j := by
  simp [Tab.find_insert, h]

/-- An unlisted key finds nothing; every other key is as it was. -/
theorem Tab.find_erase (t : Tab α) (k j : Nat) : Tab.find (Tab.erase t k) j = if j = k then none else Tab.find t j := by
  induction t with
  | nil => simp [Tab.erase]
  | cons p rest ih =>
    obtain ⟨a, w⟩ := p
    simp only [Tab.erase, List.filter_cons] at ih ⊢
    by_cases h : a = k <;> grind [Tab.find]

/-- Inserting twice at one key keeps the later value only. -/
theorem Tab.insert_insert (t : Tab α) (k : Nat) (v w : α) : Tab.insert (Tab.insert t k v) k w = Tab.insert t k w := by
  induction t with
  | nil => simp [Tab.insert]
  | cons p rest ih => obtain ⟨a, x⟩ := p; simp only [Tab.insert]; grind [Tab.insert]

/-! ## Reading after writing -/

theorem Tab.read_insert (d : α) (t : Tab α) (k j : Nat) (v : α) :
    Tab.read d (Tab.insert t k v) j = if j = k then v else Tab.read d t j := by
  simp only [Tab.read, Tab.find_insert]; split <;> simp

theorem Tab.read_erase (d : α) (t : Tab α) (k j : Nat) :
    Tab.read d (Tab.erase t k) j = if j = k then d else Tab.read d t j := by
  simp only [Tab.read, Tab.find_erase]; split <;> simp

/-- A key reads as what was last written to it. -/
theorem Tab.read_write [DecidableEq α] (d : α) (t : Tab α) (k j : Nat) (v : α) :
    Tab.read d (Tab.write d t k v) j = if j = k then v else Tab.read d t j := by
  unfold Tab.write
  split
  · rw [Tab.read_erase]; split <;> simp_all
  · exact Tab.read_insert d t k j v

@[simp] theorem Tab.read_write_self [DecidableEq α] (d : α) (t : Tab α) (k : Nat) (v : α) :
    Tab.read d (Tab.write d t k v) k = v := by simp [Tab.read_write]

theorem Tab.read_write_ne [DecidableEq α] (d : α) (t : Tab α) {k j : Nat} (v : α) (h : j ≠ k) :
    Tab.read d (Tab.write d t k v) j = Tab.read d t j := by simp [Tab.read_write, h]

theorem Tab.read_update [DecidableEq α] (d : α) (t : Tab α) (k j : Nat) (f : α → α) :
    Tab.read d (Tab.update d t k f) j = if j = k then f (Tab.read d t j) else Tab.read d t j := by
  simp only [Tab.update, Tab.read_write]; split <;> simp_all

theorem Tab.find_filter (p : Nat → Bool) (t : Tab α) (j : Nat) :
    Tab.find (t.filter fun e => p e.1) j = if p j then Tab.find t j else none := by
  induction t with
  | nil => simp
  | cons e rest ih =>
    obtain ⟨a, w⟩ := e
    simp only [List.filter_cons]
    by_cases h : p a <;> grind [Tab.find]

theorem Tab.find_append (t u : Tab α) (j : Nat) : Tab.find (t ++ u) j = (Tab.find t j).or (Tab.find u j) := by
  induction t with
  | nil => simp
  | cons e rest ih => obtain ⟨a, w⟩ := e; simp only [List.cons_append, Tab.find]; grind

theorem Tab.read_cells [DecidableEq α] (d : α) (l : List α) (a j : Nat) :
    Tab.read d (Tab.cells d a l) j = if a ≤ j then l.getD (j - a) d else d := by
  induction l generalizing a with
  | nil => simp [Tab.cells]
  | cons v rest ih =>
    have key : (v :: rest).getD (j - a) d = if j = a then v else if a < j then rest.getD (j - (a + 1)) d else v := by
      by_cases h : a < j
      · have e : j - a = (j - (a + 1)) + 1 := by omega
        have : j ≠ a := by omega
        rw [if_neg this, if_pos h, e]; rfl
      · have e : j - a = 0 := by omega
        rw [e, if_neg h]; simp
    rw [key]
    simp only [Tab.cells]
    split
    · rw [ih]; grind
    · simp only [Tab.read, Tab.find] at ih ⊢
      have := ih (a + 1)
      grind

theorem Tab.find_cells [DecidableEq α] (d : α) (l : List α) (a j : Nat) (h : j < a ∨ a + l.length ≤ j) :
    Tab.find (Tab.cells d a l) j = none := by
  induction l generalizing a with
  | nil => rfl
  | cons v rest ih =>
    simp only [Tab.cells, List.length_cons] at *
    have := ih (a + 1) (by omega)
    split
    · exact this
    · simp only [Tab.find]; rw [if_neg (by omega)]; exact this

/-- A run of keys reads as the values written, and every other key as before. -/
theorem Tab.read_writeRange [DecidableEq α] (d : α) (t : Tab α) (a j : Nat) (l : List α) :
    Tab.read d (Tab.writeRange d t a l) j = if a ≤ j ∧ j < a + l.length then l.getD (j - a) d else Tab.read d t j := by
  have h1 := Tab.find_filter (fun k => decide (k < a)) t j
  have h2 := Tab.find_filter (fun k => decide (a + l.length ≤ k)) t j
  have h3 := Tab.read_cells d l a j
  have h4 := Tab.find_cells d l a j
  simp only [Tab.writeRange, Tab.read, Tab.find_append] at *
  rw [h1, h2]
  by_cases hlo : j < a
  · have : ¬ a ≤ j := by omega
    simp only [hlo, decide_true, if_true, this, false_and, if_false]
    have := h4 (Or.inl hlo)
    rw [this]
    have : ¬ a + l.length ≤ j := by omega
    simp [this]
  · by_cases hhi : a + l.length ≤ j
    · have hj : ¬ (a ≤ j ∧ j < a + l.length) := by omega
      rw [if_neg hj, h4 (Or.inr hhi)]
      simp [hlo, hhi]
    · have hj : a ≤ j ∧ j < a + l.length := by omega
      rw [if_pos hj]
      simp only [hlo, hhi, decide_false, Bool.false_eq_true, if_false, Option.none_or, Option.or_none]
      rw [h3, if_pos hj.1]

/-! ## The canonical form -/

/-- Every key from a list is below every key of the rest: the sorted form, said pairwise. -/
theorem Tab.sorted_iff (t : Tab α) : Tab.sorted t = true ↔ t.Pairwise fun p q => p.1 < q.1 := by
  induction t with
  | nil => simp [Tab.sorted]
  | cons p rest ih =>
    cases rest with
    | nil => simp [Tab.sorted]
    | cons q rest =>
      simp only [Tab.sorted, Bool.and_eq_true, decide_eq_true_eq, ih, List.pairwise_cons] at *
      constructor
      · rintro ⟨h, h2, h3⟩
        refine ⟨?_, h2, h3⟩
        intro x hx
        rcases List.mem_cons.1 hx with rfl | hx
        · exact h
        · exact Nat.lt_trans h (h2 x hx)
      · rintro ⟨h1, h2, h3⟩
        exact ⟨h1 q (List.mem_cons_self ..), h2, h3⟩

theorem Tab.wf_iff [DecidableEq α] (d : α) (t : Tab α) :
    Tab.wf d t = true ↔ (t.Pairwise fun p q => p.1 < q.1) ∧ ∀ p ∈ t, p.2 ≠ d := by
  simp [Tab.wf, Tab.sorted_iff]

@[simp] theorem Tab.wf_nil [DecidableEq α] (d : α) : Tab.wf d ([] : Tab α) = true := rfl

theorem Tab.wf_filter [DecidableEq α] (d : α) (t : Tab α) (p : Nat × α → Bool) (h : Tab.wf d t = true) :
    Tab.wf d (t.filter p) = true := by
  rw [Tab.wf_iff] at *
  exact ⟨h.1.filter p, fun e he => h.2 e ((List.mem_filter.1 he).1)⟩

theorem Tab.mem_cells [DecidableEq α] (d : α) (l : List α) (a : Nat) :
    ∀ p ∈ Tab.cells d a l, a ≤ p.1 ∧ p.1 < a + l.length ∧ p.2 ≠ d := by
  induction l generalizing a with
  | nil => simp [Tab.cells]
  | cons v rest ih =>
    intro p hp
    simp only [Tab.cells, List.length_cons] at *
    split at hp
    · obtain ⟨h1, h2, h3⟩ := ih (a + 1) p hp
      exact ⟨by omega, by omega, h3⟩
    · rcases List.mem_cons.1 hp with rfl | hp
      · exact ⟨Nat.le_refl a, by simp, by assumption⟩
      · obtain ⟨h1, h2, h3⟩ := ih (a + 1) p hp
        exact ⟨by omega, by omega, h3⟩

theorem Tab.cells_sorted [DecidableEq α] (d : α) (l : List α) (a : Nat) :
    (Tab.cells d a l).Pairwise fun p q => p.1 < q.1 := by
  induction l generalizing a with
  | nil => simp [Tab.cells]
  | cons v rest ih =>
    simp only [Tab.cells]
    split
    · exact ih _
    · refine List.pairwise_cons.2 ⟨fun p hp => ?_, ih _⟩
      have := Tab.mem_cells d rest (a + 1) p hp
      simp only; omega

/-- A write of a run keeps the canonical form. -/
theorem Tab.wf_writeRange [DecidableEq α] (d : α) (t : Tab α) (a : Nat) (l : List α) (h : Tab.wf d t = true) :
    Tab.wf d (Tab.writeRange d t a l) = true := by
  rw [Tab.wf_iff] at *
  refine ⟨?_, ?_⟩
  · simp only [Tab.writeRange, List.pairwise_append]
    refine ⟨⟨h.1.filter _, Tab.cells_sorted d l a, ?_⟩, h.1.filter _, ?_⟩
    · intro p hp q hq
      have h1 := (List.mem_filter.1 hp).2
      have h2 := Tab.mem_cells d l a q hq
      simp only [decide_eq_true_eq] at h1; omega
    · intro p hp q hq
      have h2 := (List.mem_filter.1 hq).2
      simp only [decide_eq_true_eq] at h2
      rcases List.mem_append.1 hp with hp | hp
      · have h1 := (List.mem_filter.1 hp).2
        simp only [decide_eq_true_eq] at h1; omega
      · have h1 := Tab.mem_cells d l a p hp; omega
  · intro p hp
    simp only [Tab.writeRange, List.mem_append] at hp
    rcases hp with (hp | hp) | hp
    · exact h.2 p ((List.mem_filter.1 hp).1)
    · exact (Tab.mem_cells d l a p hp).2.2
    · exact h.2 p ((List.mem_filter.1 hp).1)

theorem Tab.mem_insert (t : Tab α) (k : Nat) (v : α) (p : Nat × α) (h : p ∈ Tab.insert t k v) : p = (k, v) ∨ p ∈ t := by
  induction t with
  | nil => simpa [Tab.insert] using h
  | cons q rest ih =>
    obtain ⟨a, w⟩ := q
    simp only [Tab.insert] at h
    split at h
    · rcases List.mem_cons.1 h with rfl | h
      · exact .inl rfl
      · exact .inr h
    · split at h
      · rcases List.mem_cons.1 h with rfl | h
        · exact .inl rfl
        · exact .inr (List.mem_cons_of_mem _ h)
      · rcases List.mem_cons.1 h with rfl | h
        · exact .inr (List.mem_cons_self ..)
        · rcases ih h with h | h
          · exact .inl h
          · exact .inr (List.mem_cons_of_mem _ h)

/-- Listing a value under a key keeps the keys' order. -/
theorem Tab.insert_sorted (t : Tab α) (k : Nat) (v : α) (h : t.Pairwise fun p q => p.1 < q.1) :
    (Tab.insert t k v).Pairwise fun p q => p.1 < q.1 := by
  induction t with
  | nil => simp [Tab.insert]
  | cons q rest ih =>
    obtain ⟨a, w⟩ := q
    obtain ⟨h1, h2⟩ := List.pairwise_cons.1 h
    simp only [Tab.insert]
    split
    · refine List.pairwise_cons.2 ⟨?_, h⟩
      intro p hp
      rcases List.mem_cons.1 hp with rfl | hp
      · assumption
      · have := h1 p hp; simp only at *; omega
    · split
      · refine List.pairwise_cons.2 ⟨?_, h2⟩
        intro p hp
        have := h1 p hp; simp only at *; omega
      · refine List.pairwise_cons.2 ⟨?_, ih h2⟩
        intro p hp
        rcases Tab.mem_insert rest k v p hp with rfl | hp
        · simp only; omega
        · exact h1 p hp

/-- A write of one key keeps the canonical form. -/
theorem Tab.wf_write [DecidableEq α] (d : α) (t : Tab α) (k : Nat) (v : α) (h : Tab.wf d t = true) :
    Tab.wf d (Tab.write d t k v) = true := by
  unfold Tab.write
  split
  · exact Tab.wf_filter d t _ h
  · rw [Tab.wf_iff] at *
    refine ⟨Tab.insert_sorted t k v h.1, fun p hp => ?_⟩
    rcases Tab.mem_insert t k v p hp with rfl | hp
    · assumption
    · exact h.2 p hp

/-- Two canonical tables that read alike are the same data. -/
theorem Tab.wf_ext [DecidableEq α] (d : α) (t u : Tab α) (ht : Tab.wf d t = true) (hu : Tab.wf d u = true)
    (h : ∀ k, Tab.read d t k = Tab.read d u k) : t = u := by
  rw [Tab.wf_iff] at *
  have low : ∀ (t : Tab α) (k : Nat), (∀ p ∈ t, k < p.1) → Tab.find t k = none := by
    intro t k hk
    induction t with
    | nil => rfl
    | cons p rest ih =>
      obtain ⟨a, v⟩ := p
      have := hk (a, v) (List.mem_cons_self ..)
      simp only at this
      simp only [Tab.find]
      rw [if_neg (by omega)]
      exact ih fun p hp => hk p (List.mem_cons_of_mem _ hp)
  induction t generalizing u with
  | nil =>
    cases u with
    | nil => rfl
    | cons p rest =>
      obtain ⟨a, v⟩ := p
      have := h a
      simp only [Tab.read, Tab.find, if_true, Option.getD] at this
      exact absurd this.symm (hu.2 (a, v) (List.mem_cons_self ..))
  | cons p rest ih =>
    obtain ⟨a, v⟩ := p
    obtain ⟨t1, t2⟩ := List.pairwise_cons.1 ht.1
    have tn := ht.2 (a, v) (List.mem_cons_self ..)
    cases u with
    | nil =>
      have := h a
      simp only [Tab.read, Tab.find, if_true, Option.getD] at this
      exact absurd this tn
    | cons q rest' =>
      obtain ⟨b, w⟩ := q
      obtain ⟨u1, u2⟩ := List.pairwise_cons.1 hu.1
      have un := hu.2 (b, w) (List.mem_cons_self ..)
      have ab : a = b := by
        rcases Nat.lt_trichotomy a b with hl | he | hl
        · exfalso
          have e := h a
          have : Tab.find ((b, w) :: rest') a = none := low _ a (by
            intro p hp
            rcases List.mem_cons.1 hp with rfl | hp
            · exact hl
            · exact Nat.lt_trans hl (u1 p hp))
          simp only [Tab.read, this] at e
          simp only [Tab.find, if_true, Option.getD] at e
          exact tn e
        · exact he
        · exfalso
          have e := h b
          have : Tab.find ((a, v) :: rest) b = none := low _ b (by
            intro p hp
            rcases List.mem_cons.1 hp with rfl | hp
            · exact hl
            · exact Nat.lt_trans hl (t1 p hp))
          simp only [Tab.read, this] at e
          simp only [Tab.find, if_true, Option.getD] at e
          exact un e.symm
      subst ab
      have vw : v = w := by simpa [Tab.read, Tab.find] using h a
      subst vw
      congr 1
      refine ih rest' ⟨t2, fun p hp => ht.2 p (List.mem_cons_of_mem _ hp)⟩ ⟨u2, fun p hp => hu.2 p (List.mem_cons_of_mem _ hp)⟩ ?_
      intro k
      have e := h k
      by_cases hk : a = k
      · subst hk
        rw [Tab.read, Tab.read, low rest a t1, low rest' a u1]
      · simpa [Tab.read, Tab.find, hk] using e

end Sys2Proof.Machine
end

