-- ==== Sys2Proof/Laws/Memory.lean ====
section
/-! SUPPORT. Laws of memory: a byte reads as what was last written to it, every other byte as before, and every write keeps the canonical form. -/

namespace Sys2Proof.Machine

/-! ## Bytes -/

/-- A byte inside the bytes written reads as the one written; every other as before. -/
theorem readByte_writeMem (m : List Host.Cell) (a b : Nat) (l : List Byte) :
    readByte (writeMem m a l) b = if a ≤ b ∧ b < a + l.length then l.getD (b - a) memDefault else readByte m b :=
  Tab.read_writeRange memDefault m a b l

theorem readByte_writeMem_ne (m : List Host.Cell) (a b : Nat) (l : List Byte) (h : b < a ∨ a + l.length ≤ b) :
    readByte (writeMem m a l) b = readByte m b := by
  rw [readByte_writeMem, if_neg (by omega)]

@[simp] theorem readMem_length (m : List Host.Cell) (a n : Nat) : (readMem m a n).length = n := by
  simp [readMem, Tab.readRange]

/-- The bytes just written are the bytes read. -/
theorem readMem_writeMem (m : List Host.Cell) (a : Nat) (l : List Byte) : readMem (writeMem m a l) a l.length = l := by
  apply List.ext_getElem (by simp)
  intro i h1 h2
  have := readByte_writeMem m a (a + i) l
  simp only [readMem, Tab.readRange, List.getElem_map, List.getElem_range]
  simp only [readByte] at this
  rw [show Tab.read memDefault (writeMem m a l) (a + i) = _ from this, if_pos ⟨by omega, by omega⟩, Nat.add_sub_cancel_left]
  simp [List.getD, h2]

theorem Memory.wf_writeMem (m : List Host.Cell) (a : Nat) (l : List Byte) (h : Memory.wf m = true) :
    Memory.wf (writeMem m a l) = true := Tab.wf_writeRange memDefault m a l h

theorem Memory.wf_filter (m : List Host.Cell) (p : Host.Cell → Bool) (h : Memory.wf m = true) :
    Memory.wf (m.filter p) = true := Tab.wf_filter memDefault m p h

/-- Equal bytes at every address are equal memories. -/
theorem Memory.wf_ext (m n : List Host.Cell) (hm : Memory.wf m = true) (hn : Memory.wf n = true)
    (h : ∀ a, readByte m a = readByte n a) : m = n := Tab.wf_ext memDefault m n hm hn h

/-! ## Numbers as bytes -/

@[simp] theorem bytesOf_length (n v : Nat) : (bytesOf n v).length = n := by
  induction n generalizing v with
  | zero => rfl
  | succ n ih => simp [bytesOf, ih]

/-- The number that the bytes of a number hold is the number, as far as the bytes go. -/
theorem numOf_bytesOf (n v : Nat) : numOf (bytesOf n v) = v % 2 ^ (8 * n) := by
  induction n generalizing v with
  | zero => simp [bytesOf, numOf, leNat, Nat.mod_one]
  | succ n ih =>
    simp only [numOf] at ih
    simp only [bytesOf, numOf, leNat, ih, BitVec.toNat_ofNat]
    rw [show 8 * (n + 1) = 8 * n + 8 by omega, Nat.pow_add, Nat.mul_comm (2 ^ (8 * n)), Nat.mod_mul]

/-- A doubleword reads as the doubleword stored there. -/
theorem State.read64_write64 (s : State) (pa : Nat) (v : Word) : (s.write64 pa v).read64 pa = v := by
  have h := readMem_writeMem s.mem pa (bytesOf 8 v.toNat)
  rw [bytesOf_length] at h
  simp only [State.read64, State.write64, h, numOf_bytesOf]
  apply BitVec.eq_of_toNat_eq
  simp [Nat.mod_eq_of_lt v.isLt]

/-! ## Contexts and tiles -/

theorem State.ctx?_setCtx (s : State) (key k : Nat) (c : Ctx) :
    (s.setCtx key c).ctx? k = if k = key then some c else s.ctx? k := Tab.find_insert s.ctxs key k c

@[simp] theorem State.ctx?_setCtx_self (s : State) (key : Nat) (c : Ctx) : (s.setCtx key c).ctx? key = some c := by
  simp [State.ctx?_setCtx]

theorem State.mapCtx_of (s : State) {key : Nat} {c : Ctx} (f : Ctx → Ctx) (h : s.ctx? key = some c) :
    s.mapCtx key f = s.setCtx key (f c) := by
  simp only [State.mapCtx, h]

@[simp] theorem State.setCtx_setCtx (s : State) (key : Nat) (a b : Ctx) : (s.setCtx key a).setCtx key b = s.setCtx key b := by
  simp only [State.setCtx, Tab.insert_insert]

theorem State.tile_setTile (s : State) (t j : Nat) (v : Tile) : (s.setTile t v).tile j = if j = t then v else s.tile j :=
  Tab.read_write Tile.reset s.tiles t j v

theorem State.die_mapDie (s : State) (d j : Nat) (f : Die → Die) : (s.mapDie d f).die j = if j = d then f (s.die j) else s.die j :=
  Tab.read_update Die.reset s.dies d j f

theorem State.fn_mapFn (s : State) (f j : Nat) (g : Fn → Fn) : (s.mapFn f g).fn j = if j = f then g (s.fn j) else s.fn j :=
  Tab.read_update Fn.reset s.fns f j g

theorem State.queue_setQueue (s : State) (q j : Nat) (v : Queue) : (s.setQueue q v).queue j = if j = q then v else s.queue j :=
  Tab.read_write Queue.reset s.queues q j v

end Sys2Proof.Machine
end

