-- ==== Sys2Proof/Laws/Issue.lean ====
section
/-! SUPPORT. What the shared operations of issue can do: how a slot instruction ends, a result put in flight, an access listed. -/

namespace Sys2Proof.Machine

/-! ## The three ends of a slot instruction -/

/-- Every instruction of a bundle but EXIT and RTE, which go on after it, is issued by the one shared operation. -/
theorem exec_slot (i : Instr) (s : State) (hd : deviceStep i = false) (he : i ≠ .exit) (hr : i ≠ .rte) :
    exec i s = issueSlot i (slotOp i) s := by
  cases i <;> first | rfl | (exact absurd rfl he) | (exact absurd rfl hr) | (exact Bool.noConfusion hd)

/-- A slot instruction never refuses, and faults only where no context holds issue. -/
theorem issueSlot_next {i : Instr} {op : SlotOp} {s : State} {key : Nat} {c : Ctx} (hk : s.cur = some key) (hc : s.ctx? key = some c) :
    ∃ t, issueSlot i op s = .next t := by
  unfold issueSlot
  simp only [hk, hc]
  cases slotChecks i op s key c <;> simp

/-- With every check passed the instruction has its effect. -/
theorem issueSlot_ok {i : Instr} {op : SlotOp} {s : State} {key : Nat} {c : Ctx} (hk : s.cur = some key) (hc : s.ctx? key = some c)
    (h : slotChecks i op s key c = .ok) : issueSlot i op s = .next (op.effect s key c) := by
  simp only [issueSlot, hk, hc, h]

/-- A check that traps takes the trap and leaves the effect out. -/
theorem issueSlot_trap {i : Instr} {op : SlotOp} {s : State} {key : Nat} {c : Ctx} {k : Cause} {sw : BitVec 16} (hk : s.cur = some key)
    (hc : s.ctx? key = some c) (h : slotChecks i op s key c = .trap k sw) : issueSlot i op s = .next (s.slotTrap key i k sw) := by
  simp only [issueSlot, hk, hc, h]

/-- A check that waits leaves the effect out. -/
theorem issueSlot_wait {i : Instr} {op : SlotOp} {s : State} {key : Nat} {c : Ctx} {n : Nat} (hk : s.cur = some key)
    (hc : s.ctx? key = some c) (h : slotChecks i op s key c = .wait n) :
    issueSlot i op s = .next (if n = 5 then s.leaseAwait key (i != .mlease) else s.stallOn key n) := by
  simp only [issueSlot, hk, hc, h]

/-- Only a pair's follower sees what its leader saw: any other context sees the state as it is (03 R66). -/
theorem State.seen_of_none {s : State} {c : Ctx} (h : s.leaderOf c = none) : s.seen c = s := by
  simp [State.seen, State.seenAt, State.viewOf, h]

/-- What a context sees differs from the state in memory and the tables of translation alone. -/
theorem State.seen_ctx? (s : State) (c : Ctx) (k : Nat) : (s.seen c).ctx? k = s.ctx? k := by
  simp only [State.seen, State.seenAt]
  split <;> rfl

/-- The order of a slot instruction's checks (R114). -/
theorem slotChecks_of_accept {i : Instr} {op : SlotOp} {s : State} {key : Nat} {c : Ctx} (ha : accept c.acct i = none)
    (hp : privileged c i = false) : slotChecks i op s key c = (op.own (s.seen c) key c).and (needChk s key c [] (op.need s key c)) := by
  simp only [slotChecks, ha, hp]; rfl

@[simp] theorem Chk.and_ok (r : Chk) : Chk.and .ok r = r := rfl
@[simp] theorem Chk.and_trap (k : Cause) (sw : BitVec 16) (r : Chk) : Chk.and (.trap k sw) r = .trap k sw := rfl
@[simp] theorem Chk.and_wait (n : Nat) (r : Chk) : Chk.and (.wait n) r = .wait n := rfl
@[simp] theorem Chk.and_eq_ok (a b : Chk) : Chk.and a b = .ok ↔ a = .ok ∧ b = .ok := by cases a <;> simp [Chk.and]
@[simp] theorem Chk.need_eq_ok (b : Bool) (r : Chk) : Chk.need b r = .ok ↔ b = true ∨ r = .ok := by cases b <;> simp [Chk.need]
@[simp] theorem Chk.need_true (r : Chk) : Chk.need true r = .ok := rfl
@[simp] theorem Chk.need_false (r : Chk) : Chk.need false r = r := rfl

/-- An instruction that takes nothing waits for nothing. -/
@[simp] theorem needChk_none (s : State) (key : Nat) (c : Ctx) (l : List Need) : needChk s key c l Need.none = .ok := by
  simp [needChk, Need.none]

/-! ## Results and accesses -/

/-- A result in flight is listed last in its context; the context's ring moves on where the result takes a latch. -/
theorem State.produce_of {s : State} {key : Nat} {c : Ctx} (h : s.ctx? key = some c) (sl : Slot) (latency : Nat) (act : Act) (latched : Bool)
    (mask : Mask) (value : Row) (flags : BitVec 5) :
    s.produce key sl latency act latched mask value flags =
      ({ s with nextId := s.nextId + 1 }).setCtx key
        { c with
          inflight := c.inflight ++ [(⟨s.nextId, !c.tm, c.time, c.time + BitVec.ofNat 48 latency, sl, c.pc, act,
            if latched then c.nextLatch sl else none, mask, value, flags, c.issued⟩ : Inflight)]
          rings := if latched then (c.advanceRing sl).rings else c.rings } := by
  simp only [State.produce, h]
  cases latched
  · rfl
  · simp only [if_true, Ctx.advanceRing]
    split <;> rfl

/-- An access is listed last, with the context's program-order number, and takes a fresh name. -/
theorem State.addGiver_of {s : State} {key : Nat} {c : Ctx} (h : s.ctx? key = some c) (cls : Option Nat) (deps strict : List Nat)
    (give : Option (Nat × Nat)) (op : AccOp) :
    s.addGiver key cls deps strict give op =
      ({ s with
        accs := s.accs ++
          [(⟨s.nextId, key, c.grp, cls, c.progNo, 0, s.whoOf key c, c.pc, c.comb, s.clock, false, none, false, false, deps, strict,
            c.storesInFlight, none, give, none, op⟩ : Acc)]
        nextId := s.nextId + 1 }).setCtx key { c with progNo := c.progNo + 1 } := by
  simp only [State.addGiver, h]

theorem State.addAcc_of {s : State} {key : Nat} {c : Ctx} (h : s.ctx? key = some c) (cls : Option Nat) (deps strict : List Nat) (op : AccOp) :
    s.addAcc key cls deps strict op =
      ({ s with
        accs := s.accs ++
          [(⟨s.nextId, key, c.grp, cls, c.progNo, 0, s.whoOf key c, c.pc, c.comb, s.clock, false, none, false, false, deps, strict,
            c.storesInFlight, none, none, none, op⟩ : Acc)]
        nextId := s.nextId + 1 }).setCtx key { c with progNo := c.progNo + 1 } :=
  State.addGiver_of h cls deps strict none op

/-- An engine command is listed with the token that it gives, and the token is PENDING in its next generation. -/
theorem State.command_of {s : State} {key : Nat} {c : Ctx} (h : s.ctx? key = some c) (cls : Option Nat) (give : Nat) (after : After)
    (extra : List Nat) (op : AccOp) :
    s.command key cls give after extra op =
      ({ s with
        accs := s.accs ++
          [(⟨s.nextId, key, c.grp, cls, c.progNo, 0, s.whoOf key c, c.pc, c.comb, s.clock, false, none, false, false,
            s.classDeps key c cls ++ extra, c.fenceDeps cls ++ s.tokenDeps c after, c.storesInFlight, none, some (give, (c.token give).gen + 1), none, op⟩ : Acc)]
        nextId := s.nextId + 1 }).setCtx key
        { c with progNo := c.progNo + 1, tokens := c.tokens.write .empty give ⟨true, (c.token give).gen + 1, s.nextId⟩ } := by
  simp only [State.command, h, State.addGiver_of h, State.giveToken]
  rw [State.mapCtx_of _ _ (State.ctx?_setCtx_self _ _ _), State.setCtx_setCtx]
  rfl

end Sys2Proof.Machine
end

