-- ==== Sys2Proof/Laws/Storage.lean ====
section
/-! SUPPORT. What an access to a memory line meets beside its bytes can change: poison, errors, row counters, refreshes and firmware's log
(14 R279 to R284, R292). -/

namespace Sys2Proof.Machine

/-- t is s but for its poison directory, its errors, the counters of its rows and firmware's log. -/
def Met (s t : State) : Prop :=
  ∃ p e rc rf ac ra iq, t = { s with poison := p, ecc := e, rowCount := rc, refresh := rf, accesses := ac, ras := ra, irqs := iq }

theorem Met.refl (s : State) : Met s s := ⟨s.poison, s.ecc, s.rowCount, s.refresh, s.accesses, s.ras, s.irqs, rfl⟩

theorem Met.trans {s t u : State} (a : Met s t) (b : Met t u) : Met s u := by
  obtain ⟨_, _, _, _, _, _, _, rfl⟩ := a
  obtain ⟨p, e, rc, rf, ac, ra, iq, rfl⟩ := b
  exact ⟨p, e, rc, rf, ac, ra, iq, rfl⟩

/-- Tiles are not touched. -/
theorem Met.tile {s t : State} (h : Met s t) (i : Nat) : t.tile i = s.tile i := by
  obtain ⟨_, _, _, _, _, _, _, rfl⟩ := h
  rfl

/-- A change that each item of a list makes. -/
theorem Met.foldl {α : Type} (f : State → α → State) (h : ∀ s a, Met s (f s a)) : ∀ (l : List α) (s : State), Met s (l.foldl f s)
  | [], s => Met.refl s
  | a :: l, s => (h s a).trans (Met.foldl f h l (f s a))

theorem Met.raiseIrq (s : State) (f v : Nat) : Met s (s.raiseIrq f v) := by
  unfold State.raiseIrq
  split
  · exact Met.refl s
  · exact ⟨s.poison, s.ecc, s.rowCount, s.refresh, s.accesses, s.ras, _, rfl⟩

theorem Met.log (s : State) (r : Ras) : Met s (s.log r) := by
  have h : Met s { s with ras := s.ras ++ [r] } := ⟨s.poison, s.ecc, s.rowCount, s.refresh, s.accesses, _, s.irqs, rfl⟩
  exact h.trans (Met.foldl _ (fun s f => Met.raiseIrq s f 3) s.ownerFns _)

theorem Met.ofEcc (s : State) (e : Ecc) : Met s { s with ecc := e } := ⟨s.poison, e, s.rowCount, s.refresh, s.accesses, s.ras, s.irqs, rfl⟩

theorem Met.ofPoison (s : State) (p : List Nat) (e : Ecc) : Met s { s with poison := p, ecc := e } :=
  ⟨p, e, s.rowCount, s.refresh, s.accesses, s.ras, s.irqs, rfl⟩

theorem Met.correctable (s : State) (u : BitVec 32) : Met s (s.correctable u) := (Met.ofEcc s _).trans (Met.log _ _)

theorem Met.spareTsv (s : State) (t : Tsv) : Met s (s.spareTsv t) := by
  unfold State.spareTsv
  split
  · exact Met.refl s
  · exact (Met.ofEcc s _).trans (Met.log _ _)

theorem Met.countTsv (s : State) (t : Tsv) : Met s (s.countTsv t) := by
  unfold State.countTsv
  dsimp only
  split
  · exact (Met.ofEcc s _).trans (Met.spareTsv _ t)
  · exact Met.ofEcc s _

theorem Met.spareRow (s : State) (row unit : Nat) : Met s (s.spareRow row unit) := by
  unfold State.spareRow
  dsimp only
  split
  · exact Met.refl s
  · exact (Met.ofEcc s _).trans (Met.log _ _)

theorem Met.countRow (s : State) (l : Nat) : Met s (s.countRow l) := by
  unfold State.countRow
  dsimp only
  split
  · exact Met.refl s
  · split
    · exact (Met.ofEcc s _).trans (Met.spareRow _ _ _)
    · exact Met.ofEcc s _

theorem Met.lineLost (s : State) (l : Nat) : Met s (s.lineLost l) := by
  have hp : Met s { s.poisonLine l with ecc := { s.ecc with lines := s.ecc.lines.erase l } } := by
    unfold State.poisonLine
    split
    · exact Met.ofEcc s _
    · exact Met.ofPoison s _ _
  unfold State.lineLost
  dsimp only
  have h := (hp.trans (Met.log _ (.uncorrectable (lineUnit l).toNat))).trans
    (Met.foldl State.spareTsv Met.spareTsv (((s.lineErrors l).map (tsvOf l)).filter s.ecc.tsvDown).eraseDups _)
  split
  · exact h.trans (Met.spareRow _ _ _)
  · exact h

/-- The decoder meets a line. -/
theorem Met.meetLine (s : State) (l : Nat) : Met s (s.meetLine l) := by
  unfold State.meetLine
  dsimp only
  split
  · exact Met.refl s
  · split
    · exact Met.lineLost s l
    · have h := ((Met.ofEcc s _).trans (Met.correctable { s with ecc := { s.ecc with lines := s.ecc.lines.erase l } } (lineUnit l))).trans (Met.countRow _ l)
      split
      · exact h.trans (Met.foldl _ (fun s i => Met.countTsv s (tsvOf l i)) _ _)
      · exact h

theorem Met.meetLines (s : State) (pa n : Nat) : Met s (s.meetLines pa n) := by
  unfold State.meetLines
  split
  · exact Met.refl s
  · exact Met.foldl _ Met.meetLine _ s

/-- A row opens for an access. -/
theorem Met.activate (s : State) (pa : Nat) : Met s (s.activate pa) := by
  unfold State.activate
  split
  · exact Met.refl s
  · exact ⟨s.poison, _, _, _, _, _, _, rfl⟩

/-- A run is read or written. -/
theorem Met.meet (s : State) (pa n : Nat) : Met s (s.meet pa n) := (Met.foldl _ Met.activate _ s).trans (Met.meetLines _ pa n)

theorem Met.meetAll (s : State) (l : List (Nat × Nat)) : Met s (s.meetAll l) := 
  Met.foldl (fun s (r : Nat × Nat) => s.meet r.1 r.2) (fun s r => Met.meet s r.1 r.2) l s

end Sys2Proof.Machine
end

