-- ==== Sys2Proof/Laws/Trace.lean ====
section
/-! SUPPORT. What the trace of an instruction can change: memory, a tile's trace block, and a context's trace counters (15 R308 to R310). -/

namespace Sys2Proof.Machine

/-- t is s but for memory with what an access to it meets, the trace blocks of tiles and the trace counters of contexts. -/
structure Traced (s t : State) : Prop where
  rest : ∃ m p w e ts cs rc rf ac ra iq, t = { s with
    mem := m, poison := p, wordPoison := w, ecc := e, tiles := ts, ctxs := cs, rowCount := rc, refresh := rf, accesses := ac, ras := ra, irqs := iq }
  tile : ∀ i, ∃ b n d, t.tile i = { s.tile i with tbuf := b, tseq := n, tdrop := d }
  ctx  : ∀ k, (s.ctx? k = none ∧ t.ctx? k = none)
    ∨ ∃ c b n y, s.ctx? k = some c ∧ t.ctx? k = some { c with bnd := b, sinceSync := n, needSync := y }

theorem Traced.refl (s : State) : Traced s s where
  rest := ⟨s.mem, s.poison, s.wordPoison, s.ecc, s.tiles, s.ctxs, s.rowCount, s.refresh, s.accesses, s.ras, s.irqs, rfl⟩
  tile _ := ⟨_, _, _, rfl⟩
  ctx k := by
    cases h : s.ctx? k with
    | none => exact .inl ⟨rfl, rfl⟩
    | some c => exact .inr ⟨c, c.bnd, c.sinceSync, c.needSync, rfl, rfl⟩

theorem Traced.trans {s t u : State} (a : Traced s t) (b : Traced t u) : Traced s u where
  rest := by
    obtain ⟨_, _, _, _, _, _, _, _, _, _, _, rfl⟩ := a.rest
    obtain ⟨m, p, w, e, ts, cs, rc, rf, ac, ra, iq, rfl⟩ := b.rest
    exact ⟨m, p, w, e, ts, cs, rc, rf, ac, ra, iq, rfl⟩
  tile i := by
    obtain ⟨_, _, _, h1⟩ := a.tile i
    obtain ⟨b', n, d, h2⟩ := b.tile i
    rw [h1] at h2
    exact ⟨b', n, d, h2⟩
  ctx k := by
    rcases a.ctx k with ⟨h1, h2⟩ | ⟨c, b1, n1, y1, h1, h2⟩ <;> rcases b.ctx k with ⟨h3, h4⟩ | ⟨c', b2, n2, y2, h3, h4⟩
    · exact .inl ⟨h1, h4⟩
    · rw [h2] at h3; cases h3
    · rw [h2] at h3; cases h3
    · rw [h2] at h3; cases h3; exact .inr ⟨c, b2, n2, y2, h1, h4⟩

/-- A change of memory with its poison and errors. -/
theorem Traced.ofMem (s : State) (m : List Host.Cell) (p : List Nat) (w : List Loc) (e : Ecc) :
    Traced s { s with mem := m, poison := p, wordPoison := w, ecc := e } where
  rest := ⟨m, p, w, e, s.tiles, s.ctxs, s.rowCount, s.refresh, s.accesses, s.ras, s.irqs, rfl⟩
  tile _ := ⟨_, _, _, rfl⟩
  ctx k := (Traced.refl s).ctx k

/-- What an access to memory meets. -/
theorem Traced.ofMet {s t : State} (h : Met s t) : Traced s t := by
  obtain ⟨p, e, rc, rf, ac, ra, iq, rfl⟩ := h
  exact ⟨⟨s.mem, p, s.wordPoison, e, s.tiles, s.ctxs, rc, rf, ac, ra, iq, rfl⟩, fun _ => ⟨_, _, _, rfl⟩, fun k => (Traced.refl s).ctx k⟩

/-- A change of a tile's trace block. -/
theorem Traced.ofTile (s : State) (i : Nat) (b : Tab (List Byte)) (n d : Nat) :
    Traced s (s.setTile i { s.tile i with tbuf := b, tseq := n, tdrop := d }) where
  rest := ⟨s.mem, s.poison, s.wordPoison, s.ecc, _, s.ctxs, s.rowCount, s.refresh, s.accesses, s.ras, s.irqs, rfl⟩
  tile j := by
    rw [State.tile_setTile]
    by_cases h : j = i
    · subst h; exact ⟨b, n, d, by simp⟩
    · exact ⟨_, _, _, by simp only [h, if_false]; rfl⟩
  ctx k := (Traced.refl s).ctx k

theorem Traced.ofTileEq (s : State) (i : Nat) {v : Tile} (h : s.tile i = v) (b : Tab (List Byte)) (n d : Nat) :
    Traced s (s.setTile i { v with tbuf := b, tseq := n, tdrop := d }) := h ▸ Traced.ofTile s i b n d

/-- A change of a context's trace counters. -/
theorem Traced.ofCtx (s : State) (key : Nat) (b n : Ctx → Nat) (y : Ctx → Bool) :
    Traced s (s.mapCtx key fun c => { c with bnd := b c, sinceSync := n c, needSync := y c }) := by
  cases h : s.ctx? key with
  | none => simp only [State.mapCtx, h]; exact Traced.refl s
  | some c =>
    rw [State.mapCtx_of s _ h]
    refine ⟨⟨s.mem, s.poison, s.wordPoison, s.ecc, s.tiles, _, s.rowCount, s.refresh, s.accesses, s.ras, s.irqs, rfl⟩, fun _ => ⟨_, _, _, rfl⟩, fun k => ?_⟩
    rw [State.ctx?_setCtx]
    by_cases hk : k = key
    · subst hk; exact .inr ⟨c, b c, n c, y c, h, by simp⟩
    · simp only [hk, if_false]; exact (Traced.refl s).ctx k

theorem Traced.needSyncs (s : State) (tile : Nat) : Traced s (s.needSyncs tile) where
  rest := ⟨s.mem, s.poison, s.wordPoison, s.ecc, s.tiles, _, s.rowCount, s.refresh, s.accesses, s.ras, s.irqs, rfl⟩
  tile _ := ⟨_, _, _, rfl⟩
  ctx k := by
    have key : ∀ l : Tab Ctx, (Tab.find l k = none ∧ Tab.find (l.map fun p => if keyTile p.1 = tile then (p.1, { p.2 with needSync := true }) else p) k = none)
        ∨ ∃ c b n y, Tab.find l k = some c ∧ Tab.find (l.map fun p => if keyTile p.1 = tile then (p.1, { p.2 with needSync := true }) else p) k
            = some { c with bnd := b, sinceSync := n, needSync := y } := by
      intro l
      induction l with
      | nil => exact .inl ⟨rfl, rfl⟩
      | cons p rest ih =>
        obtain ⟨a, v⟩ := p
        by_cases ha : a = k
        · subst ha
          refine .inr ⟨v, v.bnd, v.sinceSync, if keyTile a = tile then true else v.needSync, by simp [Tab.find], ?_⟩
          by_cases ht : keyTile a = tile <;> simp [Tab.find, ht]
        · by_cases ht : keyTile a = tile <;> simpa [Tab.find, ha, ht] using ih
    exact key s.ctxs

theorem State.tile_meetAll_write64 (s t : State) (l : List (Nat × Nat)) (pa : Nat) (v : Word) (i : Nat) (h : t.tile i = s.tile i) :
    ((t.meetAll l).write64 pa v).tile i = s.tile i := (Met.tile (Met.meetAll t l) i).trans h

theorem Traced.meetAll_write64 {s t : State} (h : Traced s t) (l : List (Nat × Nat)) (pa : Nat) (v : Word) :
    Traced s ((t.meetAll l).write64 pa v) := (h.trans (Traced.ofMet (Met.meetAll t l))).trans (Traced.ofMem _ _ _ _ _)

theorem State.tile_ringBlock (s : State) (q place wr : Nat) (block : List Byte) (i : Nat) : (s.ringBlock q place wr block).tile i = s.tile i :=
  State.tile_meetAll_write64 s _ _ _ _ i rfl

theorem Traced.ringBlock (s : State) (q place wr : Nat) (block : List Byte) : Traced s (s.ringBlock q place wr block) :=
  Traced.meetAll_write64 (Traced.ofMem s _ _ _ _) _ _ _

theorem Traced.traceBlock (s : State) (tile : Nat) (r : TraceRing) (body : List Byte) : Traced s (s.traceBlock tile r body) := by
  unfold State.traceBlock
  dsimp only
  split
  · exact (Traced.ofTile s tile _ _ _).trans (Traced.needSyncs _ tile)
  · exact (Traced.ringBlock s _ _ _ _).trans (Traced.ofTileEq _ tile (State.tile_ringBlock s _ _ _ _ tile) _ _ _)

theorem Traced.mapTbuf (s : State) (tile : Nat) (f : Tile → Tab (List Byte)) : Traced s (s.mapTile tile fun t => { t with tbuf := f t }) :=
  Traced.ofTile s tile (f (s.tile tile)) (s.tile tile).tseq (s.tile tile).tdrop

theorem Traced.traceRoom (s : State) (tile : Nat) (r : TraceRing) (n : Nat) : Traced s (s.traceRoom tile r n) := by
  unfold State.traceRoom
  dsimp only
  split
  · exact Traced.refl s
  · exact (Traced.traceBlock s tile r _).trans (Traced.mapTbuf _ tile _)

theorem Traced.tracePush (s : State) (tile : Nat) (r : TraceRing) (pkt : List Byte) : Traced s (s.tracePush tile r pkt) := by
  unfold State.tracePush
  exact (Traced.traceRoom s tile r _).trans (Traced.mapTbuf _ tile _)

theorem Traced.traceBnd (s : State) (key : Nat) (r : TraceRing) : Traced s (s.traceBnd key r) := by
  unfold State.traceBnd
  split
  · exact Traced.refl s
  · split
    · exact Traced.refl s
    · exact (Traced.tracePush s _ r _).trans (Traced.ofCtx _ key (fun _ => 0) (fun c => c.sinceSync) fun c => c.needSync)

theorem Traced.traceSync (s : State) (key : Nat) : Traced s (s.traceSync key) := by
  unfold State.traceSync
  split
  · exact Traced.refl s
  · split
    · exact Traced.refl s
    · exact ((Traced.traceBnd s key _).trans (Traced.tracePush _ _ _ _)).trans
        (Traced.ofCtx _ key (fun c => c.bnd) (fun _ => 0) fun _ => false)

theorem Traced.traceOwed (s : State) (key : Nat) : Traced s (s.traceOwed key) := by
  unfold State.traceOwed
  split
  · exact Traced.refl s
  · split
    · exact Traced.traceSync s key
    · exact Traced.refl s

/-- A packet changes memory, the tile's trace block and the context's trace counters. -/
theorem Traced.trace (s : State) (key : Nat) (pkt : List Byte) : Traced s (s.trace key pkt) := by
  unfold State.trace
  split
  · exact Traced.refl s
  · exact ((((Traced.traceBnd s key _).trans (Traced.traceOwed _ key)).trans (Traced.traceRoom _ _ _ _)).trans (Traced.traceOwed _ key)).trans
      (Traced.tracePush _ _ _ _)

theorem Traced.traceFlush (s : State) (key : Nat) : Traced s (s.traceFlush key) := by
  unfold State.traceFlush
  split
  · exact Traced.refl s
  · exact (Traced.traceBnd s key _).trans (Traced.traceOwed _ key)

theorem Traced.traceThenSync (s : State) (key : Nat) (pkt : List Byte) : Traced s (s.traceThenSync key pkt) :=
  (Traced.trace s key pkt).trans (Traced.traceSync _ key)

theorem Traced.traceStall (key cause : Nat) : ∀ (f clocks : Nat) (s : State), Traced s (s.traceStall key cause f clocks)
  | 0, _, s => Traced.refl s
  | f + 1, clocks, s => by
    unfold State.traceStall
    split
    · exact Traced.refl s
    · split
      · exact Traced.trace s key _
      · exact (Traced.trace s key _).trans (Traced.traceStall key cause f _ _)

/-! ## What follows -/

theorem State.trace_accs (s : State) (key : Nat) (pkt : List Byte) : (s.trace key pkt).accs = s.accs := by
  obtain ⟨_, _, _, _, _, _, _, _, _, _, _, h⟩ := (Traced.trace s key pkt).rest; rw [h]

theorem State.trace_lease (s : State) (key i : Nat) (pkt : List Byte) : ((s.trace key pkt).tile i).lease = (s.tile i).lease := by
  obtain ⟨_, _, _, h⟩ := (Traced.trace s key pkt).tile i; rw [h]

/-- Without a ring bound to the node's chain no packet leaves a mark. -/
theorem State.trace_none {s : State} {key : Nat} {c : Ctx} (hc : s.ctx? key = some c) (h : s.traceRing c.node = none) (pkt : List Byte) :
    s.trace key pkt = s := by
  simp [State.trace, hc, h]

end Sys2Proof.Machine
end

