-- ==== Sys2Proof/Tests/Slice0.lean ====
section
/-! SUPPORT. Tests of the model's own making: ill-formed terms that WellFormed refuses, words written out from the encodings of spec/ (05 R92 to
R113) with the instructions they stand for, witnesses that meet the hypotheses of the statements, and a few single steps. -/

namespace Sys2Proof.Tests

open Sys2Proof.Machine Sys2Proof.Claims

-- one theorem after another: all at once they take more threads than the check's memory limit allows
set_option Elab.async false

theorem test_decode_scalar_register_forms : ∀ p ∈ ([
    (0x103F9E800000000, .add (.s 63) (.latch 15) (.s 32)),
    (0x203E9C840000000, .sub (.s 62) (.latch 14) (.s 33)),
    (0x308007080000000, .mul .off (.s 3) (.latch 2)),
    (0x403C988C0000000, .mulh false (.s 60) (.latch 12) (.s 35)),
    (0x513B96900000000, .div true (.s 59) (.latch 11) (.s 36)),
    (0x60800D140000000, .mod false .off (.s 6) (.latch 5)),
    (0x703992980000000, .and (.s 57) (.latch 9) (.s 38)),
    (0x8038909C0000000, .andn (.s 56) (.latch 8) (.s 39)),
    (0x908013200000000, .or .off (.s 9) (.latch 8)),
    (0xA0368CA40000000, .xor (.s 54) (.latch 6) (.s 41)),
    (0xB0358AA80000000, .shl (.s 53) (.latch 5) (.s 42)),
    (0xC080192C0000000, .shr .off (.s 12) (.latch 11)),
    (0xD03386B00000000, .sar (.s 51) (.latch 3) (.s 44)),
    (0xE03284B40000000, .rotl (.s 50) (.latch 2) (.s 45)),
    (0xF1801F380000000, .min true .off (.s 15) (.latch 14)),
    (0x1003080BC0000000, .max false (.s 48) (.latch 0) (.s 47))] : List (Nat × Instr)),
    decodeTableWord 512 (bundleOf 400 p.1) = some p.2 := by decide +kernel

theorem test_decode_scalar_immediate_forms : ∀ p ∈ ([
    (0x210050207FFFFFFF, .addImm (.s 5) (.s 1) 0x7FFFFFFF),
    (0x22080060FFFFFFF1, .subImm .off (.s 3) 0xFFFFFFF1),
    (0x230070A07FFFFFFD, .mulImm (.s 7) (.s 5) 0x7FFFFFFD),
    (0x240800E0FFFFFFF3, .mulhImm false .off (.s 7) 0xFFFFFFF3),
    (0x251091207FFFFFFB, .divImm true (.s 9) (.s 9) 0x7FFFFFFB),
    (0x26080160FFFFFFF5, .modImm false .off (.s 11) 0xFFFFFFF5),
    (0x2700B1A07FFFFFF9, .andImm (.s 11) (.s 13) 0x7FFFFFF9),
    (0x280801E0FFFFFFF7, .andnImm .off (.s 15) 0xFFFFFFF7),
    (0x2900D2207FFFFFF7, .orImm (.s 13) (.s 17) 0x7FFFFFF7),
    (0x2A080260FFFFFFF9, .xorImm .off (.s 19) 0xFFFFFFF9),
    (0x2B00F2A07FFFFFF5, .shlImm (.s 15) (.s 21) 0x7FFFFFF5),
    (0x2C0802E0FFFFFFFB, .shrImm .off (.s 23) 0xFFFFFFFB),
    (0x2D0113207FFFFFF3, .sarImm (.s 17) (.s 25) 0x7FFFFFF3),
    (0x2E080360FFFFFFFD, .rotlImm .off (.s 27) 0xFFFFFFFD),
    (0x2F1133A07FFFFFF1, .minImm true (.s 19) (.s 29) 0x7FFFFFF1),
    (0x300803E0FFFFFFFF, .maxImm false .off (.s 31) 0xFFFFFFFF)] : List (Nat × Instr)),
    decodeTableWord 512 (bundleOf 400 p.1) = some p.2 := by decide +kernel

theorem test_decode_scalar_compares : ∀ p ∈ ([
    (0x1100014500000000, .cmp .eq false (.s 0) (.s 10) (.s 20)),
    (0x3110014000000000, .cmpImm .eq true (.s 0) (.s 10) 0),
    (0x1130116540000000, .cmp .ne true (.s 1) (.s 11) (.s 21)),
    (0x3120116000000001, .cmpImm .ne false (.s 1) (.s 11) 1),
    (0x1140218580000000, .cmp .lt false (.s 2) (.s 12) (.s 22)),
    (0x3150218000000002, .cmpImm .lt true (.s 2) (.s 12) 2),
    (0x117031A5C0000000, .cmp .ge true (.s 3) (.s 13) (.s 23)),
    (0x316031A000000003, .cmpImm .ge false (.s 3) (.s 13) 3),
    (0x118041C600000000, .cmp .le false (.s 4) (.s 14) (.s 24)),
    (0x319041C000000004, .cmpImm .le true (.s 4) (.s 14) 4),
    (0x11B051E640000000, .cmp .gt true (.s 5) (.s 15) (.s 25)),
    (0x31A051E000000005, .cmpImm .gt false (.s 5) (.s 15) 5),
    (0x120090309F800000, .sel (.s 9) (.s 1) (.latch 2) (.s 63))] : List (Nat × Instr)),
    decodeTableWord 512 (bundleOf 400 p.1) = some p.2 := by decide +kernel

theorem test_decode_scalar_moves : ∀ p ∈ ([
    (0x1801E50000000000, .mov (.s 30) (.s 40)),
    (0x1908052000000000, .clz .off (.s 41)),
    (0x1A02054000000000, .ctz (.s 32) (.s 42)),
    (0x1B08056000000000, .popc .off (.s 43)),
    (0x1C02258000000000, .bswap (.s 34) (.s 44)),
    (0x1D00104000000000, .sext 8 (.s 1) (.s 2)),
    (0x1E0039E000000000, .zext 8 (.s 3) (.latch 15)),
    (0x1D10104000000000, .sext 16 (.s 1) (.s 2)),
    (0x1E1039E000000000, .zext 16 (.s 3) (.latch 15)),
    (0x1D20104000000000, .sext 32 (.s 1) (.s 2)),
    (0x1E2039E000000000, .zext 32 (.s 3) (.latch 15)),
    (0x4001100089ABCDEF, .li (.s 17) 0x89ABCDEF),
    (0x4108000001234567, .lih .off 0x01234567)] : List (Nat × Instr)),
    decodeTableWord 512 (bundleOf 400 p.1) = some p.2 := by decide +kernel

theorem test_decode_scalar_control : ∀ p ∈ ([
    (0x48000000FFFFFFFF, .br 0xFFFFFFFF),
    (0x4908000000000000, .brc .eqz (.latch 0) 0),
    (0x4918200000000005, .brc .nez (.latch 1) 5),
    (0x492840000000000A, .brc .ltz (.latch 2) 10),
    (0x493860000000000F, .brc .gez (.latch 3) 15),
    (0x4948800000000014, .brc .gtz (.latch 4) 20),
    (0x4958A00000000019, .brc .lez (.latch 5) 25),
    (0x4A00000080000000, .bl 0x80000000),
    (0x4B00000000000000, .ret),
    (0x4C80FFFFF000FFFF, .loopImm 0xFFFFF 0xFFFF),
    (0x4C3F000000000001, .loopReg (.s 63) 1),
    (0x4D00000000000000, .loopx)] : List (Nat × Instr)),
    decodeTableWord 512 (bundleOf 400 p.1) = some p.2 := by decide +kernel

theorem test_decode_scalar_system : ∀ p ∈ ([
    (0x500000E00000003F, .stg 63 (.s 7)),
    (0x5100C00000000018, .gts (.s 12) 24),
    (0x52080000000007FF, .spl .off 2047),
    (0x5300082000000064, .sps (.latch 1) 100),
    (0x5400500000000020, .sysr (.s 5) 0x020),
    (0x550000C000000003, .sysw 0x003 (.s 6)),
    (0x580000000000FFFF, .trap 0xFFFF),
    (0x5900000000000000, .rte),
    (0x5A00000000000000, .exit),
    (0x5B00000000000012, .flgclr 0b10010)] : List (Nat × Instr)),
    decodeTableWord 512 (bundleOf 400 p.1) = some p.2 := by decide +kernel

theorem test_decode_header : ∀ p ∈ ([
    (0x81000000000, .pop 0x81),
    (0xF00000000, .hold 15),
    (0x80000000, .brk),
    (0x40000000, .mark)] : List (Nat × Instr)),
    decodeTableWord 512 (bundleOf 464 p.1) = some p.2 := by decide +kernel

theorem test_decode_vector_arithmetic_va : ∀ p ∈ ([
    (0x1A013FFBFFC078000, .vadd ⟨false, .f16, ⟨0, false⟩, .nearest, .row 2047⟩ (.row 2047) (.latch 15)),
    (0x291A483C07C838000, .vsub ⟨false, .f32, ⟨1, true⟩, .zero, .port 7⟩ (.latch 15) (.head 7)),
    (0x3A23800483D1F8000, .vmul ⟨false, .f16, ⟨2, false⟩, .up, .off⟩ (.head 7) (.scalar 63)),
    (0x493C3FFD1FE006008, .vfma ⟨false, .f32, ⟨3, true⟩, .down, .row 2047⟩ (.scalar 63) .zero .lane),
    (0x5A41483E00600E010, .vfms ⟨false, .f16, ⟨4, false⟩, .nearest, .port 7⟩ .zero .lane .ones),
    (0x695A800600E010008, .vfnma ⟨false, .f32, ⟨5, true⟩, .zero, .off⟩ .lane .ones (.row 1)),
    (0x7A603FFE010008000, .vmin ⟨false, .f16, ⟨6, false⟩, .slot, .row 2047⟩ .ones (.row 1)),
    (0x8978483800BFF8000, .vmax ⟨false, .f32, ⟨7, true⟩, .slot, .port 7⟩ (.row 1) (.row 2047))] : List (Nat × Instr)),
    decodeTableWord 512 (bundleOf 328 p.1) = some p.2 := by decide +kernel

theorem test_decode_vector_arithmetic_vb : ∀ p ∈ ([
    (0x9A808003FF8000000, .vabs ⟨true, .f16, ⟨8, false⟩, .slot, .off⟩ (.row 2047)),
    (0xA9983FFC078000000, .vneg ⟨true, .f32, ⟨9, true⟩, .slot, .row 2047⟩ (.latch 15)),
    (0xBAA3483C83D1F8000, .vabd ⟨true, .f16, ⟨10, false⟩, .up, .port 7⟩ (.head 7) (.scalar 63))] : List (Nat × Instr)),
    decodeTableWord 512 (bundleOf 256 p.1) = some p.2 := by decide +kernel

theorem test_decode_vector_logic_va : ∀ p ∈ ([
    (0x111000018026010000, .vsel ⟨false, .i8, ⟨0, false⟩, .slot, .row 3⟩ (.row 4) .ones),
    (0x180F83FFD1FE000000, .vand ⟨false, .b, ⟨15, true⟩, .slot, .row 2047⟩ (.scalar 63) .zero),
    (0x190E0483E006008000, .vor ⟨false, .b, ⟨14, false⟩, .slot, .port 7⟩ .zero .lane),
    (0x1A0D8800600E010000, .vxor ⟨false, .b, ⟨13, true⟩, .slot, .off⟩ .lane .ones),
    (0x1B0C03FFE010008000, .vandn ⟨false, .b, ⟨12, false⟩, .slot, .row 2047⟩ .ones (.row 1)),
    (0x1C0B84838008000000, .vnot ⟨false, .b, ⟨11, true⟩, .slot, .port 7⟩ (.row 1)),
    (0x1D6A08003FFC078000, .vshl ⟨false, .n16, ⟨10, false⟩, .slot, .off⟩ (.row 2047) (.latch 15)),
    (0x1E6983FFC07C838000, .vshr ⟨false, .n16, ⟨9, true⟩, .slot, .row 2047⟩ (.latch 15) (.head 7)),
    (0x1F680483C83D1F8000, .vsar ⟨false, .n16, ⟨8, false⟩, .slot, .port 7⟩ (.head 7) (.scalar 63)),
    (0x205000000048050001, .vclmul true ⟨false, .n8, ⟨0, false⟩, .slot, .row 0⟩ (.row 9) (.row 10)),
    (0x207000000048050000, .vclmul false ⟨false, .n32, ⟨0, false⟩, .slot, .row 0⟩ (.row 9) (.row 10)),
    (0x210000044018000000, .vpopc ⟨false, .b, ⟨0, false⟩, .slot, .row 8⟩ (.latch 3)),
    (0x226008004818000000, .vclz ⟨false, .n16, ⟨0, false⟩, .slot, .off⟩ (.head 3))] : List (Nat × Instr)),
    decodeTableWord 512 (bundleOf 328 p.1) = some p.2 := by decide +kernel

theorem test_decode_vector_two_types_vb : ∀ p ∈ ([
    (0x2891B0030038005800, .vcvt .bf16 ⟨true, .f32, ⟨1, true⟩, .up, .row 6⟩ (.row 7)),
    (0x29D19005806006CFF8, .vqtxb .f32 255 ⟨true, .txb6, ⟨1, true⟩, .nearest, .row 11⟩ (.row 12) (.row 13)),
    (0x2AA1A800006501F400, .vdqtxb .txb4 128 ⟨true, .f16, ⟨1, true⟩, .zero, .off⟩ (.row 12) (.scalar 3)),
    (0x4811800A00A80B1001, .vpack true .i16 ⟨true, .i8, ⟨1, true⟩, .slot, .row 20⟩ (.row 21) (.row 22)),
    (0x4861800A00A80B1800, .vpack false .i32 ⟨true, .n16, ⟨1, true⟩, .slot, .row 20⟩ (.row 21) (.row 22)),
    (0x4931848100A8001001, .vunpk true .i16 ⟨true, .i32, ⟨1, true⟩, .slot, .port 2⟩ (.row 21)),
    (0x4961848100A8002800, .vunpk false .n8 ⟨true, .n16, ⟨1, true⟩, .slot, .port 2⟩ (.row 21))] : List (Nat × Instr)),
    decodeTableWord 512 (bundleOf 256 p.1) = some p.2 := by decide +kernel

theorem test_decode_vector_transcendental_va : ∀ p ∈ ([
    (0x309000320640000000, .vrcp ⟨false, .f32, ⟨0, false⟩, .slot, .row 100⟩ (.row 200)),
    (0x319140328648000000, .vrsq ⟨false, .f32, ⟨1, false⟩, .down, .row 101⟩ (.row 201)),
    (0x329200330650000000, .vsqrt ⟨false, .f32, ⟨2, false⟩, .slot, .row 102⟩ (.row 202)),
    (0x339340338658000000, .vexp2 ⟨false, .f32, ⟨3, false⟩, .down, .row 103⟩ (.row 203)),
    (0x349400340660000000, .vlog2 ⟨false, .f32, ⟨4, false⟩, .slot, .row 104⟩ (.row 204)),
    (0x359540348668000000, .vtanh ⟨false, .f32, ⟨5, false⟩, .down, .row 105⟩ (.row 205))] : List (Nat × Instr)),
    decodeTableWord 512 (bundleOf 328 p.1) = some p.2 := by decide +kernel

theorem test_decode_vector_reduction_va : ∀ p ∈ ([
    (0x389030008010000000, .vsum ⟨false, .f32, ⟨0, false⟩, .up, .row 1⟩ (.row 2)),
    (0x39200001C800000000, .vscan .add ⟨false, .i16, ⟨0, false⟩, .slot, .row 3⟩ (.head 0)),
    (0x39200001C800000001, .vscan .xor ⟨false, .i16, ⟨0, false⟩, .slot, .row 3⟩ (.head 0)),
    (0x39200001C800000002, .vscan .max ⟨false, .i16, ⟨0, false⟩, .slot, .row 3⟩ (.head 0)),
    (0x39200001C800000003, .vscan .min ⟨false, .i16, ⟨0, false⟩, .slot, .row 3⟩ (.head 0)),
    (0x3A5008006008000000, .vmaxr ⟨false, .n8, ⟨0, false⟩, .slot, .off⟩ .lane)] : List (Nat × Instr)),
    decodeTableWord 512 (bundleOf 328 p.1) = some p.2 := by decide +kernel

theorem test_decode_vector_movement_va : ∀ p ∈ ([
    (0x407000028030038000, .vperm ⟨false, .n32, ⟨0, false⟩, .slot, .row 5⟩ (.row 6) (.row 7)),
    (0x41A0000280300007F8, .vbcast 255 ⟨false, .f16, ⟨0, false⟩, .slot, .row 5⟩ (.row 6)),
    (0x4230000280350483F8, .vins 127 ⟨false, .i32, ⟨0, false⟩, .slot, .row 5⟩ (.row 6) (.scalar 9)),
    (0x435000028030000FF8, .vext 511 ⟨false, .n8, ⟨0, false⟩, .slot, .row 5⟩ (.row 6)),
    (0x447480070000000000, .viota ⟨false, .n32, ⟨4, true⟩, .slot, .row 14⟩ ),
    (0x45700007D00D015018, .vrng ⟨false, .n32, ⟨0, false⟩, .slot, .row 15⟩ (.scalar 1) (.scalar 2) (.scalar 3)),
    (0x460004806000000000, .vmov ⟨false, .b, ⟨0, false⟩, .slot, .port 0⟩ .zero),
    (0x47200002803003F808, .vslide (-255) ⟨false, .i16, ⟨0, false⟩, .slot, .row 5⟩ (.row 6) (.row 7)),
    (0x4720000280300387F8, .vslide 255 ⟨false, .i16, ⟨0, false⟩, .slot, .row 5⟩ (.row 6) (.row 7)),
    (0x4A9700028030000000, .vcmpr ⟨false, .f32, ⟨7, false⟩, .slot, .row 5⟩ (.row 6))] : List (Nat × Instr)),
    decodeTableWord 512 (bundleOf 328 p.1) = some p.2 := by decide +kernel

theorem test_decode_vector_masks : ∀ p ∈ ([
    (0x10100007800C040000, .vcmp ⟨false, ⟨0, false⟩, 15⟩ .i8 .eq (.row 1) (.latch 8)),
    (0x10118007000C040001, .vcmp ⟨false, ⟨1, true⟩, 14⟩ .i8 .ne (.row 1) (.latch 8)),
    (0x10120006800C040002, .vcmp ⟨false, ⟨2, false⟩, 13⟩ .i8 .lt (.row 1) (.latch 8)),
    (0x10138006000C040003, .vcmp ⟨false, ⟨3, true⟩, 12⟩ .i8 .le (.row 1) (.latch 8)),
    (0x10140005800C040004, .vcmp ⟨false, ⟨4, false⟩, 11⟩ .i8 .gt (.row 1) (.latch 8)),
    (0x10158005000C040005, .vcmp ⟨false, ⟨5, true⟩, 10⟩ .i8 .ge (.row 1) (.latch 8)),
    (0x10B60004800C040006, .vcmp ⟨false, ⟨6, false⟩, 9⟩ .bf16 .un (.row 1) (.latch 8)),
    (0x500080008010078000, .mand ⟨false, ⟨0, true⟩, 1⟩ 2 15),
    (0x510180010018070000, .mor ⟨false, ⟨1, true⟩, 2⟩ 3 14),
    (0x520280018020068000, .mxor ⟨false, ⟨2, true⟩, 3⟩ 4 13),
    (0x530000048050000000, .mnot ⟨false, ⟨0, false⟩, 9⟩ 10),
    (0x5462000F0038000000, .mpopc ⟨false, .n16, ⟨2, false⟩, .slot, .row 30⟩ 7),
    (0x5550800F8040000000, .mfirst ⟨false, .n8, ⟨0, true⟩, .slot, .row 31⟩ 8),
    (0x560000018000001000, .mset ⟨false, ⟨0, false⟩, 3⟩ 512)] : List (Nat × Instr)),
    decodeTableWord 512 (bundleOf 328 p.1) = some p.2 := by decide +kernel

theorem test_decode_matrix : ∀ p ∈ ([
    (0x107D0001800, .mma .mac false 2000 1 true .bf16),
    (0x15FA1002100, .mmaVirtual .ada false 4001 2 false .f16),
    (0x187D2003A00, .mma .csel false 2002 3 true .txb8),
    (0x13FA3004300, .mmaVirtual .mac true 4003 4 false .txb6),
    (0x167D4005C00, .mma .ada true 2004 5 true .txb4),
    (0x1BFA5006500, .mmaVirtual .csel true 4005 6 false .i8),
    (0x2FFE47E003F, .mdlt 511 200 31 ⟨some 0, none, some 31⟩),
    (0x3A69A188000, .mwld true 77 6 ⟨some 1, some 2, none⟩),
    (0x47D0FF00000, .macz 2000 256),
    (0x58100000000, .munf 129),
    (0x60000000000, .mlease),
    (0x70000000000, .mrel)] : List (Nat × Instr)),
    decodeTableWord 512 (bundleOf 208 p.1) = some p.2 := by decide +kernel

theorem test_decode_transpose : ∀ p ∈ ([
    (0x19050000, .xpush (.head 5)),
    (0x204D0000, .xpop (.row 77)),
    (0x30000000, .xcfg)] : List (Nat × Instr)),
    decodeTableWord 512 (bundleOf 176 p.1) = some p.2 := by decide +kernel

theorem test_decode_loads : ∀ p ∈ ([
    (0x10E03FFF007FFF, .ld ⟨0, 7⟩ .i8 (.s 63) 255 0 16383),
    (0x11D000FE20BFFE, .ld ⟨1, 6⟩ .i16 .off 254 8 16382),
    (0x12A03FFD40FFFD, .ld ⟨2, 5⟩ .i32 (.s 63) 253 16 16381),
    (0x139000FC613FFC, .ld ⟨3, 4⟩ .i64 .off 252 24 16380),
    (0x14603FFB817FFB, .ld ⟨4, 3⟩ .n8 (.s 63) 251 32 16379),
    (0x155000FAA1BFFA, .ld ⟨5, 2⟩ .n16 .off 250 40 16378),
    (0x16203FF9C1FFF9, .ld ⟨6, 1⟩ .n32 (.s 63) 249 48 16377),
    (0x171000F8E23FF8, .ld ⟨7, 0⟩ .n64 .off 248 56 16376),
    (0x2F07FF010BFFF3, .vld ⟨15, 0⟩ (.row 2047) 1 2 8191 ⟨9, true⟩),
    (0x317000FEF3CC00, .vldt ⟨1, 3⟩ .off 254 60 15 ⟨3, false⟩),
    (0x42A02107C011E8, .vgath ⟨2, 5⟩ (.row 33) 7 .lane 1 ⟨14, true⟩)] : List (Nat × Instr)),
    decodeTableWord 512 (bundleOf 120 p.1) = some p.2 := by decide +kernel

theorem test_decode_stores : ∀ p ∈ ([
    (0x148A0814560008, .st ⟨4, true⟩ .n64 (.scalar 8) 20 21 8),
    (0x14080214004001, .st ⟨4, false⟩ .i8 (.latch 2) 20 0 1),
    (0x20800904000021, .vst ⟨0, true⟩ (.row 9) 4 0 1 ⟨0, true⟩),
    (0x3F0C0203296000, .vstt ⟨15, false⟩ .ones 3 10 ⟨5, true⟩),
    (0x47090602064600, .vscat ⟨7, false⟩ (.head 6) 2 (.row 100) ⟨6, false⟩)] : List (Nat × Instr)),
    decodeTableWord 512 (bundleOf 64 p.1) = some p.2 := by decide +kernel

theorem test_decode_copy : ∀ p ∈ ([
    (0x1F81041E, .cp 31 ⟨none, some 0, some 0⟩ 15),
    (0x2F010C5C, .cpw 30 ⟨none, some 1, some 2⟩ 14),
    (0x3E81149A, .cpwb 29 ⟨none, some 2, some 4⟩ 13),
    (0x4E011CD8, .cpfill 28 ⟨none, some 3, some 6⟩ 12)] : List (Nat × Instr)),
    decodeTableWord 512 (bundleOf 32 p.1) = some p.2 := by decide +kernel

theorem test_decode_synchronisation : ∀ p ∈ ([
    (0x808FC00, .atom .add 1 0 63 .i32),
    (0x891F880, .atom .fadd 2 1 62 .i64),
    (0x91AF500, .atom .min 3 2 61 .n32),
    (0x9A3F180, .atom .max 4 3 60 .n64),
    (0xA2CEE00, .atom .and 5 4 59 .f32),
    (0xAB5E800, .atom .or 6 5 58 .i32),
    (0xB3EE480, .atom .xor 7 6 57 .i64),
    (0xBC7E100, .atom .xchg 8 7 56 .n32),
    (0xC48DD80, .atom .cas 9 0 55 .n64),
    (0x10000000, .red .add 0 .i32),
    (0x108C0000, .red .fadd 1 .f32),
    (0x11130000, .red .min 2 .n64),
    (0x11990000, .red .max 3 .i64),
    (0x1E000400, .arrive true 0x8001),
    (0x18000000, .arrive false 0),
    (0x26000800, .waitph true 0x8002),
    (0x20000000, .waitph false 0),
    (0x2E000C00, .waitcnt true 0x8003),
    (0x28000000, .waitcnt false 0)] : List (Nat × Instr)),
    decodeTableWord 512 (bundleOf 0 p.1) = some p.2 := by decide +kernel

theorem test_decode_synchronisation_requests_1 : ∀ p ∈ ([
    (0x30000000, .drain .hbm),
    (0x31000000, .drain .cap),
    (0x32000000, .drain .win),
    (0x33000000, .drain .host),
    (0x34000000, .drain .peer),
    (0x35000000, .drain .tile),
    (0x38000800, .fence .ctx 0x1),
    (0x38001100, .fence .tile 0x2),
    (0x38002200, .fence .group 0x4),
    (0x38004300, .fence .die 0x8),
    (0x38008400, .fence .pkg 0x10),
    (0x38010500, .fence .sys 0x20),
    (0x40000000, .pagereq),
    (0x48000000, .launch),
    (0x57F80000, .signal 255),
    (0x58000000, .shoot .page),
    (0x59000000, .shoot .range),
    (0x5A000000, .shoot .tenant),
    (0x60000000, .shmap),
    (0x68FF8000, .lnctlInval 511)] : List (Nat × Instr)),
    decodeTableWord 512 (bundleOf 0 p.1) = some p.2 := by decide +kernel

theorem test_decode_synchronisation_requests_2 : ∀ p ∈ ([
    (0x69000000, .lnctlInvalall),
    (0x6A800000, .lnctlSetref 256)] : List (Nat × Instr)),
    decodeTableWord 512 (bundleOf 0 p.1) = some p.2 := by decide +kernel

/-! ## Ill-formed terms: one for each check of WellFormed -/

def anyPred : Pred := ⟨0, false⟩
def head0 : VHead := ⟨false, .i32, anyPred, .slot, .row 0⟩
def mhead0 : MHead := ⟨false, anyPred, 0⟩
def after0 : After := ⟨none, none, none⟩

theorem refuses_operands : ∀ i ∈ [Instr.mov (.s 0) (.s 64), .mov (.s 0) (.latch 16), .mov (.s 64) (.s 0), .vmov head0 (.row 2048), .vmov head0 (.latch 16),
    .vmov head0 (.head 8), .vmov head0 (.scalar 64), .vmov { head0 with d := .row 2048 } .zero, .vmov { head0 with d := .port 8 } .zero,
    .vld ⟨0, 0⟩ (.row 2048) 0 0 0 anyPred, .vmov { head0 with p := ⟨16, false⟩ } .zero, .vmov { head0 with rm := .nearest } .zero,
    .vadd { head0 with rm := .up } .zero .zero, .vcvt .i32 { head0 with rm := .down } .zero, .vscan .add { head0 with rm := .zero } .zero,
    .mset { mhead0 with d := 16 } 0, .mset { mhead0 with p := ⟨16, true⟩ } 0, .ld ⟨16, 0⟩ .n64 (.s 0) 0 0 0, .ld ⟨0, 8⟩ .n64 (.s 0) 0 0 0,
    .st ⟨16, false⟩ .n64 .zero 0 0 0, .cp 0 ⟨some 32, none, none⟩ 0, .cpw 0 ⟨none, some 32, none⟩ 0, .cpwb 0 ⟨none, none, some 32⟩ 0,
    .arrive false 1, .waitph false 0x8000, .waitcnt false 1], i.wf = false := by decide

theorem refuses_scalar_fields : ∀ i ∈ [Instr.sext 64 (.s 0) (.s 0), .zext 0 (.s 0) (.s 0), .loopImm (2 ^ 20) 0, .loopImm 0 (2 ^ 16), .loopReg (.s 0) (2 ^ 16),
    .stg 64 (.s 0), .gts (.s 0) 64, .spl (.s 0) 4096, .sysr (.s 0) 4096, .sps (.s 0) 4096, .sysw 4096 (.s 0), .pop 0, .hold 0, .hold 16], i.wf = false := by
  decide

theorem refuses_vector_fields : ∀ i ∈ [Instr.vbcast 4096 head0 .zero, .vext 4096 head0 .zero, .vins 4096 head0 .zero .zero, .vslide 2048 head0 .zero .zero,
    .vslide (-2049) head0 .zero .zero, .vqtxb .f32 256 head0 .zero .zero, .vdqtxb .bf16 256 head0 .zero .zero, .mand mhead0 16 0, .mor mhead0 0 16,
    .mnot mhead0 16, .mpopc head0 16, .mfirst { head0 with d := .port 0 } 0, .mpopc { head0 with d := .port 0 } 0, .mset mhead0 4096], i.wf = false := by
  decide

theorem refuses_matrix_fields : ∀ i ∈ [Instr.mma .mac false 2048 0 false .bf16, .mma .mac false 0 2048 false .bf16, .mmaVirtual .ada true 4096 0 false .i8,
    .mmaVirtual .ada true 0 2048 false .i8, .mdlt 512 0 0 after0, .mdlt 0 256 0 after0, .mdlt 0 0 32 after0, .mwld false 256 0 after0,
    .mwld false 0 32 after0, .macz 2048 1, .macz 0 0, .macz 0 257, .munf 256, .xpop .off], i.wf = false := by decide

theorem refuses_memory_fields : ∀ i ∈ [Instr.ld ⟨0, 0⟩ .n64 (.s 0) 256 0 0, .ld ⟨0, 0⟩ .n64 (.s 0) 0 64 0, .ld ⟨0, 0⟩ .n64 (.s 0) 0 0 (2 ^ 14),
    .vld ⟨0, 0⟩ (.row 0) 0 0 (2 ^ 13) anyPred, .vldt ⟨0, 0⟩ (.row 0) 256 0 0 anyPred, .vldt ⟨0, 0⟩ (.row 0) 0 64 0 anyPred,
    .vldt ⟨0, 0⟩ (.row 0) 0 0 16 anyPred, .vgath ⟨0, 0⟩ (.row 0) 256 .zero 0 anyPred, .vgath ⟨0, 0⟩ (.row 0) 0 .zero 16 anyPred,
    .st ⟨0, false⟩ .n64 .zero 256 0 0, .st ⟨0, false⟩ .n64 .zero 0 0 (2 ^ 14), .vst ⟨0, false⟩ .zero 0 0 (2 ^ 13) anyPred,
    .vstt ⟨0, false⟩ .zero 256 0 anyPred, .vstt ⟨0, false⟩ .zero 0 64 anyPred, .vscat ⟨0, false⟩ .zero 256 .zero anyPred,
    .cp 32 after0 0, .cpfill 0 after0 16, .atom .cas 16 0 0 .i64, .atom .cas 0 8 0 .i64, .atom .cas 0 0 64 .i64, .red .add 16 .i32, .red .and 0 .i32,
    .signal 256, .lnctlInval 512, .lnctlSetref 512], i.wf = false := by decide

theorem admits_bounds : ∀ i ∈ [Instr.mov (.s 63) (.latch 15), .vadd { head0 with ty := .f32, rm := .up, d := .port 7, p := ⟨15, true⟩ } (.row 2047) (.head 7),
    .hold 15, .macz 2047 256, .vslide (-2048) head0 .zero .lane, .arrive true 0xFFFF, .red .fadd 15 .f32, .munf 255], i.wf = true := by decide
/-! ## Witnesses: scalar slot, control, traps -/

/-- `soloMemory`, written out. -/
def mem0 : List Host.Cell :=
  [(4103, 0x30), (32770, 0x01), (32775, 0x80), (65537, 0x80), (65538, 0x01), (65543, 0x80), (98305, 0x27), (98307, 0x08), (98311, 0xC0)]

theorem mem0_eq : mem0 = soloMemory := by decide +kernel

/-- The package of `State.solo`, its context c holding issue. -/
def at0 (c : Ctx) : State := { State.solo State.reset with mem := mem0, ctxs := [(0, c)], cur := some 0 }

/-- Its context as it starts. -/
def ctx0 : Ctx := { Ctx.initial 0 soloRecord soloNode 0 0 0 with status := .running }

/-- The context in trap time. -/
def ctxT : Ctx := { ctx0 with tm := true, status := .trap, tvec := 0x20000, tframe := 0x40000, limit := [] }

theorem issues0 (c : Ctx) : Issues (at0 c) 0 c := ⟨rfl, rfl⟩

theorem witness_ScalarInstructionsComplete : Issues (at0 ctx0) 0 ctx0
    ∧ ∀ i ∈ [Instr.add (.s 0) (.s 63) (.latch 15), .addImm .off (.s 0) 0x80000000, .div true (.s 1) (.s 2) (.s 0), .div false (.s 1) (.s 2) (.s 9),
        .modImm true (.s 1) (.s 2) 0, .shl (.s 3) (.s 4) (.s 5), .cmp .gt true (.s 3) (.s 4) (.s 5), .sel (.s 1) (.s 2) (.s 3) (.s 4), .sext 8 (.s 1) (.s 2),
        .lih .off 0xFFFFFFFF, .lih (.s 0) 1, .gts (.s 63) 63], i.wf = true ∧ (scalarResult ctx0 i).isSome = true :=
  ⟨issues0 _, by decide +kernel⟩

theorem witness_RelativeBranchesComplete : Issues (at0 ctx0) 0 ctx0
    ∧ validAddress (bundleAfter ctx0 (0x7FFFFFFF : BitVec 32).toInt) ∧ validAddress (bundleAfter ctx0 (0xFFFFFFFF : BitVec 32).toInt)
    ∧ zeroTest (ctx0.scalar (.s 0)) .eqz ∧ ¬ zeroTest (ctx0.scalar (.s 0)) .nez := by
  refine ⟨issues0 _, ?_⟩; unfold validAddress bundleAfter zeroTest; decide +kernel

/-- One bundle below the end of the lower canonical half. -/
def ctxEdge : Ctx := { ctx0 with pc := 0x007FFFFFFFFFFFC0 }

theorem witness_BranchBeyondRangeTraps : Issues (at0 ctxEdge) 0 ctxEdge ∧ ¬ validAddress (bundleAfter ctxEdge (1 : BitVec 32).toInt)
    ∧ validAddress (bundleAfter ctxEdge (0 : BitVec 32).toInt) := by
  refine ⟨issues0 _, ?_⟩; unfold validAddress bundleAfter; decide +kernel

/-- s63 holds a value. -/
def ctxLink (v : Word) : Ctx := { ctx0 with sregs := [(63, v)] }

theorem witness_RetFollowsTheLinkRegister :
    (Issues (at0 (ctxLink 0x40)) 0 (ctxLink 0x40) ∧ validAddress ((ctxLink 0x40).readS 63).toInt ∧ ((ctxLink 0x40).readS 63).toNat % 64 = 0)
    ∧ ¬ validAddress ((ctxLink 0x0080000000000000).readS 63).toInt
    ∧ validAddress ((ctxLink 0x41).readS 63).toInt ∧ ((ctxLink 0x41).readS 63).toNat % 64 ≠ 0 := by
  refine ⟨⟨issues0 _, ?_⟩, ?_⟩ <;> unfold validAddress <;> decide +kernel

/-- Open loops of the given last bundles, the innermost first, and a count of 2 in s5. -/
def ctxLoops (l : List Word) : Ctx := { ctx0 with loops := l.map fun a => ⟨0x10000, a, 1, 0⟩, sregs := [(5, 2)] }

theorem witness_LoopOpens :
    (Issues (at0 (ctxLoops [0x10080])) 0 (ctxLoops [0x10080]) ∧ nests (ctxLoops [0x10080]) 2)
    ∧ (BitVec.ofNat 64 0 = (0 : Word) ∧ (ctxLoops []).scalar (.s 0) = 0)
    ∧ ((1 : Nat) ≠ 0 ∧ BitVec.ofNat 64 2 ≠ (0 : Word) ∧ (ctxLoops (List.replicate 6 0x10080)).scalar (.s 5) ≠ 0 ∧ 6 ≤ (ctxLoops (List.replicate 6 0x10080)).loops.length)
    ∧ (ctxLoops [0x10000]).scalar (.s 5) ≠ 0 ∧ (ctxLoops [0x10000]).loops.length < 6 ∧ ¬ nests (ctxLoops [0x10000]) 1 := by
  refine ⟨⟨issues0 _, by decide, ?_⟩, by decide, by decide +kernel, by decide, by decide, ?_⟩
  · intro e h; cases h; unfold bundleAfter; decide +kernel
  · intro h; exact absurd rfl (h.2 _ rfl).1

theorem witness_LoopxLeavesTheInnermostLoop : Issues (at0 (ctxLoops [0x10080, 0x10080])) 0 (ctxLoops [0x10080, 0x10080])
    ∧ (∃ e rest, (ctxLoops [0x10080, 0x10080]).loops = e :: rest) ∧ (ctxLoops []).loops = [] := ⟨issues0 _, ⟨_, _, rfl⟩, rfl⟩

theorem witness_LoopEndFollowsTheStack : (⟨0, 64, 2, 0⟩ : LoopEnt).last = 64 ∧ 1 < (2 : Word).toNat ∧ (⟨0, 64, 1, 0⟩ : LoopEnt).trip.toNat ≤ 1
    ∧ (⟨0, 64, 1, 0⟩ : LoopEnt).last ≠ 128 := by decide

theorem witness_AfterABundleTheNextIsNamed : (at0 ctx0).ctx? 0 = some ctx0 ∧ ctx0.exiting = false ∧ ctx0.rte = none
    ∧ (at0 ctx0).stopAsked ctx0 ≠ some false ∧ ctxT.tm = true ∧ ctx0.tm = false := by decide +kernel

theorem witness_StagingAndSpillComplete : Issues (at0 ctx0) 0 ctx0
    ∧ (if ctx0.tm then 2047 * 8 < 4096 else 2047 * 8 < ctx0.pk.spill * 64) ∧ ¬ (if ctx0.tm then 2048 * 8 < 4096 else 2048 * 8 < ctx0.pk.spill * 64)
    ∧ (if ctxT.tm then 511 * 8 < 4096 else 511 * 8 < ctxT.pk.spill * 64) ∧ ¬ (if ctxT.tm then 512 * 8 < 4096 else 512 * 8 < ctxT.pk.spill * 64) :=
  ⟨issues0 _, by decide +kernel⟩

theorem witness_SysrReadsEveryControlRegister : Issues (at0 ctx0) 0 ctx0
    ∧ (∀ i ∈ [0x000, 0x001, 0x002, 0x003, 0x004, 0x005, 0x006, 0x007, 0x008, 0x009, 0x010, 0x017, 0x020, 0x030, 0x035], (controlWord ctx0 i).isSome = true)
    ∧ ∀ i ∈ [0x00A, 0x00F, 0x018, 0x01F, 0x021, 0x02F, 0x036, 0xFFF], controlWord ctx0 i = none := ⟨issues0 _, by decide +kernel⟩

/-- s5 holds a value. -/
def ctxValue (v : Word) : Ctx := { ctx0 with sregs := [(5, v)] }

theorem witness_SyswChecksItsRegister :
    (Issues (at0 (ctxValue 9)) 0 (ctxValue 9) ∧ writable (ctxValue 9) 2 ∧ mayHold 2 ((ctxValue 9).scalar (.s 5)))
    ∧ (writable (ctxValue 1025) 0x010 ∧ ¬ mayHold 0x010 ((ctxValue 1025).scalar (.s 5)) ∧ mayHold 0x017 ((ctxValue 1024).scalar (.s 5)))
    ∧ ((controlWord (ctxValue 0) 8).isSome = true ∧ ¬ writable (ctxValue 0) 8 ∧ writable ctxT 8) ∧ controlWord (ctxValue 0) 0x018 = none := by
  refine ⟨⟨issues0 _, ?_⟩, ?_⟩ <;> simp only [writable, mayHold] <;> decide +kernel

/-- A message is in qh1, in sequence and due; channel 1 binds it. -/
def ctxHead : Ctx := { ctx0 with lcc := 1000, heads := [(1, ⟨[⟨5, 1, 0, 0⟩], 0, none⟩)] }

theorem ready1 : headReady ctxHead 1 :=
  ⟨by decide, ⟨5, 1, 0, 0⟩, [], ⟨0, 0, 1, 0, 0, 1, 2⟩, rfl, by decide +kernel, rfl, by decide +kernel⟩

theorem witness_HeaderActionsComplete : Issues (at0 ctx0) 0 ctx0 ∧ ctx0.skipBrk = false ∧ { ctx0 with skipBrk := true }.skipBrk = true :=
  ⟨issues0 _, rfl, rfl⟩

theorem witness_PopAdvancesItsHeads : Issues (at0 ctxHead) 0 ctxHead
    ∧ (∀ q < 8, (2 : BitVec 8).getLsbD q = true → headReady ctxHead q)
    ∧ ∃ q < 8, (1 : BitVec 8).getLsbD q = true ∧ ¬ (q < ({ ctx0 with pk := { soloPacket with recvs := 0 } } : Ctx).pk.recvs
        ∧ (({ ctx0 with pk := { soloPacket with recvs := 0 } } : Ctx).recvChan q).isSome) := by
  refine ⟨issues0 _, ?_, 0, by decide, by decide, by decide +kernel⟩
  intro q hq h
  have : q = 1 := by have := (by decide : ∀ q < 8, (2 : BitVec 8).getLsbD q = true → q = 1); exact this q hq h
  exact this ▸ ready1

theorem witness_PrivilegedInstructionsTrapAtProgramLevel : Issues (at0 ctx0) 0 ctx0 ∧ ctx0.tm = false := ⟨issues0 _, rfl⟩

/-- CTL.TVEC and CTL.TFRAME set, the frame in mapped memory. -/
def ctxHandler : Ctx := { ctx0 with tvec := 0x20000, tframe := 0x40000 }

theorem handler0 : hasHandler (at0 ctxHandler) 0 ctxHandler := by unfold hasHandler; decide +kernel

theorem witness_TrapEntersTheHandler : Issues (at0 ctxHandler) 0 ctxHandler ∧ ctxHandler.tm = false ∧ (at0 ctxHandler).twinOf ctxHandler = none ∧ ctxHandler.tframe ≠ 0
    ∧ ctxHandler.tvec ≠ 0 ∧ (at0 ctxHandler).frameFaults 0 ctxHandler = false := ⟨issues0 _, by decide +kernel⟩

/-- The frame beyond the mapped 128 MiB. -/
def ctxFaulting : Ctx := { ctxHandler with tframe := 0x10000000 }

theorem witness_TrapWithoutAHandlerIsFatal : Issues (at0 ctxT) 0 ctxT ∧ (at0 ctxT).twinOf ctxT = none ∧ ctxT.tm = true
    ∧ (at0 ctx0).twinOf ctx0 = none ∧ ctx0.tm = false ∧ (ctx0.tframe = 0 ∨ ctx0.tvec = 0)
    ∧ (at0 ctxFaulting).twinOf ctxFaulting = none ∧ ctxFaulting.tframe ≠ 0 ∧ ctxFaulting.tvec ≠ 0 ∧ (at0 ctxFaulting).frameFaults 0 ctxFaulting = true :=
  ⟨issues0 _, by decide +kernel⟩

theorem witness_ExitEndsTheContext : Issues (at0 ctx0) 0 ctx0 ∧ ctx0.windows = [] ∧ (at0 ctx0).traceRing ctx0.node = none
    ∧ ((at0 ctx0).tile (keyTile 0)).lease ≠ some (0 % 4)
    ∧ (let s := { at0 ctx0 with ctxs := [(0, ctx0), (1, ctx0)] }
       Issues s 0 ctx0 ∧ 1 ≠ 0 ∧ s.ctx? 1 = some ctx0) :=
  ⟨issues0 _, rfl, by decide +kernel, by decide +kernel, ⟨rfl, rfl⟩, by decide, rfl⟩

/-- A result of the program in flight with three lc to go. -/
def flying (sl : Slot) (act : Act) : Inflight := result (at0 ctx0) ctx0 sl 3 act false 0 0 0

theorem witness_TrapFrameLayout : (ctxLoops (List.replicate 6 0)).loops.length ≤ 6 ∧ entryCount [] ≤ 192 ∧ ([] : List Trap).length ≤ 4
    ∧ (ctxLoops (List.replicate 6 0)).loops[5]?.isSome = true ∧ (List.replicate 4 (⟨⟨0x10, 0, .s, 0⟩, 1, 0, 0, 0⟩ : Trap)).length ≤ 4
    ∧ (let l := [flying .st (.tstore 4 false 0 3 (some [])), flying .mx (.macz 9 2), flying .s (.scalar 7)]
       entryCount l ≤ 192 ∧ (0, flying .st (.tstore 4 false 0 3 (some []))) ∈ indexed 0 l ∧ (2, flying .mx (.macz 9 2)) ∈ indexed 0 l
        ∧ (flying .mx (.macz 9 2)).act.kind = 8 ∧ (3, flying .s (.scalar 7)) ∈ indexed 0 l) := by
  decide +kernel

/-- The leaf of soloMemory's page tables. -/
def leaf0 : Word := 0xC000000008002700

/-- A frame at CTL.TFRAME whose words are zero but for CTL.ACCT's image, F32; its page's leaf is in the TLB. -/
def withFrame (c : Ctx) : State := { at0 c with
  mem := mem0 ++ [(soloFrame + 0x40100, 9)]
  tiles := [(0, { Tile.reset with holder := some 0, last := 0, tlb := [{ tenant := 1, page := 0, big := true, node := none, leaf := leaf0 }] })] }

theorem witness_RteRestoresTheFrame :
    let s := withFrame ctxT
    let c1 : Ctx := { ctxT with rte := some ctxT.tframe }
    let s1 := withCtx s 0 c1
    let va := (canonicalOf ctxT.tframe.toNat).toInt
    let w := s1.whoProgram 0 c1
    Issues s 0 ctxT ∧ ctxT.tm = true ∧ ctxT.windows = [] ∧ ctxT.landed = [] ∧ s.twinOf ctxT = none ∧ s1.returnReady 0 c1 = true
      ∧ s1.framePoisoned w va = false ∧ s1.frameValid w va c1 = true ∧ s.traceRing ctxT.node = none :=
  ⟨⟨rfl, rfl⟩, by decide +kernel⟩

/-- Entries that a handler meets: a scalar's, and a tensor store's in two. -/
def ctxEntries : Ctx := { ctxT with trapEntries := [flying .s (.scalar 7), flying .st (.tstore 4 false 0 3 (some []))] }

/-- Their frame, with three entries and one deferred fault: NENT 3 and NDEF 1 of word 0, the fault's code and SRC, SLOT, KIND, REMAIN and DEST of the
entries. -/
def withEntries : State := { withFrame ctxEntries with
  mem := [(0, 3 * 2 ^ 33 + 2 ^ 30), (0x100, 9), (0x140, 8 * 2 ^ 56 + 2 ^ 45), (0x4000, 3 * 2 ^ 48 + 7 * 2 ^ 32),
    (0x4280, 6 * 2 ^ 60 + 9 * 2 ^ 56 + 3 * 2 ^ 48 + 4 * 2 ^ 32), (0x4500, 6 * 2 ^ 60 + 10 * 2 ^ 56 + 3 * 2 ^ 48)].foldl
      (fun m p => writeMem m (soloFrame + 0x40000 + p.1) (bytesOf 8 p.2)) mem0 }

theorem witness_RteRestoresEntries :
    let c1 : Ctx := { ctxEntries with rte := some ctxEntries.tframe }
    let s1 := withCtx withEntries 0 c1
    let va := (canonicalOf ctxEntries.tframe.toNat).toInt
    let w := s1.whoProgram 0 c1
    Issues withEntries 0 ctxEntries ∧ ctxEntries.tm = true ∧ ctxEntries.windows = [] ∧ ctxEntries.landed = [] ∧ withEntries.twinOf ctxEntries = none
      ∧ s1.returnReady 0 c1 = true ∧ s1.framePoisoned w va = false ∧ s1.frameValid w va c1 = true
      ∧ (0, flying .s (.scalar 7)) ∈ indexed 0 ctxEntries.trapEntries :=
  ⟨⟨rfl, rfl⟩, by decide +kernel⟩

/-! ## Witnesses: vector slots, matrix slot, transposer -/

/-- A predicate of every lane. -/
def allOn : Pred := ⟨0, false⟩

/-- Heads of an instruction on a row, a port and the latch alone. -/
def onRow (ty : Ty) : VHead := ⟨false, ty, allOn, .slot, .row 2047⟩
def onPort (ty : Ty) : VHead := ⟨true, ty, allOn, .slot, .port 7⟩
def onLatch (ty : Ty) : VHead := ⟨false, ty, ⟨3, true⟩, .slot, .off⟩

theorem sources0 : sourceReady ctx0 (.row 2047) ∧ sourceReady ctx0 (.row 0) ∧ sourceReady ctxHead (.head 1) ∧ sourceReady ctx0 (.scalar 63) :=
  ⟨⟨by decide, by decide +kernel⟩, ⟨by decide, by decide +kernel⟩, ready1, trivial⟩

theorem dests0 (ty : Ty) : destReady ctx0 (onRow ty).d ∧ destReady ctx0 (onPort ty).d ∧ destReady ctx0 (onLatch ty).d :=
  ⟨show 2047 < ctx0.pk.rows by decide, ⟨by decide, by decide +kernel, by decide +kernel⟩, trivial⟩

/-- The context with another element type. -/
def ctxTy (ty : Ty) : Ctx := { ctx0 with acct := ty }

theorem witness_VectorLaneInstructionsComplete : Issues (at0 ctx0) 0 ctx0 ∧ Issues (at0 ctxHead) 0 ctxHead ∧ Issues (at0 (ctxTy .i8)) 0 (ctxTy .i8)
    ∧ (∀ i ∈ [Instr.vadd (onRow .f32) (.row 2047) (.scalar 63), .vfma (onPort .f32) (.row 0) .ones .lane, .vmax (onLatch .f32) (.row 0) .zero,
        .vrcp (onRow .f32) (.row 0), .vbcast 127 (onRow .f32) (.row 0), .vslide (-127) (onRow .f32) (.row 0) .zero, .mpopc (onRow .n32) 15,
        .vrng (onPort .n32) (.scalar 1) (.scalar 2) (.scalar 3), .viota (onRow .n32)],
        i.wf = true ∧ (laneResult ctx0 i).isSome = true ∧ accept ctx0.acct i = none)
    ∧ (∀ i ∈ [Instr.vadd (onRow .i8) (.row 0) (.latch 15), .vsar (onLatch .i8) (.row 0) .lane, .vclmul true (onRow .n8) (.row 0) (.row 1),
        .vins 511 (onRow .i8) (.row 0) .ones], i.wf = true ∧ (laneResult (ctxTy .i8) i).isSome = true ∧ accept .i8 i = none)
    ∧ (Instr.vadd (onRow .f32) (.head 1) .zero).wf = true :=
  ⟨issues0 _, issues0 _, issues0 _, by decide +kernel⟩

theorem witness_MaskInstructionsComplete : Issues (at0 ctx0) 0 ctx0
    ∧ (∀ i ∈ [Instr.mand ⟨false, allOn, 1⟩ 0 15, .mnot ⟨true, ⟨3, true⟩, 0⟩ 2, .mset ⟨false, allOn, 15⟩ 128],
        i.wf = true ∧ (maskResult ctx0 i).isSome = true ∧ accept ctx0.acct i = none)
    ∧ (Instr.vcmp ⟨false, allOn, 1⟩ .f32 .un (.row 0) .zero).wf = true ∧ accept ctx0.acct (.vcmp ⟨false, allOn, 1⟩ .f32 .un (.row 0) .zero) = none :=
  ⟨issues0 _, by decide +kernel⟩

/-- A TILE handle of two granules, and one that a window exports from. -/
def tileHandle (bmode : Nat) : Handle := { Handle.empty with
  st := .bound, desc := { HDesc.empty with size := 8192, bmode := bmode, back := if bmode = 0 then 0 else 0x100000 } }

/-- A tensor in plain virtual memory: 128 by 8 elements of 4 bytes. -/
def plainDesc (ty : Ty) : TDesc := { TDesc.empty with fmt := ty, rank := 2, base := 0x100000, x := [128, 8, 0, 0, 0, 0], str := [1, 128, 0, 0, 0, 0] }

/-- The context with handles and a tensor bound. -/
def ctxObj (t : TDesc) (h : Handle) : Ctx := { ctx0 with handles := [(3, h)], tensors := [(4, ⟨.bound, t⟩)] }

/-- Weights of TXB8 in virtual memory. -/
def weightsDesc : TDesc := { TDesc.empty with
  fmt := .txb8, rank := 2, base := 0x100000, sbase := 0x140000, linear := true, x := [256, 128, 0, 0, 0, 0], str := [1, 256, 0, 0, 0, 0] }

/-- Staging registers set. -/
def staging (c : Ctx) (l : Tab Word) : Ctx := { c with eregs := l }

theorem witness_VectorRowInstructionsComplete : Issues (at0 ctx0) 0 ctx0
    ∧ (let c := ctxObj weightsDesc (tileHandle 0)
       Issues (at0 c) 0 c ∧ 4 < c.pk.tns ∧ (c.tensor 4).st = .bound ∧ (c.tensor 4).desc.fmt = .txb8)
    ∧ ∀ i ∈ [Instr.vsum (onRow .f32) (.row 0), .vscan .max (onPort .f32) (.row 0), .vext 127 (onRow .i32) (.row 0), .vcvt .f32 (onRow .bf16) (.row 0),
        .vpack true .i32 (onRow .i16) (.row 0) (.row 1), .vunpk true .i16 (onRow .i32) (.row 0), .vcmpr (onLatch .f32) (.row 0),
        .vqtxb .f32 4 (onRow .txb8) (.row 0) (.row 0), .vdqtxb .txb8 4 (onRow .f32) (.row 0) .zero],
        i.wf = true ∧ (rowResult ctx0 i).isSome = true ∧ accept ctx0.acct i = none :=
  ⟨issues0 _, ⟨issues0 _, by decide +kernel⟩, by decide +kernel⟩

/-- I8 weights in buffer 0, and an activation of 2 by 2 bytes bound. -/
def ctxWeights : Ctx := { staging (ctxObj weightsDesc (tileHandle 0)) [(24, 0)] with
  acct := .i32, wb0 := { WBuf.empty with fmt := some .i8 }, unf := some ⟨3, 1, 2, 2, 0, 0, 1, 1, 1, 1, 1, 1, 0⟩ }

theorem witness_MatrixPushesComplete : Issues (at0 ctxWeights) 0 ctxWeights ∧ (at0 ctxWeights).leaseReady 0 ctxWeights = true
    ∧ 2047 < ctxWeights.pk.rows ∧ (ctxWeights.wbuf 0).fmt = some .i8 ∧ accept ctxWeights.acct (.mma .csel false 2046 2047 true .i8) = none
    ∧ accept ctxWeights.acct (.mmaVirtual .mac false 4095 2047 false .i8) = none
    ∧ ∃ u, ctxWeights.unf = some u ∧ 128 * PushFmt.i8.kd * ((ctxWeights.readE 24).extractLsb' 32 32).toNat < u.kh * u.kw * u.c :=
  ⟨issues0 _, by decide +kernel, by decide +kernel, by decide +kernel, by decide +kernel, by decide +kernel, _, rfl, by decide +kernel⟩

/-- MUNF's geometry: 1 by 2 by 2, a filter of 1 by 1. -/
def ctxUnfold : Ctx := { staging (ctxObj weightsDesc (tileHandle 0)) [(20, 0x0000000100020002), (21, 0x0000010101010101), (22, 8188)] with acct := .i32 }

/-- MWLD of a compressed and of an uncompressed image. -/
def ctxImage (e18 : Word) : Ctx := staging (ctxObj weightsDesc (tileHandle 0)) [(16, 0), (17, 0), (18, e18), (19, 0x40)]

theorem ready_weights (c : Ctx) (h : c = ctxImage 0 ∨ c = ctxImage 1) : tensorReady (at0 c) c 4 := by
  rcases h with rfl | rfl <;> unfold tensorReady handleReady <;> decide +kernel

theorem witness_MatrixSetupComplete :
    (Issues (at0 ctxUnfold) 0 ctxUnfold ∧ (at0 ctxUnfold).leaseReady 0 ctxUnfold = true ∧ (0 < 256 ∧ 1792 + 256 ≤ ctxUnfold.pk.rows)
      ∧ handleReady ctxUnfold 3 ∧ unfolds ctxUnfold 3 (if ctxUnfold.acct = .i32 then 1 else 2))
    ∧ (∀ c, c = ctxImage 0 ∨ c = ctxImage 1 → Issues (at0 c) 0 c ∧ (at0 c).leaseReady 0 c = true ∧ tokensAllotted c 31 ⟨some 0, none, some 30⟩
      ∧ tensorReady (at0 c) c 4 ∧ mapsSettled (at0 c) 0 c [4] ∧ weightsReadable c (c.tensor 4).desc) := by
  refine ⟨⟨issues0 _, ?_⟩, fun c h => ⟨issues0 _, ?_, ?_, ready_weights c h, ?_, ?_⟩⟩
  · unfold handleReady unfolds; decide +kernel
  · rcases h with rfl | rfl <;> decide +kernel
  · rcases h with rfl | rfl <;> unfold tokensAllotted <;> decide +kernel
  · rcases h with rfl | rfl <;> unfold mapsSettled <;> decide +kernel
  · rcases h with rfl | rfl <;> unfold weightsReadable validAddress <;> decide +kernel

/-- The package with the matrix lease in a state, and another context that waits for it. -/
def leased (c : Ctx) (lease : Option Nat) (count at_ : Nat) (waiter : Option Ctx) : State :=
  { at0 c with tiles := [(0, { Tile.reset with holder := some 0, last := 0, lease := lease, leaseLast := lease.getD 3, leaseCount := count, leaseAt := BitVec.ofNat 48 at_ })]
               ctxs := (0, c) :: (waiter.map fun x => (1, x)).toList }

/-- A context that waits for the lease. -/
def ctxWaiting : Ctx := { ctx0 with status := .blocked, leaseWait := some false, blockedAt := some 0 }

theorem witness_LeaseFollowsItsHolder :
    (Issues (at0 ctx0) 0 ctx0 ∧ ((at0 ctx0).tile (keyTile 0)).lease = none ∧ leaseStale (at0 ctx0) (keyTile 0) = false)
    ∧ (let s := leased { ctx0 with lcc := 511 } (some 0) 63 0 none
       Issues s 0 { ctx0 with lcc := 511 } ∧ (s.tile (keyTile 0)).lease = some (0 % 4) ∧ s.leaseWaiters (keyTile 0) = []
        ∧ (s.tile (keyTile 0)).leaseCount < 64 ∧ lcSub 511 (s.tile (keyTile 0)).leaseAt < 512)
    ∧ (let s := leased ctx0 (some 1) 0 0 none
       Issues s 0 ctx0 ∧ (s.tile (keyTile 0)).lease ≠ some (0 % 4))
    ∧ (∀ at_ ∈ [4097, 4096], let c := { ctx0 with status := .blocked, blockedAt := some 0 }
       let s := { leased c (some 0) 5 0 (some ctxWaiting) with clock := at_ }
       Issues s 0 c ∧ (s.tile (keyTile 0)).lease = some 0 ∧ s.ctx? (keyTile 0 * 4 + 0) = some c ∧ leaseGoesTo s (keyTile 0) 1 ctxWaiting
        ∧ (if at_ = 4097 then 0 + 4096 < s.clock else s.clock ≤ 0 + 4096)) := by
  refine ⟨⟨issues0 _, by decide +kernel⟩, ⟨⟨rfl, rfl⟩, by decide +kernel⟩, ⟨⟨rfl, rfl⟩, by decide +kernel⟩, ?_⟩
  intro n hn
  rcases List.mem_cons.mp hn with rfl | h
  · exact ⟨⟨rfl, rfl⟩, by unfold leaseGoesTo; decide +kernel⟩
  · cases List.mem_singleton.mp h; exact ⟨⟨rfl, rfl⟩, by unfold leaseGoesTo; decide +kernel⟩

theorem witness_LeasePastItsLimits :
    (let s := leased ctx0 (some 0) 64 0 none
     Issues s 0 ctx0 ∧ (s.tile (keyTile 0)).lease = some (0 % 4) ∧ 64 ≤ (s.tile (keyTile 0)).leaseCount
      ∧ ∀ p ∈ s.tileCtxs (keyTile 0), p.1 ≠ 0 % 4 → p.2.leaseWait = none)
    ∧ (let c := { ctx0 with lcc := 512 }
       let s := leased c (some 0) 1 0 (some ctxWaiting)
       Issues s 0 c ∧ (s.tile (keyTile 0)).lease = some (0 % 4) ∧ 512 ≤ lcSub c.lcc (s.tile (keyTile 0)).leaseAt ∧ 0 < 1 ∧ 2047 + 1 ≤ c.pk.rows
        ∧ (∃ p ∈ s.tileCtxs (keyTile 0), p.1 ≠ 0 % 4 ∧ p.2.leaseWait ≠ none) ∧ leaseGoesTo s (keyTile 0) 1 ctxWaiting
        ∧ leaseGoesTo (withCtx s 0 { c with leaseWait := some true }) (keyTile 0) 1 ctxWaiting)
    ∧ (let s := leased ctx0 (some 1) 0 0 none
       Issues s 0 ctx0 ∧ (s.tile (keyTile 0)).lease = some 1 ∧ 1 ≠ 0 % 4 ∧ s.rings = []) := by
  refine ⟨⟨⟨rfl, rfl⟩, by decide +kernel⟩, ⟨⟨rfl, rfl⟩, ?_⟩, ⟨⟨rfl, rfl⟩, by decide +kernel⟩⟩
  unfold leaseGoesTo; decide +kernel

/-- The transposer in a state, and lc since its last push. -/
def ctxXpose (e32 : Word) (x : Xpose) (lcc : Nat) : Ctx := { staging ctx0 [(32, e32)] with xpose := x, lcc := BitVec.ofNat 48 lcc, comb := lcc }

/-- Two columns of two rows, the first pushed out at lc 11. -/
def drainingX : Xpose := ⟨.draining, 32, 2, 0, 2, none, [1, 2], 0, 0, true, 0⟩

theorem witness_TransposerComplete :
    (let c := ctxXpose 0x0000007F00001F00 .empty 0
     Issues (at0 c) 0 c ∧ c.xpose.st = .empty ∧ configurable (c.readE 32) ∧ sourceReady c (.row 2047) ∧ c.xpose.st ≠ .draining)
    ∧ (let c := ctxXpose 0 drainingX 10
       Issues (at0 c) 0 c ∧ c.xpose.st ≠ .empty ∧ c.xpose.st = .draining ∧ ¬ columnDue c ∧ (VDst.row 2047).portNo = none
        ∧ ∀ n ∈ (VDst.row 2047).rowNo, n < c.pk.rows)
    ∧ (let c := ctxXpose 0 drainingX 11
       Issues (at0 c) 0 c ∧ c.xpose.st = .draining ∧ columnDue c ∧ destReady c (.row 2047) ∧ destReady c (.port 7) ∧ VDst.port 7 ≠ .off)
    ∧ (let c := ctxXpose 0 { drainingX with tprog := false } 11
       columnDue c) := by
  refine ⟨⟨issues0 _, ?_⟩, ⟨issues0 _, ?_⟩, ⟨issues0 _, ?_⟩, ?_⟩
  · unfold configurable sourceReady rowReady; decide +kernel
  · unfold columnDue; decide +kernel
  · unfold columnDue destReady; decide +kernel
  · unfold columnDue; decide +kernel

/-! ## Witnesses: loads and stores -/

theorem on_lt {c : Ctx} {p : Pred} {k : Nat} (h : on c p k = true) : k < count c := by
  unfold on at h; exact of_decide_eq_true (Bool.and_eq_true_iff.mp h).2

/-- A fact about the lanes that are on follows from the lanes below the count. -/
theorem lanes_on {c : Ctx} {p : Pred} {P : Nat → Prop} (n : Nat) (hn : count c = n) (h : ∀ k < n, P k) : ∀ k, on c p k = true → P k :=
  fun k hk => h k (hn ▸ on_lt hk)

/-- A fact about the lanes that are on, by evaluating each. -/
theorem lanes_are {c : Ctx} {p : Pred} {P : Nat → Prop} (n : Nat) (hn : count c = n) (h : ∀ k < n, on c p k = true → P k) : ∀ k, on c p k = true → P k :=
  fun k hk => h k (hn ▸ on_lt hk) hk

/-- A handle of 512 bytes' room and more, m1 with lanes 0, 1 and 127, and s5, s6 as indices of a tensor access. -/
def ctxMem (bmode : Nat) (s5 s6 : Word) : Ctx := { ctxObj (plainDesc .f32) { tileHandle bmode with filled := [(0, true), (1, true)] } with
  sregs := [(5, s5), (6, s6)], masks := [(1, 2 ^ 127 + 3)] }

/-- The predicate of m1. -/
def few : Pred := ⟨1, false⟩

theorem witness_TileLoadsComplete :
    (let c := ctxMem 0 7680 0
     Issues (at0 c) 0 c ∧ handleReady c 3 ∧ (c.handle 3).desc.level = .tile ∧ fencesPass (at0 c) c 15
      ∧ accept c.acct (.ld ⟨15, 7⟩ .n64 (.s 63) 3 5 504) = none ∧ (c.readS 5).toNat + 504 + Ty.n64.bits / 8 ≤ (c.handle 3).desc.size
      ∧ ((c.readS 5).toNat + 504) % (Ty.n64.bits / 8) = 0 ∧ runFilled (c.handle 3) 8184 8
      ∧ rowAllotted c (.row 2047) ∧ (∀ k, on c allOn k = true → (c.readS 5).toNat + 64 * 0 + (k + 1) * (c.acct.bits / 8) ≤ (c.handle 3).desc.size)
      ∧ ((c.readS 5).toNat + 64 * 0) % 64 = 0 ∧ runFilled (c.handle 3) 7680 512 ∧ c.acct.bits ∈ [8, 16, 32])
    ∧ (let c := ctxMem 1 0 0
       Issues (at0 c) 0 c ∧ handleReady c 3 ∧ (c.handle 3).desc.level = .tile ∧ runFilled (c.handle 3) 0 8) := by
  refine ⟨⟨issues0 _, ?_, ?_, ?_, ?_, ?_, ?_, .inl rfl, ?_, lanes_on 128 (by decide +kernel) ?_, ?_, .inl rfl, ?_⟩, ⟨issues0 _, ?_, ?_, .inr ?_⟩⟩
  · unfold handleReady; decide +kernel
  · decide +kernel
  · intro f hf; cases hf
  · decide +kernel
  · decide +kernel
  · decide +kernel
  · show 2047 < 2048; decide
  · decide +kernel
  · decide +kernel
  · decide +kernel
  · unfold handleReady; decide +kernel
  · decide +kernel
  · intro g h _
    have : g = 0 := by omega
    subst this; decide +kernel

theorem plain_mem : plainTensor (at0 (ctxMem 0 7 0)) (ctxMem 0 7 0) 4 := by unfold plainTensor tensorReady handleReady; decide +kernel

/-- What the two parts of m1's lanes read: row 7 of the tensor, at its first lanes and its last. -/
def partsRead : List RPiece := [⟨0, 0, 0x100E00, none, 8, .phys 0x8100E00, true⟩, ⟨127, 508, 0x100FFC, none, 4, .phys 0x8100FFC, true⟩]

/-- The indices of m1's lanes. -/
def index7 (k e : Nat) : Nat := linearIndex (ctxMem 0 7 0) 5 (((ctxMem 0 7 0).tensor 4).desc.rank) k e

theorem moved7 : lanesMoved (ctxMem 0 7 0) few ((ctxMem 0 7 0).tensor 4).desc index7
    = [⟨0, 0, 0x100E00, none, 4⟩, ⟨1, 4, 0x100E04, none, 4⟩, ⟨127, 508, 0x100FFC, none, 4⟩] := by decide +kernel

/-- An index vector in row 0: lane k names element 896 + k, in row 7. -/
def ctxIndex : Ctx := { ctxMem 0 7 0 with rows := [(0, ofLanes 32 ((List.range 128).map (896 + ·)))] }

theorem movedIndex : lanesMoved ctxIndex few (ctxIndex.tensor 4).desc (fun k => digit (ctxIndex.tensor 4).desc (indexLane ctxIndex (.row 0) k))
    = [⟨0, 0, 0x100E00, none, 4⟩, ⟨1, 4, 0x100E04, none, 4⟩, ⟨127, 508, 0x100FFC, none, 4⟩] := by decide +kernel

theorem elements7 : ∀ q ∈ [(⟨0, 0, 0x100E00, none, 4⟩ : Piece), ⟨1, 4, 0x100E04, none, 4⟩, ⟨127, 508, 0x100FFC, none, 4⟩], elementOk q := by
  unfold elementOk; decide

theorem witness_TensorLoadsStart :
    (let c := ctxMem 0 7 0
     Issues (at0 c) 0 c ∧ plainTensor (at0 c) c 4 ∧ rowAllotted c (.row 0) ∧ fencesPass (at0 c) c 0 ∧ reservationFree c
      ∧ (5 + (c.tensor 4).desc.rank ≤ 64
        ∧ (∀ k, on c few k = true → ∀ e < 6, (if e < (c.tensor 4).desc.rank then linearIndex c 5 (c.tensor 4).desc.rank k e else if e = 0 then k else 0)
            < (c.tensor 4).desc.extent e)
        ∧ (∀ q ∈ lanesMoved c few (c.tensor 4).desc index7, elementOk q)
        ∧ readsTranslate (at0 c) 0 c (lanesMoved c few (c.tensor 4).desc index7) partsRead
        ∧ (List.range (count c)).filter (on c few) ≠ []))
    ∧ (let c := ctxIndex
       Issues (at0 c) 0 c ∧ plainTensor (at0 c) c 4 ∧ sourceReady c (.row 0)
        ∧ (∀ k, on c few k = true → indexLane c (.row 0) k < (List.range (c.tensor 4).desc.rank).foldl (fun a e => a * (c.tensor 4).desc.extent e) 1)
        ∧ (∀ q ∈ lanesMoved c few (c.tensor 4).desc (fun k => digit (c.tensor 4).desc (indexLane c (.row 0) k)), elementOk q)
        ∧ readsTranslate (at0 c) 0 c (lanesMoved c few (c.tensor 4).desc (fun k => digit (c.tensor 4).desc (indexLane c (.row 0) k))) partsRead) := by
  refine ⟨⟨issues0 _, plain_mem, ?_, ?_, ?_, ?_, ?_, ?_, ?_, ?_⟩, ⟨issues0 _, ?_, ?_, ?_, ?_, ?_⟩⟩
  · show 0 < 2048; decide
  · intro f hf; cases hf
  · unfold reservationFree; decide +kernel
  · decide +kernel
  · exact lanes_are 128 (by decide +kernel) (by decide +kernel)
  · exact moved7 ▸ elements7
  · unfold readsTranslate; decide +kernel
  · decide +kernel
  · unfold plainTensor tensorReady handleReady; decide +kernel
  · exact ⟨by decide, by decide +kernel⟩
  · exact lanes_are 128 (by decide +kernel) (by decide +kernel)
  · exact movedIndex ▸ elements7
  · unfold readsTranslate; decide +kernel

theorem witness_TileStoresComplete :
    let c := ctxMem 0 7680 0
    Issues (at0 c) 0 c ∧ handleReady c 3 ∧ (c.handle 3).desc.level = .tile ∧ fencesPass (at0 c) c 15
      ∧ accept c.acct (.st ⟨15, true⟩ .i8 (.latch 15) 3 5 511) = none ∧ (c.readS 5).toNat + 511 + Ty.i8.bits / 8 ≤ (c.handle 3).desc.size
      ∧ ((c.readS 5).toNat + 511) % (Ty.i8.bits / 8) = 0 ∧ sourceReady c (.row 2047)
      ∧ (∀ k, on c few k = true → (c.readS 5).toNat + 64 * 0 + (k + 1) * (c.acct.bits / 8) ≤ (c.handle 3).desc.size)
      ∧ ((c.readS 5).toNat + 64 * 0) % 64 = 0 ∧ c.acct.bits ∈ [8, 16, 32] ∧ (List.range (count c)).filter (on c few) ≠ []
      ∧ (List.range (count c)).filter (on c ⟨2, false⟩) = [] := by
  refine ⟨issues0 _, ?_, by decide +kernel, ?_, by decide +kernel, by decide +kernel, by decide +kernel, ?_, lanes_on 128 (by decide +kernel) ?_, ?_⟩
  · unfold handleReady; decide +kernel
  · intro f hf; cases hf
  · exact ⟨by decide, by decide +kernel⟩
  · decide +kernel
  · decide +kernel

theorem witness_TensorStoresComplete :
    (let c := ctxMem 0 7 0
     Issues (at0 c) 0 c ∧ plainTensor (at0 c) c 4 ∧ sourceReady c (.row 2047) ∧ fencesPass (at0 c) c 15 ∧ (List.range (count c)).filter (on c few) ≠ []
      ∧ ∀ q ∈ lanesMoved c few (c.tensor 4).desc index7, elementOk q)
    ∧ (Issues (at0 ctxIndex) 0 ctxIndex ∧ plainTensor (at0 ctxIndex) ctxIndex 4 ∧ sourceReady ctxIndex (.row 0)) := by
  have h := witness_TensorLoadsStart
  exact ⟨⟨h.1.1, h.1.2.1, ⟨by decide, by decide +kernel⟩, fun f hf => (by cases hf), h.1.2.2.2.2.2.2.2.2.2, h.1.2.2.2.2.2.2.2.1⟩,
    h.2.1, h.2.2.1, h.2.2.2.1⟩

/-! ## Witnesses: loads that wait, windows, and tensors of every backing -/

theorem not_fixed {c : Ctx} {pl : Plan} (h : pl.fixed c = false) : ¬ fixedPlan c pl := by
  rintro ⟨hv, k, hk, hl, hm⟩
  simp [Plan.fixed, hv, hk, Ctx.isTile, hl, hm] at h

theorem peer_of {s : State} {key k : Nat} {c : Ctx} {pl : Plan} (hk : pl.h = some k) (h : (s.seen c).peerAbsent key c k = false) :
    peerThere s key c pl := fun _ hj _ _ => Option.some.inj (hk.symm.trans hj) ▸ h

theorem no_handle {s : State} {key : Nat} {c : Ctx} {pl : Plan} (hk : pl.h = none) : peerThere s key c pl :=
  fun _ hj => by rw [hk] at hj; cases hj

theorem fits_of {c : Ctx} {t : TDesc} {pl : Plan} {k : Nat} (hk : pl.h = some k)
    (h : ∀ q ∈ pl.chunks, 0 ≤ q.va ∧ q.va + q.len ≤ ((c.handle k).desc.size : Int) ∧ (t.fmt.isTxb = false → q.va % (q.len : Int) = 0)) :
    chunksFit c t pl := fun _ hj => Option.some.inj (hk.symm.trans hj) ▸ h

theorem fits_none {c : Ctx} {t : TDesc} {pl : Plan} (hk : pl.h = none) : chunksFit c t pl := fun _ hj => by rw [hk] at hj; cases hj

theorem allowed_none {c : Ctx} {pl : Plan} (hk : pl.h = none) : allowed c pl := fun _ hj => by rw [hk] at hj; cases hj

theorem below6 {P : Nat → Prop} (h : ∀ e < 6, 0 < e → P e) : ∀ e, 0 < e → e < 6 → P e := fun e he h6 => h e h6 he

theorem allowed_of {c : Ctx} {pl : Plan} {k : Nat} (hk : pl.h = some k)
    (h : c.outOf (c.handle k).desc.alw < c.limitOf (c.handle k).desc.alw) : allowed c pl :=
  fun _ hj _ _ => Option.some.inj (hk.symm.trans hj) ▸ h

/-- Handles: 3 in tile SRAM, 5 a window, 6 of a package that is not there, 7 backed with granule 0 filled, 8 backed by pages that are not mapped. Tensors:
4 in handle 3, 7 in handle 7, 9 of TXB8 in virtual memory, 11 in the window, 12 beyond the mapped pages. Lanes 0, 1 and 127 are m1's, and row 0 holds
their indices. -/
def ctxWide : Ctx := { ctxIndex with
  handles := [(3, tileHandle 0),
    (5, { Handle.empty with st := .bound, desc := { HDesc.empty with level := .win, size := 4096, thandle := 3, tdx := 1, alw := 2 } }),
    (6, { Handle.empty with st := .bound, desc := { HDesc.empty with level := .xwin, size := 4096, kf := true, peern := 7 } }),
    (7, { tileHandle 1 with filled := [(0, true)] }),
    (8, { tileHandle 1 with desc := { HDesc.empty with size := 8192, bmode := 1, back := 0x10000000 } })]
  tensors := [(4, ⟨.bound, { plainDesc .f32 with base := 0, handle := some 3 }⟩), (7, ⟨.bound, { plainDesc .f32 with base := 0, handle := some 7, x := [128, 16, 0, 0, 0, 0] }⟩),
    (9, ⟨.bound, weightsDesc⟩), (10, ⟨.bound, { plainDesc .f32 with base := 0, handle := some 3, veraddr := 0x180000 }⟩),
    (11, ⟨.bound, { plainDesc .f32 with base := 0, handle := some 5 }⟩), (12, ⟨.bound, { plainDesc .f32 with base := 0x10000000 }⟩)]
  sregs := [(5, 7), (6, 0), (7, 4096), (8, 8), (9, 0)] }

/-- A load's conditions on its plan: that it starts. -/
def startsWith (pl : Plan) : Prop :=
  ¬ fixedPlan ctxWide pl ∧ reservationFree ctxWide ∧ peerThere (at0 ctxWide) 0 ctxWide pl
    ∧ (∃ reads, ((at0 ctxWide).seen ctxWide).locateReads ((at0 ctxWide).whoOf 0 ctxWide) .load (toParts pl.virt) = ⟨reads, [], [], false⟩)
    ∧ ∃ fills, ((at0 ctxWide).seen ctxWide).locateReads ((at0 ctxWide).whoOf 0 ctxWide) .copyRead ((fillsOf ctxWide pl).map (·.2)) = ⟨fills, [], [], false⟩

theorem all_of {r : Located} (h : r.nonres = [] ∧ r.faults = [] ∧ r.poison = false) : ∃ reads, r = ⟨reads, [], [], false⟩ := by
  obtain ⟨a, b, f, p⟩ := r
  obtain ⟨rfl, rfl, rfl⟩ := h
  exact ⟨a, rfl⟩

theorem starts_of {pl : Plan} (h : pl.fixed ctxWide = false) (hp : peerThere (at0 ctxWide) 0 ctxWide pl)
    (hr : let r := ((at0 ctxWide).seen ctxWide).locateReads ((at0 ctxWide).whoOf 0 ctxWide) .load (toParts pl.virt)
      r.nonres = [] ∧ r.faults = [] ∧ r.poison = false)
    (hf : let r := ((at0 ctxWide).seen ctxWide).locateReads ((at0 ctxWide).whoOf 0 ctxWide) .copyRead ((fillsOf ctxWide pl).map (·.2))
      r.nonres = [] ∧ r.faults = [] ∧ r.poison = false) : startsWith pl :=
  ⟨not_fixed h, .inl (by decide +kernel), hp, all_of hr, all_of hf⟩

/-- A load's conditions on its plan: that it meets a fault in translation. -/
def faultsWith (mr : Nat) (pl : Plan) (late : List (Piece × AFault)) : Prop :=
  let parts := toParts (pl.virt.filter fun p => !late.any fun q => q.1 = p)
  let r := ((at0 ctxWide).seen ctxWide).locateReads ((at0 ctxWide).whoOf 0 ctxWide) .load parts
  let fr := ((at0 ctxWide).seen ctxWide).locateReads ((at0 ctxWide).whoOf 0 ctxWide) .copyRead ((fillsOf ctxWide pl).map (·.2))
  (¬ fixedPlan ctxWide pl ∨ late ≠ []) ∧ peerThere (at0 ctxWide) 0 ctxWide pl ∧ r.poison = false ∧ fr.poison = false
    ∧ ∃ p e, firstFault (late ++ r.faults ++ fr.faults ++ if mr = 0 then r.nonres.map fun p => (p, faultNonres) else []) = some (p, e)

theorem some_of {α β : Type} {o : Option (α × β)} (h : o.isSome = true) : ∃ a b, o = some (a, b) := by
  cases o with
  | none => cases h
  | some p => exact ⟨p.1, p.2, rfl⟩

theorem faults_of {mr : Nat} {pl : Plan} {late : List (Piece × AFault)} (h : pl.fixed ctxWide = false ∨ late ≠ [])
    (hp : peerThere (at0 ctxWide) 0 ctxWide pl)
    (hr : let parts := toParts (pl.virt.filter fun p => !late.any fun q => q.1 = p)
      let r := ((at0 ctxWide).seen ctxWide).locateReads ((at0 ctxWide).whoOf 0 ctxWide) .load parts
      let fr := ((at0 ctxWide).seen ctxWide).locateReads ((at0 ctxWide).whoOf 0 ctxWide) .copyRead ((fillsOf ctxWide pl).map (·.2))
      r.poison = false ∧ fr.poison = false
        ∧ (firstFault (late ++ r.faults ++ fr.faults ++ if mr = 0 then r.nonres.map fun p => (p, faultNonres) else [])).isSome = true) :
    faultsWith mr pl late := ⟨h.imp_left not_fixed, hp, hr.1, hr.2.1, some_of hr.2.2⟩

theorem ready_wide : ∀ h ∈ [3, 5, 6, 7, 8], handleReady ctxWide h := by unfold handleReady; decide +kernel
theorem tensors_wide : ∀ tn ∈ [4, 7, 9, 10, 11, 12], tensorReady (at0 ctxWide) ctxWide tn := by unfold tensorReady handleReady; decide +kernel
theorem maps_wide (tn : Nat) : mapsSettled (at0 ctxWide) 0 ctxWide [tn] := fun _ _ ha => by cases ha

/-- The plans of m1's lanes. -/
def lanesPlan (tn is : Nat) (p : Pred) : Plan := ((at0 ctxWide).seen ctxWide).linearPlan ctxWide (ctxWide.tensor tn).desc is (onLanes ctxWide p)
def indexPlan (tn : Nat) : Plan := ((at0 ctxWide).seen ctxWide).gatherPlan (ctxWide.tensor tn).desc (onLanes ctxWide few) (ctxWide.indexLanes (.row 0))

theorem witness_LoadsBegin_scalar :
    Issues (at0 ctxWide) 0 ctxWide ∧ fencesPass (at0 ctxWide) ctxWide 15
    ∧ (∀ q ∈ [(5, 6, 4088), (6, 6, 4088), (7, 7, 4088), (8, 7, 4088)], accept ctxWide.acct (.ld ⟨15, 7⟩ .n64 (.s 63) q.1 q.2.1 q.2.2) = none ∧ handleReady ctxWide q.1
        ∧ (ctxWide.readS q.2.1).toNat + q.2.2 + Ty.n64.bits / 8 ≤ (ctxWide.handle q.1).desc.size
        ∧ ((ctxWide.readS q.2.1).toNat + q.2.2) % (Ty.n64.bits / 8) = 0)
    ∧ startsWith (scalarPlan 5 4088 8) ∧ startsWith (scalarPlan 7 8184 8)
    ∧ faultsWith 0 (scalarPlan 8 8184 8) []
    ∧ ¬ peerThere (at0 ctxWide) 0 ctxWide (scalarPlan 6 4088 8) := by
  refine ⟨issues0 _, fun f hf => (by cases hf), ?_, starts_of ?_ (peer_of rfl ?_) ?_ ?_, starts_of ?_ (peer_of rfl ?_) ?_ ?_,
    faults_of ?_ (peer_of rfl ?_) ?_, fun h => absurd (h 6 rfl ?_ ?_) ?_⟩
  · unfold handleReady; decide +kernel
  all_goals decide +kernel

theorem witness_LoadsBegin_row :
    rowAllotted ctxWide (.row 2047) ∧ 8 < ctxWide.pk.handles ∧ (∀ k, on ctxWide ⟨2, false⟩ k ≠ true)
    ∧ (∀ k, on ctxWide few k = true → handleReady ctxWide 5 ∧ 0 + (k + 1) * (ctxWide.acct.bits / 8) ≤ (ctxWide.handle 5).desc.size ∧ 0 % 64 = 0)
    ∧ fixedPlan ctxWide (rowPlan 7 0 ctxWide.acct.bits (onLanes ctxWide few)) ∧ fixedPlan ctxWide (rowPlan 3 0 ctxWide.acct.bits (onLanes ctxWide ⟨2, false⟩))
    ∧ startsWith (rowPlan 5 0 ctxWide.acct.bits (onLanes ctxWide few)) ∧ startsWith (rowPlan 5 0 ctxWide.acct.bits (onLanes ctxWide ⟨2, false⟩))
    ∧ faultsWith 0 (rowPlan 8 4096 ctxWide.acct.bits (onLanes ctxWide few)) [] := by
  refine ⟨by show 2047 < 2048; decide, by decide +kernel, fun k hk => ?_, lanes_are 128 (by decide +kernel) ?_, ⟨?_, 7, rfl, ?_, ?_⟩, ⟨?_, 3, rfl, ?_, ?_⟩,
    starts_of ?_ (peer_of rfl ?_) ?_ ?_, starts_of ?_ (peer_of rfl ?_) ?_ ?_, faults_of ?_ (peer_of rfl ?_) ?_⟩
  · exact lanes_are (P := fun _ => False) 128 (by decide +kernel) (by decide +kernel) k hk
  · unfold handleReady; decide +kernel
  all_goals decide +kernel

theorem witness_LoadsBegin_tensor :
    (∀ tn ∈ [4, 7, 9, 11, 12], tensorReady (at0 ctxWide) ctxWide tn ∧ ((ctxWide.tensor tn).desc.mb = true → (ctxWide.tensor tn).desc.handle = none))
    ∧ (∀ tn ∈ [4, 7, 11, 12], formatSuits ctxWide (ctxWide.tensor tn).desc few 1 .zero) ∧ formatSuits ctxWide (ctxWide.tensor 9).desc allOn 0 .zero
    ∧ (∀ q ∈ [(4, 5), (7, 8), (11, 5), (12, 5)], indicesFit ctxWide (ctxWide.tensor q.1).desc q.2 few)
    ∧ indicesFit ctxWide (ctxWide.tensor 9).desc 5 allOn
    ∧ (chunksFit ctxWide (ctxWide.tensor 4).desc (lanesPlan 4 5 few) ∧ virtFits (ctxWide.tensor 4).desc (lanesPlan 4 5 few) ∧ fixedPlan ctxWide (lanesPlan 4 5 few))
    ∧ (chunksFit ctxWide (ctxWide.tensor 7).desc (lanesPlan 7 8 few) ∧ virtFits (ctxWide.tensor 7).desc (lanesPlan 7 8 few) ∧ startsWith (lanesPlan 7 8 few))
    ∧ (chunksFit ctxWide (ctxWide.tensor 11).desc (lanesPlan 11 5 few) ∧ startsWith (lanesPlan 11 5 few))
    ∧ (chunksFit ctxWide (ctxWide.tensor 9).desc (lanesPlan 9 5 allOn) ∧ virtFits (ctxWide.tensor 9).desc (lanesPlan 9 5 allOn)
        ∧ startsWith (lanesPlan 9 5 allOn))
    ∧ (chunksFit ctxWide (ctxWide.tensor 12).desc (lanesPlan 12 5 few)
        ∧ faultsWith 0 (lanesPlan 12 5 few) ((ctxWide.tensor 12).desc.lateFaults (lanesPlan 12 5 few))) := by
  refine ⟨fun tn h => ⟨tensors_wide tn (by revert tn; decide), by revert tn; decide +kernel⟩, ?_, ?_, ?_, ?_, ⟨fits_of (k := 3) ?_ ?_, ?_, ⟨?_, 3, ?_, ?_, ?_⟩⟩,
    ⟨fits_of (k := 7) ?_ ?_, ?_, starts_of ?_ (peer_of (k := 7) ?_ ?_) ?_ ?_⟩, ⟨fits_of (k := 5) ?_ ?_, starts_of ?_ (peer_of (k := 5) ?_ ?_) ?_ ?_⟩,
    ⟨?_, ?_, starts_of ?_ (no_handle ?_) ?_ ?_⟩, ⟨?_, faults_of ?_ (no_handle ?_) ?_⟩⟩
  · unfold formatSuits; decide +kernel
  · unfold formatSuits; decide +kernel
  · intro q h
    have g : (q.2 + (ctxWide.tensor q.1).desc.rank ≤ 64 ∧ 0 < (ctxWide.tensor q.1).desc.extent 0)
        ∧ (∀ e < 6, 0 < e → (if e < (ctxWide.tensor q.1).desc.rank then linearIndex ctxWide q.2 (ctxWide.tensor q.1).desc.rank 0 e else 0)
            < (ctxWide.tensor q.1).desc.extent e)
        ∧ ((ctxWide.tensor q.1).desc.fmt.isTxb = false ∧ ∀ k < 128, on ctxWide few k = true
            → (if 0 < (ctxWide.tensor q.1).desc.rank then linearIndex ctxWide q.2 (ctxWide.tensor q.1).desc.rank 0 0 else 0) + k
              < (ctxWide.tensor q.1).desc.extent 0) := by
      revert q; decide +kernel
    exact ⟨g.1.1, g.1.2, below6 g.2.1, fun _ => lanes_are 128 (by decide +kernel) g.2.2.2, fun ht => by rw [g.2.2.1] at ht; cases ht⟩
  · exact ⟨by decide +kernel, by decide +kernel, below6 (by decide +kernel), (fun ht => by cases ht), fun _ => by decide +kernel⟩
  all_goals first
    | decide +kernel
    | (unfold virtFits; decide +kernel)
    | exact fits_none (by decide +kernel)

theorem witness_LoadsBegin_gather : sourceReady ctxWide (.row 0)
    ∧ (∀ tn ∈ [4, 7, 11], (ctxWide.tensor tn).desc.fmt.isTxb = false
        ∧ ∀ k, on ctxWide few k = true → indexLane ctxWide (.row 0) k < (List.range (ctxWide.tensor tn).desc.rank).foldl (fun a e => a * (ctxWide.tensor tn).desc.extent e) 1)
    ∧ (chunksFit ctxWide (ctxWide.tensor 4).desc (indexPlan 4) ∧ virtFits (ctxWide.tensor 4).desc (indexPlan 4) ∧ classDone (at0 ctxWide) 0 ctxWide (indexPlan 4) 0
        ∧ fixedPlan ctxWide (indexPlan 4))
    ∧ (chunksFit ctxWide (ctxWide.tensor 11).desc (indexPlan 11) ∧ classDone (at0 ctxWide) 0 ctxWide (indexPlan 11) 0 ∧ startsWith (indexPlan 11))
    ∧ (chunksFit ctxWide (ctxWide.tensor 12).desc (indexPlan 12) ∧ classDone (at0 ctxWide) 0 ctxWide (indexPlan 12) 0
        ∧ faultsWith 1 (indexPlan 12) ((ctxWide.tensor 12).desc.lateFaults (indexPlan 12))) := by
  have none : ∀ pl oc, classDone (at0 ctxWide) 0 ctxWide pl oc := fun _ _ _ d hd => by
    rw [show (at0 ctxWide).classDeps 0 ctxWide (some _) = [] from rfl] at hd; cases hd
  refine ⟨⟨by decide, by decide +kernel⟩, fun tn h => ⟨by revert tn; decide +kernel, lanes_are 128 (by decide +kernel) (by revert tn; decide +kernel)⟩,
    ⟨fits_of (k := 3) ?_ ?_, ?_, none _ _, ⟨?_, 3, ?_, ?_, ?_⟩⟩, ⟨fits_of (k := 5) ?_ ?_, none _ _, starts_of ?_ (peer_of (k := 5) ?_ ?_) ?_ ?_⟩,
    ⟨fits_none ?_, none _ _, faults_of ?_ (no_handle ?_) ?_⟩⟩
  all_goals first
    | decide +kernel
    | (unfold virtFits; decide +kernel)

theorem witness_StoresBegin_handle : sourceReady ctxWide (.row 0) ∧ (ctxWide.handle 5).desc.level ≠ .tile ∧ handleReady ctxWide 5
    ∧ accept ctxWide.acct (.st ⟨15, true⟩ .n64 (.latch 15) 5 6 4088) = none ∧ (ctxWide.readS 6).toNat + 4088 + Ty.n64.bits / 8 ≤ (ctxWide.handle 5).desc.size
    ∧ ((ctxWide.readS 6).toNat + 4088) % (Ty.n64.bits / 8) = 0 ∧ allowed ctxWide (scalarPlan 5 4088 8)
    ∧ (∀ k, on ctxWide ⟨2, false⟩ k = false) ∧ (∃ k, on ctxWide few k = true)
    ∧ (∀ k, on ctxWide few k = true → 0 + (k + 1) * (ctxWide.acct.bits / 8) ≤ (ctxWide.handle 5).desc.size)
    ∧ allowed ctxWide (rowPlan 5 0 ctxWide.acct.bits (onLanes ctxWide few)) := by
  refine ⟨⟨by decide, by decide +kernel⟩, by decide +kernel, ready_wide 5 (by decide), ?_, ?_, ?_, allowed_of rfl ?_, fun k => ?_, ⟨127, ?_⟩,
    lanes_are 128 (by decide +kernel) ?_, allowed_of rfl ?_⟩
  case refine_5 =>
    cases h : on ctxWide ⟨2, false⟩ k with
    | false => rfl
    | true => exact (lanes_are (P := fun _ => False) 128 (by decide +kernel) (by decide +kernel) k h).elim
  all_goals decide +kernel

theorem witness_StoresBegin_tensor :
    (∀ tn ∈ [4, 9, 10, 11], tensorReady (at0 ctxWide) ctxWide tn ∧ ((ctxWide.tensor tn).desc.mb = true → (ctxWide.tensor tn).desc.handle = none))
    ∧ (∀ tn ∈ [4, 10, 11], formatSuits ctxWide (ctxWide.tensor tn).desc few 0 (.row 0)) ∧ formatSuits ctxWide (ctxWide.tensor 9).desc allOn 0 (.row 0)
    ∧ (∀ q ∈ [(4, 3), (10, 3), (11, 5)], chunksFit ctxWide (ctxWide.tensor q.1).desc (lanesPlan q.1 5 few) ∧ virtFits (ctxWide.tensor q.1).desc (lanesPlan q.1 5 few)
        ∧ allowed ctxWide (lanesPlan q.1 5 few))
    ∧ (chunksFit ctxWide (ctxWide.tensor 9).desc (lanesPlan 9 5 allOn) ∧ virtFits (ctxWide.tensor 9).desc (lanesPlan 9 5 allOn)
        ∧ allowed ctxWide (lanesPlan 9 5 allOn))
    ∧ (∀ q ∈ [(4, 3), (10, 3), (11, 5)], chunksFit ctxWide (ctxWide.tensor q.1).desc (indexPlan q.1) ∧ virtFits (ctxWide.tensor q.1).desc (indexPlan q.1)
        ∧ allowed ctxWide (indexPlan q.1) ∧ classDone (at0 ctxWide) 0 ctxWide (indexPlan q.1) 15) := by
  have none : ∀ pl oc, classDone (at0 ctxWide) 0 ctxWide pl oc := fun _ _ _ d hd => by
    rw [show (at0 ctxWide).classDeps 0 ctxWide (some _) = [] from rfl] at hd; cases hd
  refine ⟨fun tn h => ⟨tensors_wide tn (by revert tn; decide), by revert tn; decide +kernel⟩, ?_, ?_, fun q h => ⟨fits_of (k := q.2) ?_ ?_, ?_, allowed_of (k := q.2) ?_ ?_⟩,
    ⟨fits_none ?_, ?_, allowed_none ?_⟩, fun q h => ⟨fits_of (k := q.2) ?_ ?_, ?_, allowed_of (k := q.2) ?_ ?_, none _ _⟩⟩
  all_goals first
    | decide +kernel
    | (unfold formatSuits; decide +kernel)
    | (unfold virtFits; decide +kernel)
    | (revert q; decide +kernel)
    | (revert q; unfold virtFits; decide +kernel)

/-! ## Witnesses: accesses that perform -/

/-- A released access of ctx0's group. -/
def access (id : Nat) (op : AccOp) : Acc := { accessOf (at0 ctx0) 0 ctx0 (some 0) [] [] none op with id := id, released := true, comb := 100, clock := 100 }

/-- The package at clock 197, and its context 97 lc on, with accesses outstanding. -/
def withAccs (c : Ctx) (l : List Acc) : State := { at0 { c with comb := 197, progNo := 100 } with accs := l, nextId := 100, clock := 197 }

/-- Its context. -/
def ctxLate (c : Ctx) : Ctx := { c with comb := 197, progNo := 100 }

/-- A reservation for row 2047. -/
def pending (uid : Nat) (fills : List (Nat × Nat × Option (List Byte))) : Pend :=
  { atomPending (at0 ctx0) ctx0 0 0 with uid := uid, act := some (.row 2047 32), fills := fills }

/-- Where soloMemory's tables put a part. -/
def home0 (r : RPiece) : Nat := (r.va + 0x8000000).toNat

/-- A load's read, and a fill's. -/
def loadAcc : Acc := access 7 (.load 50 partsRead 0 0 [] none)
def fillRead : RPiece := ⟨0, 0, 0x101000, none, 4096, .phys 0x8101000, true⟩
def fillAcc : Acc := access 8 (.fill 51 3 1 [fillRead])

theorem witness_ReplyBringsTheBytes :
    (let c := { ctx0 with pend := [pending 50 [], pending 51 [(8, 1, none)]] }
     let s := withAccs c [loadAcc, fillAcc]
     s.acc? 7 = some loadAcc ∧ goesOn s loadAcc ∧ unpaired s loadAcc ∧ s.accCtx loadAcc = some (ctxLate c) ∧ pending 50 [] ∈ (ctxLate c).pend
      ∧ (∀ x ∈ (ctxLate c).pend, x.uid = 50 → x = pending 50 []) ∧ (pending 50 []).fills = []
      ∧ readsAt s loadAcc.who .load (pending 50 []).known partsRead home0 ∧ readsAt s loadAcc.who .load (!(pending 50 []).known) partsRead home0
      ∧ goesOn s fillAcc ∧ unpaired s fillAcc
      ∧ readsAt s fillAcc.who .copyRead ((ctxLate c).pend.any fun p => p.uid = 51 && p.known) [fillRead] home0)
    ∧ (let a : Acc := { loadAcc with deps := [8] }
       let s := withAccs ctx0 [a, fillAcc]
       s.acc? 7 = some a ∧ s.depsDone a = false) := by
  refine ⟨?_, ?_⟩
  · unfold goesOn unpaired readsAt; decide +kernel
  · decide +kernel

theorem witness_CompressedImage : (List.replicate 64 (0x5A : Byte)).length = 64 * (([false, true].filter id).length) ∧ 1 < [false, true].length := by decide

/-- A store of 8 bytes, and the same before its release. -/
def storeAcc : Acc := access 7 (.store [⟨0x100000, none, List.replicate 8 0x5A⟩] false 0)
def heldAcc (comb clock : Nat) : Acc := { storeAcc with released := false, comb := comb, clock := clock }

theorem witness_EffectsWaitForTheHorizon :
    (∀ a ∈ [heldAcc 100 100, heldAcc 101 101], let s := withAccs ctx0 [a]
      s.acc? a.id = some a ∧ heldEffect a.op ∧ a.released = false ∧ s.complete a = true ∧ unpaired s a ∧ s.accCtx a = some (ctxLate ctx0))
    ∧ (let a := heldAcc 100 100
       a.comb + 97 ≤ (ctxLate ctx0).comb - ((ctxLate ctx0).idleTill - 197) ∧ a.clock + 97 ≤ (withAccs ctx0 [a]).clock)
    ∧ (let a := heldAcc 101 101
       (ctxLate ctx0).comb - ((ctxLate ctx0).idleTill - 197) < a.comb + 97 ∧ (withAccs ctx0 [a]).clock < a.clock + 97) := by
  unfold heldEffect unpaired
  refine ⟨?_, by decide +kernel, by decide +kernel⟩
  intro a ha
  rcases List.mem_cons.mp ha with rfl | h
  · exact ⟨by decide +kernel, trivial, by decide +kernel⟩
  · cases List.mem_singleton.mp h; exact ⟨by decide +kernel, trivial, by decide +kernel⟩

theorem witness_StoresPerform : let s := withAccs ctx0 [storeAcc]
    goesOn s storeAcc ∧ unpaired s storeAcc ∧ storeAcc.released = true
      ∧ writeAt s storeAcc.who ⟨0x100000, none, List.replicate 8 0x5A⟩ 0x8100000
      ∧ (∀ n, storeAcc.who.node = some n → 0x8100000 + 8 ≤ n ∨ n + 8 ≤ 0x8100000) := by
  refine ⟨?_, ?_, rfl, ?_, ?_⟩
  · unfold goesOn; decide +kernel
  · unfold unpaired; decide +kernel
  · unfold writeAt; decide +kernel
  · intro n h; cases Option.some.inj h; decide

/-- A result of ctx0 that lands at lc 0. -/
def resultOf (sl : Slot) (act : Act) (latch : Option Nat) (flags : BitVec 5) : Inflight :=
  ⟨5, true, 0, 0, sl, 0x10000, act, latch, BitVec.allOnes 512, 7, flags, 0⟩

/-- A window handle 5 on handle 3 of a second context, at (1, 0), which exports it. -/
def ctxWin : Ctx := { ctx0 with
  handles := [(5, { Handle.empty with st := .bound, desc := { HDesc.empty with level := .win, size := 4096, thandle := 3, tdx := 1 } })]
  out := [(2, 1)]
  pend := [pending 50 [(9, 0, none)]] }
def ctxTarget : Ctx := { ctx0 with dx := 1, handles := [(3, tileHandle 0)] }

/-- The package with both contexts, in one group of two tiles. -/
def withTarget (l : List Acc) : State := { withAccs ctxWin l with ctxs := [(0, ctxLate ctxWin), (4, ctxTarget)] }

/-- A posted store into the window, and a load through it. -/
def winStoreAcc (performed : Bool) : Acc := { access 7 (.winStore 5 (.group 1 0 3) [(8184, List.replicate 8 0x5A)] 2 true) with performed := performed }
def winLoadAcc : Acc := access 9 (.winLoad 50 5 (.group 1 0 3) [(0, 8128, 64)])

theorem witness_WindowsReachTheirTarget : let s := withTarget [winStoreAcc false, winLoadAcc]
    (∀ a ∈ [winStoreAcc false, winLoadAcc], goesOn s a ∧ unpaired s a ∧ s.accCtx a = some (ctxLate ctxWin)
      ∧ s.target a.grp a.who.tenant (.group 1 0 3) = .there 4 3)
    ∧ s.ctx? 4 = some ctxTarget ∧ s.twinOf ctxTarget = none ∧ (winStoreAcc false).released = true ∧ (winStoreAcc false).performed = false
    ∧ 8184 + (List.replicate 8 (0x5A : Byte)).length ≤ (ctxTarget.handle 3).desc.size ∧ ctxTarget.handleTorn 3 8184 8 = false
    ∧ 8128 + 64 ≤ (ctxTarget.handle 3).desc.size ∧ ctxTarget.handleBad 3 8128 64 = false := by
  unfold goesOn unpaired; decide +kernel

/-- A store that its engine holds back, with OUT below LIMIT and at it. -/
theorem witness_WindowsHoldBackStores : let a := { winStoreAcc false with queued := some true }
    (let s := withTarget [a]
     goesOn s a ∧ unpaired s a ∧ s.accCtx a = some (ctxLate ctxWin) ∧ s.target a.grp a.who.tenant (.group 1 0 3) = .there 4 3
      ∧ a.released = true ∧ a.performed = false ∧ a.queued ≠ none ∧ a.order < (ctxLate ctxWin).progNo
      ∧ (ctxLate ctxWin).outOf 2 < (ctxLate ctxWin).limitOf 2)
    ∧ (let c := { ctxLate ctxWin with out := [(2, 64)] }
       let s := { withTarget [a] with ctxs := [(0, c), (4, ctxTarget)] }
       goesOn s a ∧ unpaired s a ∧ s.accCtx a = some c ∧ c.limitOf 2 ≤ c.outOf 2) := by
  unfold goesOn unpaired; decide +kernel

/-- A released store of 8 bytes, and a copy, after a store in flight of a context that waits. -/
def aheadCtx : Ctx := { ctx0 with
  status := .blocked, stall := some (1, 0), comb := 197, progNo := 100, handles := [(3, tileHandle 0)], inflight := [{ resultOf .st (.hbytes 3 7680) none 0 with land := 3 }] }
def aheadAcc : Acc := { storeAcc with after := [5] }
def aheadState : State := { at0 aheadCtx with accs := [aheadAcc], nextId := 100, clock := 197 }

theorem witness_StoresPerformAhead : aheadState.acc? aheadAcc.id = some aheadAcc ∧ aheadState.storesLanded aheadAcc = true
    ∧ aheadState.accCtx aheadAcc = some aheadCtx ∧ unpaired aheadState aheadAcc ∧ aheadAcc.released = true
    ∧ ((aheadCtx.inflight ++ aheadCtx.trapEntries).filter fun x => aheadAcc.after.contains x.uid) = [{ resultOf .st (.hbytes 3 7680) none 0 with land := 3 }]
    ∧ ({ resultOf .st (.hbytes 3 7680) none 0 with land := 3 } : Inflight).torn aheadCtx = false ∧ aheadCtx.flaws = [] ∧ aheadAcc.order < aheadCtx.progNo := by
  unfold unpaired; decide +kernel

theorem witness_AcknowledgementsReturnTheAllowance : let s := withTarget [winStoreAcc true]
    s.ctx? 0 = some (ctxLate ctxWin) ∧ (s.ctxAccs 0 (ctxLate ctxWin)).filter (Acc.inStream 0 5 0) = [] ++ [winStoreAcc true]
    ∧ (∀ x ∈ [] ++ [winStoreAcc true], x.performed = true ∧ x.queued = none ∧ s.complete x = true ∧ unpaired s x ∧ x.order < (ctxLate ctxWin).progNo)
    ∧ ∃ h' t b alw, (winStoreAcc true).op = .winStore h' t b alw true := by
  refine ⟨?_, ?_, ?_, _, _, _, _, rfl⟩
  · decide +kernel
  · decide +kernel
  · unfold unpaired; decide +kernel

/-! ## Witnesses: the copy engine -/

/-- Handles 3 (TILE) and 5 (a window), tensor 4, and staging registers. -/
def ctxCopy (h : Handle) (l : Tab Word) : Ctx := { staging (ctxObj (plainDesc .f32) h) l with
  handles := [(3, h), (5, { Handle.empty with st := .bound, desc := { HDesc.empty with level := .win, size := 4096, thandle := 3, tdx := 1 } })] }

/-- Virtual memory to handle 3; handle 3 to the window; tensor 4 to virtual memory with a counter. -/
def ctxIn : Ctx := ctxCopy (tileHandle 0) [(0, 0x1000000300000000), (1, 0x100000), (2, 64), (3, 8128)]
def ctxOut : Ctx := ctxCopy (tileHandle 0) [(0, 0x5000030500000000), (1, 4096), (2, 0), (3, 4096)]
def ctxBox : Ctx := ctxCopy (tileHandle 0) [(0, 0x8000040000000000), (2, 0x200000), (5, 0), (6, 0x0000000800000080), (7, 0x300000)]

theorem tokens0 (c : Ctx) (h : c.pk.tokens = 32) : tokensAllotted c 31 ⟨some 0, none, some 30⟩ := by
  unfold tokensAllotted; rw [h]; decide

theorem witness_CopiesIssue :
    (∀ c, c = ctxIn ∨ c = ctxOut ∨ c = ctxBox → Issues (at0 c) 0 c ∧ tokensAllotted c 31 ⟨some 0, none, some 30⟩ ∧ kindsOk c ∧ moveFields c ∧ copyForm c = 0
      ∧ ¬ (srcKind c = 2 ∧ dstKind c = 2) ∧ mapsSettled (at0 c) 0 c c.cpTensors)
    ∧ (sideReady (at0 ctxIn) ctxIn (srcKind ctxIn) (srcIndex ctxIn) ((ctxIn.readE 1).extractLsb' 0 32).toNat (fun _ => True)
      ∧ sideReady (at0 ctxIn) ctxIn (dstKind ctxIn) (dstIndex ctxIn) ((ctxIn.readE 2).extractLsb' 0 32).toNat (· = .tile) ∧ ctxIn.readE 7 = 0)
    ∧ (dstKind ctxOut = 1
      ∧ sideReady (at0 ctxOut) ctxOut (srcKind ctxOut) (srcIndex ctxOut) ((ctxOut.readE 1).extractLsb' 0 32).toNat (· = .tile)
      ∧ sideReady (at0 ctxOut) ctxOut (dstKind ctxOut) (dstIndex ctxOut) ((ctxOut.readE 2).extractLsb' 0 32).toNat (· ≠ .tile))
    ∧ (sideReady (at0 ctxBox) ctxBox (srcKind ctxBox) (srcIndex ctxBox) ((ctxBox.readE 1).extractLsb' 0 32).toNat (fun _ => True)
      ∧ sideReady (at0 ctxBox) ctxBox (dstKind ctxBox) (dstIndex ctxBox) ((ctxBox.readE 2).extractLsb' 0 32).toNat (· = .tile)
      ∧ ctxBox.readE 7 ≠ 0 ∧ dstKind ctxBox ≠ 1 ∧ dstKind ctxBox ≠ 2) := by
  refine ⟨?_, ⟨⟨?_, ?_⟩, ⟨?_, ?_⟩, by decide +kernel⟩, ⟨by decide +kernel, ⟨?_, ?_⟩, ⟨?_, ?_⟩⟩, ⟨⟨?_, ?_⟩, ⟨?_, ?_⟩, by decide +kernel⟩⟩
  · rintro c (rfl | rfl | rfl) <;>
      refine ⟨issues0 _, tokens0 _ (by decide +kernel), by unfold kindsOk; decide +kernel, ?_, by decide +kernel, by decide +kernel,
        by unfold mapsSettled; decide +kernel⟩ <;> unfold moveFields moveUnused staged validAddress <;>
      refine ⟨⟨?_, ?_, ?_, ?_, ?_, ?_⟩, ?_, ?_, ?_, ?_, ?_⟩ <;> decide +kernel
  · exact fun h => absurd h (by decide +kernel)
  · exact fun h => absurd h (by decide +kernel)
  · unfold handleReady; decide +kernel
  · exact fun h => absurd h (by decide +kernel)
  · unfold handleReady; decide +kernel
  · exact fun h => absurd h (by decide +kernel)
  · unfold handleReady; decide +kernel
  · exact fun h => absurd h (by decide +kernel)
  · exact fun h => absurd h (by decide +kernel)
  · refine fun _ => ⟨⟨?_, ?_, ?_, ?_, ?_, ?_, fun h hh => absurd hh (by rw [show (ctxBox.tensor (srcIndex ctxBox)).desc.handle = none by decide +kernel]; simp)⟩, fun _ _ => trivial⟩
    · unfold tensorReady handleReady; decide +kernel
    all_goals decide +kernel
  · exact fun h => absurd h (by decide +kernel)
  · exact fun h => absurd h (by decide +kernel)

/-- CPWB, and CPFILL of a handle's second granule. -/
def ctxBack (l : Tab Word) : Ctx := ctxCopy { tileHandle 2 with filled := [(0, true)] } ((0, 0x1000000300000000) :: l)

theorem witness_HandleCommandsIssue :
    ∀ c, c = ctxBack [] ∨ c = ctxBack [(2, 4096), (3, 4096)] → Issues (at0 c) 0 c ∧ tokensAllotted c 31 ⟨some 0, none, some 30⟩ ∧ kindsOk c ∧ copyForm c = 0
      ∧ srcKind c = 0 ∧ dstKind c = 1 ∧ handleReady c (dstIndex c) ∧ (c.handle (dstIndex c)).desc.level = .tile ∧ (c.handle (dstIndex c)).desc.bmode ≠ 0
      ∧ ((∀ n, 1 ≤ n → n ≤ 7 → c.readE n = 0) ∨
        (∀ n ∈ [1, 4, 5, 6, 7], c.readE n = 0) ∧ (c.readE 2).extractLsb' 32 32 = 0 ∧ (c.readE 3).extractLsb' 40 24 = 0 ∧ copyLen c ≠ 0
          ∧ copyLen c % 4096 = 0 ∧ (c.readE 2).toNat % 4096 = 0 ∧ (c.readE 2).toNat + copyLen c ≤ (c.handle (dstIndex c)).desc.size) := by
  rintro c (rfl | rfl)
  · refine ⟨issues0 _, tokens0 _ (by decide +kernel), ?_, by decide +kernel, by decide +kernel, by decide +kernel, ?_, by decide +kernel, by decide +kernel,
      .inl fun n h1 h7 => ?_⟩
    · unfold kindsOk; decide +kernel
    · unfold handleReady; decide +kernel
    · exact (by decide +kernel : ∀ n < 8, 1 ≤ n → (ctxBack []).readE n = 0) n (by omega) h1
  · refine ⟨issues0 _, tokens0 _ (by decide +kernel), ?_, by decide +kernel, by decide +kernel, by decide +kernel, ?_, by decide +kernel, by decide +kernel,
      .inr (by decide +kernel)⟩
    · unfold kindsOk; decide +kernel
    · unfold handleReady; decide +kernel

/-- Binding handle 3 and tensor 4 anew. -/
def ctxBind (form : Word) (h : Handle) : Ctx := ctxCopy h [(0, form), (1, 0x100040)]
def rebindH : Word := 0x1400000300000000
def rebindT : Word := 0x2800000400000000

theorem witness_BindingsIssue :
    (∀ c, c = ctxBind rebindH (tileHandle 0) ∨ c = ctxBind rebindH (tileHandle 2) ∨ c = ctxBind rebindT (tileHandle 0) →
      Issues (at0 c) 0 c ∧ tokensAllotted c 31 ⟨some 0, none, some 30⟩ ∧ kindsOk c ∧ srcKind c = 0 ∧ staged (c.readE 1) 64
        ∧ ∀ n, 2 ≤ n → n ≤ 7 → c.readE n = 0)
    ∧ (let c := ctxBind rebindH (tileHandle 0)
       copyForm c = 1 ∧ dstKind c = 1 ∧ dstIndex c < c.pk.handles ∧ ¬ writesBack c (dstIndex c) ∧ (c.handle (dstIndex c)).st ≠ .pending)
    ∧ writesBack (ctxBind rebindH (tileHandle 2)) (dstIndex (ctxBind rebindH (tileHandle 2)))
    ∧ (let c := ctxBind rebindT (tileHandle 0)
       copyForm c = 2 ∧ dstKind c = 2 ∧ dstIndex c < c.pk.tns) := by
  refine ⟨?_, ?_, ?_, by decide +kernel⟩
  · rintro c (rfl | rfl | rfl) <;> refine ⟨issues0 _, tokens0 _ (by decide +kernel), ?_, by decide +kernel, ?_, fun n h2 h7 => ?_⟩
    all_goals first
      | (unfold kindsOk; decide +kernel)
      | (unfold staged validAddress; decide +kernel)
      | skip
    · exact (by decide +kernel : ∀ n < 8, 2 ≤ n → (ctxBind rebindH (tileHandle 0)).readE n = 0) n (by omega) h2
    · exact (by decide +kernel : ∀ n < 8, 2 ≤ n → (ctxBind rebindH (tileHandle 2)).readE n = 0) n (by omega) h2
    · exact (by decide +kernel : ∀ n < 8, 2 ≤ n → (ctxBind rebindT (tileHandle 0)).readE n = 0) n (by omega) h2
  · unfold writesBack; decide +kernel
  · unfold writesBack; decide +kernel

/-- CP with a reserved bit of e0, of FORM 11, with an index of no kind and with a bit of an unused e4; CPW of FORM 01; CPWB with e7 set; CPFILL with
e1 set. -/
def ctxUnclear : List (Ctx × Instr) :=
  let a : After := ⟨none, none, none⟩
  [(ctxCopy (tileHandle 0) [(0, 1)], .cp 31 a 0), (ctxCopy (tileHandle 0) [(0, 0x0C00000000000000)], .cp 31 a 0),
    (ctxCopy (tileHandle 0) [(0, 0x0000000100000000)], .cp 31 a 0), (ctxCopy (tileHandle 0) [(4, 1)], .cp 31 a 0),
    (ctxCopy (tileHandle 0) [(0, 0x0400000000000000)], .cpw 31 a 0), (ctxCopy (tileHandle 0) [(0, 0x1000000300000000), (7, 1)], .cpwb 31 a 0),
    (ctxCopy (tileHandle 0) [(0, 0x1000000300000000), (1, 1)], .cpfill 31 a 0)]

theorem witness_CopyChecksComeInOrder :
    (∀ p ∈ ctxUnclear, Issues (at0 p.1) 0 p.1 ∧ ¬ clearFields p.1 p.2)
    ∧ (let c := { ctxIn with pk := { soloPacket with tokens := 31 } }
       Issues (at0 c) 0 c ∧ clearFields c (.cp 31 ⟨none, none, none⟩ 0) ∧ ¬ tokensAllotted c 31 ⟨none, none, none⟩)
    ∧ (let c := { ctxOut with pk := { soloPacket with handles := 3 } }
       Issues (at0 c) 0 c ∧ clearFields c (.cpw 31 ⟨none, none, none⟩ 0) ∧ tokensAllotted c 31 ⟨none, none, none⟩
        ∧ srcKind c = 1 ∧ c.pk.handles ≤ srcIndex c)
    ∧ (let c := { ctxOut with pk := { soloPacket with handles := 5 } }
       ¬ (srcKind c = 1 ∧ c.pk.handles ≤ srcIndex c ∨ srcKind c = 2 ∧ c.pk.tns ≤ srcIndex c) ∧ dstKind c = 1 ∧ c.pk.handles ≤ dstIndex c) := by
  refine ⟨?_, ⟨issues0 _, ?_, fun h => absurd h.1 (by decide)⟩, ⟨issues0 _, ?_, by unfold tokensAllotted; decide +kernel, by decide +kernel⟩, by decide +kernel⟩
  · unfold ctxUnclear clearFields kindsOk moveUnused; simp only [List.forall_mem_cons, List.not_mem_nil, false_imp_iff, implies_true, and_true]
    exact ⟨⟨issues0 _, by decide +kernel⟩, ⟨issues0 _, by decide +kernel⟩, ⟨issues0 _, by decide +kernel⟩, ⟨issues0 _, by decide +kernel⟩,
      ⟨issues0 _, by decide +kernel⟩, ⟨issues0 _, fun h => absurd (h.2.2.2.2 7 (by decide) (by decide)) (by decide +kernel)⟩, ⟨issues0 _, by decide +kernel⟩⟩
  · unfold clearFields kindsOk moveUnused; decide +kernel
  · unfold clearFields kindsOk moveUnused; decide +kernel

/-- A handle's descriptor, of 4096 bytes of TILE, of a window at (1, 0), and one that does not parse, with their accesses. -/
def bindAcc : Acc := access 7 (.bindHandle 3 0x100000)
def withWords (c : Ctx) (a : Acc) (l : List (Nat × Word)) : State :=
  { withAccs c [a] with mem := l.foldl (fun m p => writeMem m (0x8100000 + 8 * p.1) (bytesOf 8 p.2.toNat)) mem0 }
def handleWords : List (List (Nat × Word)) := [[(0, 0x1000)], [(0, 0x8000000000000040), (2, 0x8000000000004000)], [(0, 1)]]

theorem witness_HandleBindingCompletes :
    (∀ l ∈ handleWords, let s := withWords ctx0 bindAcc l
      goesOn s bindAcc ∧ unpaired s bindAcc ∧ s.accCtx bindAcc = some (ctxLate ctx0) ∧ copyReads s bindAcc.who (0x100000 : Word).toInt 64 0x8100000
        ∧ lastBinding s bindAcc (fun o => match o with | .bindHandle k _ => k = 3 | _ => false) ∧ bindAcc.order < (ctxLate ctx0).progNo)
    ∧ (let s := withWords ctx0 bindAcc [(0, 0x1000)]
       ∃ d, parseHandle ((ctxLate ctx0).retireHandle 3) 0 (descriptorWord s 0x8100000) = some d ∧ d.level = .tile ∧ d.exp = false
        ∧ ((ctxLate ctx0).retireHandle 3).firstFit ((d.size + 4095) / 4096) = some 0)
    ∧ (let s := withWords ctx0 bindAcc [(0, 0x8000000000000040), (2, 0x8000000000004000)]
       ∃ d, parseHandle ((ctxLate ctx0).retireHandle 3) 0 (descriptorWord s 0x8100000) = some d ∧ d.level ≠ .tile)
    ∧ (let s := withWords ctx0 bindAcc [(0, 1)]
       parseHandle ((ctxLate ctx0).retireHandle 3) 0 (descriptorWord s 0x8100000) = none) := by
  refine ⟨?_, ?_, ?_, by decide +kernel⟩
  · unfold goesOn unpaired copyReads lastBinding handleWords; decide +kernel
  · refine ⟨{ HDesc.empty with size := 4096 }, ?_⟩; decide +kernel
  · refine ⟨{ HDesc.empty with size := 64, level := .xwin, kf := true, tdie := 1 }, ?_⟩; decide +kernel

theorem witness_HandleDescriptorFields :
    (let w : Nat → Word := fun i => if i = 0 then 0x1030000000001000 else if i = 1 then 0x100000 else 0
     (∃ d, parseHandle ctx0 0 w = some d ∧ d.bmode = 1) ∧ handleWhole ctx0 0 w)
    ∧ ¬ handleWhole ctx0 0 (fun _ => 0) := by
  refine ⟨⟨⟨{ HDesc.empty with size := 4096, bmode := 1, cls := 3, back := 0x100000 }, by decide +kernel⟩, ?_⟩,
    fun h => absurd h.2.2.1 (by decide)⟩
  unfold handleWhole validAddress
  refine ⟨by decide, by decide, by decide, by decide, by decide, fun i h3 h7 => ?_, by decide, by decide, by decide, by decide, by decide, by decide,
    by decide, by decide, by decide⟩
  exact (by decide : ∀ n < 8, 3 ≤ n → (if n = 0 then 0x1030000000001000 else if n = 1 then 0x100000 else 0 : Word) = 0) i (by omega) h3

/-- A tensor descriptor of F32, rank 1. -/
def tensorWords : List (Nat × Word) := [(0, 0x9200000000000000), (1, 0x200000), (4, 16), (8, 1)]
def bindTAcc : Acc := access 7 (.bindTensor 4 0x100000)

theorem witness_TensorBindingCompletes : ∀ l ∈ [tensorWords, [(0, (1 : Word))]], let s := withWords ctx0 bindTAcc l
    goesOn s bindTAcc ∧ unpaired s bindTAcc ∧ s.accCtx bindTAcc = some (ctxLate ctx0) ∧ copyReads s bindTAcc.who (0x100000 : Word).toInt 128 0x8100000
      ∧ lastBinding s bindTAcc (fun o => match o with | .bindTensor k _ => k = 4 | _ => false) ∧ bindTAcc.order < (ctxLate ctx0).progNo := by
  unfold goesOn unpaired copyReads lastBinding; decide +kernel

theorem witness_TensorDescriptorFields : ∃ d, parseTensor ctx0 (descriptorWord (withWords ctx0 bindTAcc tensorWords) 0x8100000) = some d ∧ d.rank = 1 := by
  refine ⟨{ TDesc.empty with base := 0x200000, x := [16, 0, 0, 0, 0, 0], str := [1, 0, 0, 0, 0, 0] }, ?_⟩
  decide +kernel

theorem witness_TensorDescriptorFields_whole : tensorWhole ctx0 (descriptorWord (withWords ctx0 bindTAcc tensorWords) 0x8100000) := by
  unfold tensorWhole
  exact ⟨⟨.f32, by decide +kernel, by decide, (fun h => by cases h), fun _ => by decide +kernel⟩, by decide +kernel⟩

/-- A copy of 128 bytes in virtual memory, before a unit and after its last. -/
def copyAcc (u : Nat) : Acc := { access 7 (copyAt (.virt 0x100000) (.virt 0x200000) [(3, 128)] false u 0) with give := some (5, 0) }

theorem witness_CopiesMoveUnits :
    (let s := withAccs ctx0 [copyAcc 1]
     goesOn s (copyAcc 1) ∧ unpaired s (copyAcc 1) ∧ s.accCtx (copyAcc 1) = some (ctxLate ctx0) ∧ (copyAcc 1).released = true
      ∧ Tab.read 0 [(3, 128)] 7 = (0 : Word) ∧ 64 * 1 < ((Tab.read (0 : Word) [(3, 128)] 3).extractLsb' 0 40).toNat
      ∧ copyReads s (copyAcc 1).who (0x100000 + 64 * 1) 64 0x8100040
      ∧ writeAt s (copyAcc 1).who ⟨0x200000 + 64 * 1, none, readMem s.mem 0x8100040 64⟩ 0x8200040
      ∧ ∀ n ∈ (copyAcc 1).who.node, 0x8200040 + 64 ≤ n ∨ n + 8 ≤ 0x8200040)
    ∧ (let s := withAccs ctx0 [copyAcc 2]
       goesOn s (copyAcc 2) ∧ unpaired s (copyAcc 2) ∧ s.accCtx (copyAcc 2) = some (ctxLate ctx0)
        ∧ ((Tab.read (0 : Word) [(3, 128)] 3).extractLsb' 0 40).toNat ≤ 64 * 2 ∧ s.sending (copyAcc 2).id = false
        ∧ (copyAcc 2).order < (ctxLate ctx0).progNo) := by
  refine ⟨?_, ?_⟩
  · unfold goesOn unpaired copyReads writeAt; decide +kernel
  · unfold goesOn unpaired; decide +kernel

/-- CPFILL of the second granule of handle 3, backed at 0x100000. -/
def fillCmd : Acc := access 7 (.cpfill 3 4096 4096 false)

theorem witness_FillsReadTheBacking : let c := { ctx0 with handles := [(3, tileHandle 1)] }
    let s := withAccs c [fillCmd]
    goesOn s fillCmd ∧ unpaired s fillCmd ∧ s.accCtx fillCmd = some (ctxLate c) ∧ fillCmd.order < (ctxLate c).progNo
      ∧ copyReads s fillCmd.who (((ctxLate c).handle 3).desc.back.toInt + 4096) 4096 0x8101000 := by
  unfold goesOn unpaired copyReads; decide +kernel

/-! ## Witnesses: the synchronisation slot -/

/-- Words of the synchronisation slot staged: an address, and what follows it. -/
def ctxSync (e40 e41 e42 : Word) : Ctx := staging ctx0 [(40, e40), (41, e41), (42, e42)]

theorem reach0 (c : Ctx) (k : AKind) (va : Word) (n pa : Nat) (h : (validAddress va.toInt ∧ va.toNat % n = 0)
    ∧ ((at0 c).seen c).locateWord ((at0 c).whoOf 0 c) k va n = .ok (.phys pa)) : reachable (at0 c) 0 c k va n := ⟨h.1, .inl ⟨_, h.2⟩⟩

theorem witness_BuckleOperationsIssue : let c := ctxSync 0x100008 5 0x0000000200000001
    Issues (at0 c) 0 c ∧ fencesPass (at0 c) c 15 ∧ reservationFree c
      ∧ (atomOk .cas .i64 = true ∧ reachable (at0 c) 0 c .atomic (c.readE 40) (wordSize .i64))
      ∧ (redOk .fadd .f32 = true ∧ reachable (at0 c) 0 c .sync (c.readE 40) (wordSize .f32) ∧ (c.readE 42).extractLsb' 32 32 ≠ 0
        ∧ (c.readE 42).extractLsb' 0 32 < (c.readE 42).extractLsb' 32 32)
      ∧ reachable (at0 c) 0 c .sync (c.readE 40) 8 := by
  refine ⟨issues0 _, fun f hf => (by cases hf), ?_, ⟨by decide, reach0 _ _ _ _ 0x8100008 ?_⟩, ⟨by decide, reach0 _ _ _ _ 0x8100008 ?_, ?_⟩,
    reach0 _ _ _ _ 0x8100008 ?_⟩ <;> first | (unfold reservationFree; decide +kernel) | (unfold validAddress; decide +kernel) | decide +kernel

theorem witness_RequestsIssue :
    (let c := ctxSync 0x108000 0x000000FF00FFFFFF 0x100020
     Issues (at0 c) 0 c ∧ (c.readE 41).extractLsb' 40 24 = 0 ∧ (c.readE 41).extractLsb' 24 8 = 0 ∧ (c.readE 41).extractLsb' 0 24 ≠ 0
      ∧ staged (c.readE 40) 0x8000 ∧ reachable (at0 c) 0 c .store (c.readE 42) 32)
    ∧ (let c := ctxSync 16383 0 0
       Issues (at0 c) 0 c ∧ (c.readE 40).extractLsb' 14 50 = 0) := by
  refine ⟨⟨issues0 _, by decide +kernel, by decide +kernel, by decide +kernel, ?_, reach0 _ _ _ _ 0x8100020 ?_⟩, issues0 _, by decide +kernel⟩
  · unfold staged validAddress; decide +kernel
  · unfold validAddress; decide +kernel

theorem witness_SystemRequestsIssue :
    (let c := { ctxSync 0x108000 0xFFFFFF 0 with tm := true }
     Issues (at0 c) 0 c ∧ c.tm = true ∧ validAddress (c.readE 40).toInt ∧ (c.readE 41).extractLsb' 24 40 = 0 ∧ (c.readE 41).extractLsb' 0 24 ≠ 0
      ∧ staged (c.readE 40) 0x8000 ∧ 511 < c.pk.lining)
    ∧ (let c := { ctxSync 0x0000FFFF0000FFFF 0xFFF 0 with tm := true }
       Issues (at0 c) 0 c ∧ (c.readE 41).extractLsb' 12 52 = 0 ∧ (c.readE 40).extractLsb' 48 16 = 0 ∧ (c.readE 40).extractLsb' 16 16 = 0
        ∧ (c.readE 40).extractLsb' 32 16 ≠ 0) := by
  unfold staged validAddress; exact ⟨⟨issues0 _, by decide +kernel⟩, issues0 _, by decide +kernel⟩

/-- I8 weights of 32 by 2 with a version word, an input of 1 by 32, and an output of 1 by 2. -/
def wDesc : TDesc := { TDesc.empty with fmt := .i8, rank := 2, base := 0x100000, veraddr := 0x300000, x := [32, 2, 0, 0, 0, 0], str := [1, 32, 0, 0, 0, 0] }
def xDesc : TDesc := { TDesc.empty with fmt := .i8, rank := 2, base := 0x110000, x := [32, 1, 0, 0, 0, 0], str := [1, 32, 0, 0, 0, 0] }
def yDesc : TDesc := { TDesc.empty with fmt := .i32, rank := 2, base := 0x120000, x := [2, 1, 0, 0, 0, 0], str := [1, 2, 0, 0, 0, 0] }

/-- MDLT's staging registers: input 5, output 6, layer 9, PREVX, PREVY, N = 4, threshold 0. -/
def mdltRegs : Tab Word := [(16, 0x0506), (17, 9), (18, 0x130000), (19, 0x140000), (20, 0x0000000400000000), (21, 0)]
def ctxMdlt : Ctx := { staging ctx0 mdltRegs with tensors := [(4, ⟨.bound, wDesc⟩), (5, ⟨.bound, xDesc⟩), (6, ⟨.bound, yDesc⟩)] }

theorem witness_LiningCommandsIssue : Issues (at0 ctxMdlt) 0 ctxMdlt ∧ (at0 ctxMdlt).leaseReady 0 ctxMdlt = true ∧ liningReserved ctxMdlt
    ∧ 511 < ctxMdlt.pk.lining ∧ tokensAllotted ctxMdlt 31 ⟨some 0, none, some 30⟩
    ∧ (inputTn ctxMdlt = 5 ∧ outputTn ctxMdlt = 6 ∧ ∀ tn ∈ [4, 5, 6], tensorReady (at0 ctxMdlt) ctxMdlt tn)
    ∧ liningShapes ctxMdlt wDesc xDesc yDesc ∧ mapsSettled (at0 ctxMdlt) 0 ctxMdlt [4, 5, 6]
    ∧ ∀ tn ∈ [4, 5, 6], (ctxMdlt.tensor tn).desc.handle = none := by
  refine ⟨issues0 _, by decide +kernel, ?_, by decide +kernel, tokens0 _ (by decide +kernel), ⟨by decide +kernel, by decide +kernel, ?_⟩, ?_, ?_, by decide +kernel⟩
  · unfold liningReserved; decide +kernel
  · unfold tensorReady handleReady; decide +kernel
  · unfold liningShapes staged validAddress; refine ⟨?_, ?_, ?_, ?_, ?_, ?_, ?_, ?_, ?_, ?_, ?_, ?_, ?_, ?_, ?_, ?_, ?_, ?_⟩ <;> decide +kernel
  · unfold mapsSettled; decide +kernel

/-- A wait on the word at 0x100008, which holds the counter or phase v. -/
def ctxWait (e41 : Word) (done : Bool) : Ctx := { ctxSync 0x100008 e41 0 with waitDone := done }
def withWord (c : Ctx) (v : Nat) : State := { at0 c with mem := writeMem mem0 0x8100008 (bytesOf 8 v) }

theorem witness_WaitsComplete : ∀ v ∈ [7, 0], let c := ctxWait 6 false
    let s := withWord c v
    Issues s 0 c ∧ reachable s 0 c .waitRead (c.readE 40) 8 ∧ waitWord (s.seen c) 0 c (BitVec.ofNat 64 v)
      ∧ (c.readE 41).extractLsb' 32 32 = 0 ∧ s.wordReady 0 c (c.readE 40) = true ∧ (phaseReached (c.readE 41) (BitVec.ofNat 64 v) = true ↔ v = 7)
      ∧ (c.readE 41 ≤ BitVec.ofNat 64 v ↔ v = 7) ∧ ¬ (c.waitDone = true ∨ (s.leaderOf c).isSome) ∧ (ctxWait 6 true).waitDone = true := by
  intro v hv
  have hv : v = 7 ∨ v = 0 := by simpa using hv
  rcases hv with rfl | rfl <;>
    refine ⟨⟨rfl, rfl⟩, ⟨?_, .inl ⟨.phys 0x8100008, by decide +kernel⟩⟩, ⟨0x8100008, by decide +kernel, by decide +kernel, by decide +kernel⟩, ?_⟩
  · unfold staged validAddress; decide +kernel
  · decide +kernel
  · unfold staged validAddress; decide +kernel
  · decide +kernel

theorem witness_FenceAndDrainComplete :
    (Issues (at0 ctx0) 0 ctx0 ∧ (0x8000 : BitVec 16) ≠ 0 ∧ (∀ a ∈ (at0 ctx0).ctxAccs 0 ctx0, ((at0 ctx0).seen ctx0).accReaches .hbm a = false)
      ∧ ctx0.report .hbm = none)
    ∧ (let c := ctxLate ctx0
       let s := withAccs ctx0 [storeAcc]
       Issues s 0 c ∧ c.waitDone = false ∧ storeAcc ∈ s.ctxAccs 0 c ∧ (s.seen c).accReaches .hbm storeAcc = true)
    ∧ (let c := { ctx0 with waitDone := true }
       Issues (at0 c) 0 c ∧ c.waitDone = true ∧ c.report .tile = none) :=
  ⟨⟨issues0 _, by decide +kernel⟩, ⟨⟨rfl, rfl⟩, by decide +kernel⟩, issues0 _, by decide +kernel⟩

/-- A context BLOCKED at a bundle of one instruction. -/
def ctxBlocked (e41 : Word) : Ctx := { ctxWait e41 false with status := .blocked }
def waitingAt (i : Instr) (c : Ctx) (v : Nat) (l : List Acc) : State :=
  { at0 c with mem := writeMem (writeMem mem0 0x8010000 (bytesOf 64 (encode i))) 0x8100008 (bytesOf 8 v), accs := l }

theorem witness_WaitEventsComplete :
    (∀ i ∈ [Instr.waitph true 0x8001, .waitcnt false 0], ∀ v ∈ [7, 0], let s := waitingAt i (ctxBlocked 6) v []
      s.ctx? 0 = some (ctxBlocked 6) ∧ (ctxBlocked 6).status = .blocked ∧ (ctxBlocked 6).waitDone = false ∧ i ∈ s.bundleInstrs 0 (ctxBlocked 6)
        ∧ s.locateWord (s.whoOf 0 (ctxBlocked 6)) .waitRead ((ctxBlocked 6).readE 40) 8 = .ok (.phys 0x8100008)
        ∧ s.locPoisoned (.phys 0x8100008) 8 = false ∧ s.read64 0x8100008 = BitVec.ofNat 64 v)
    ∧ (∀ l ∈ [[], [{ storeAcc with grp := 0 }]], let s := waitingAt (.drain .hbm) (ctxBlocked 6) 0 l
      s.ctx? 0 = some (ctxBlocked 6) ∧ Instr.drain .hbm ∈ s.bundleInstrs 0 (ctxBlocked 6)
        ∧ (∀ i ∈ s.bundleInstrs 0 (ctxBlocked 6), i = .drain .hbm)
        ∧ (s.ctxAccs 0 (ctxBlocked 6)).map (s.accReaches .hbm) = l.map fun _ => true) := by
  decide +kernel

/-! ## Witnesses: operations at their Buckle -/

/-- Memory whose page is MIGRATING. -/
def memMigrating : List Host.Cell := writeMem mem0 0x18000 (bytesOf 8 0xC000000008006700)
def atomAcc : Acc := access 7 (.atom .cas .i32 0x100008 5 0 (some 50))

theorem witness_AtomicsPerformAtHome :
    (let s := withAccs ctx0 [atomAcc]
     atHome s atomAcc ∧ s.accCtx atomAcc = some (ctxLate ctx0) ∧ wordAt s atomAcc .atomic 0x100008 (wordSize .i32) 0x8100008)
    ∧ (let s := { withAccs ctx0 [atomAcc] with mem := memMigrating }
       atHome s atomAcc ∧ s.locateWord atomAcc.who .atomic 0x100008 (wordSize .i32) = .held) := by
  unfold atHome goesOn unpaired wordAt; decide +kernel

/-- Contribution i of two to a word, and a session that holds those of index 2 of 3. -/
def redAcc (n i : Nat) : Acc := access 7 (.red .fadd .f32 0x100008 0x3F800000 n i)
def open3 : Session := ⟨none, 0x8100008, 1, 0x100008, 3, 1, [(2, (0, .fadd, .f32, none))]⟩

theorem witness_ContributionsApplyInOrder :
    (∀ p ∈ [(2, 0), (2, 1), (3, 0), (3, 2)], let s := withAccs ctx0 [redAcc p.1 p.2]
      atHome s (redAcc p.1 p.2) ∧ wordAt s (redAcc p.1 p.2) .sync 0x100008 (wordSize .f32) 0x8100008)
    ∧ (let s := withAccs ctx0 [redAcc 2 0]
       let z := sessionFor s (redAcc 2 0) 0x8100008 0x100008 2
       z.n = 2 ∧ 0 = z.next ∧ z.held = [])
    ∧ (let s := withAccs ctx0 [redAcc 2 1]
       let z := sessionFor s (redAcc 2 1) 0x8100008 0x100008 2
       z.n = 2 ∧ z.next < 1 ∧ z.held.find 1 = none ∧ z.held.find z.next = none ∧ s.contributions (.phys 0x8100008) < 8192 ∧ z.next ≠ 2)
    ∧ (let s := { withAccs ctx0 [redAcc 3 0] with sessions := [open3] }
       let z := sessionFor s (redAcc 3 0) 0x8100008 0x100008 3
       0 < z.next)
    ∧ (let s := { withAccs ctx0 [redAcc 3 2] with sessions := [open3] }
       (sessionFor s (redAcc 3 2) 0x8100008 0x100008 3).held.find 2 ≠ none)
    ∧ (let s := { withAccs ctx0 [redAcc 2 1] with sessions := [open3] }
       (sessionFor s (redAcc 2 1) 0x8100008 0x100008 2).n ≠ 2) := by
  refine ⟨?_, by decide +kernel⟩
  unfold atHome goesOn unpaired wordAt; decide +kernel

def arriveAcc : Acc := access 7 (.arrive 0x100008)
def countAcc : Acc := access 7 (.count 0x100008 64 (some .hbm))

theorem witness_ArrivalsCount : ∀ a ∈ [arriveAcc, countAcc], let s := withAccs ctx0 [a]
    atHome s a ∧ wordAt s a .sync 0x100008 8 0x8100008 := by
  unfold atHome goesOn unpaired wordAt; decide +kernel

/-- SIGNAL, PAGEREQ and LAUNCH, and a queue that the tenant may append to. -/
def signalAcc : Acc := access 7 (.signal 255)
def pagereqAcc : Acc := access 8 (.pagereq 0x108000 1 9 0x100020 255)
def launchAcc : Acc := access 9 (.launch 5 [1, 2, 3, 4])
def queue5 (st : QState) (h t : BitVec 32) : Queue := { Queue.reset with st := st, owner := 1, base := 0x200000, head := h, tail := t }
def withQueue5 (st : QState) (h t : BitVec 32) (l : List Acc) : State := { withAccs ctx0 l with queues := [(5, queue5 st h t)], round := [] }

theorem witness_RequestsPerform : let s := withQueue5 .active 1 64 [signalAcc, pagereqAcc, launchAcc]
    (∀ a ∈ [signalAcc, pagereqAcc, launchAcc], goesOn s a ∧ unpaired s a ∧ a.released = true)
    ∧ (pagereqAcc.who.node = some soloRecord ∧ soloRecord < 2 ^ 64
      ∧ writeAt s pagereqAcc.who ⟨(0x100020 : Word).toInt, none, bytesOf 8 0x108000 ++ bytesOf 8 1 ++ bytesOf 8 soloRecord ++ bytesOf 8 9⟩ 0x8100020
      ∧ (0x8100020 + 32 ≤ soloRecord ∨ soloRecord + 8 ≤ 0x8100020))
    ∧ (s.round = [] ∧ launchAcc.who.node = some soloRecord ∧ (s.node? soloRecord).isSome ∧ (s.queue 5).st ≠ .disabled
      ∧ (s.queue 5).owner = launchAcc.who.tenant ∧ ((s.queue 5).tail - (s.queue 5).head).toNat < 2 ^ (s.queue 5).log2n
      ∧ runInMap ((s.queue 5).base + 64 * ((s.queue 5).tail.toNat % 2 ^ (s.queue 5).log2n)) 64 = true) := by
  unfold goesOn unpaired writeAt; decide +kernel

/-- SHMAP of entry 7, whose version is v, an empty image of version 1 at 0x100000. -/
def shmapAcc : Acc := access 7 (.shmap 7 0x100000)
def memImage : List Host.Cell := writeMem mem0 0x8100000 (bytesOf 8 (2 ^ 32))
def withEntry (v : BitVec 32) : State :=
  { withAccs ctx0 [shmapAcc] with mem := memImage, mantle := [(7, { MEnt.reset with version := v, tenant := some 1 })] }

theorem image1 : parseImage (readMem memImage 0x8100000 1152) = some { MEnt.reset with version := 1 } := by decide +kernel

theorem witness_MantleImagesInstall : ∀ v ∈ [(0 : BitVec 32), 5], let s := withEntry v
    goesOn s shmapAcc ∧ unpaired s shmapAcc ∧ shmapAcc.released = true ∧ s.accCtx shmapAcc = some (ctxLate ctx0)
      ∧ shmapAcc.order < (ctxLate ctx0).progNo ∧ staged 0x100000 128 ∧ copyReads s shmapAcc.who (0x100000 : Word).toInt 1152 0x8100000
      ∧ parseImage (readMem s.mem 0x8100000 1152) = some { MEnt.reset with version := 1 }
      ∧ (s.mantle.read .reset 7).tenant = some shmapAcc.who.tenant
      ∧ { MEnt.reset with version := 1, tenant := (s.mantle.read .reset 7).tenant } ≠ s.mantle.read .reset 7
      ∧ ((1 : BitVec 32) = (s.mantle.read .reset 7).version + 1 ↔ v = 0) := by
  intro v hv s
  have h : (goesOn s shmapAcc ∧ unpaired s shmapAcc ∧ shmapAcc.released = true ∧ s.accCtx shmapAcc = some (ctxLate ctx0)
      ∧ shmapAcc.order < (ctxLate ctx0).progNo ∧ staged 0x100000 128 ∧ copyReads s shmapAcc.who (0x100000 : Word).toInt 1152 0x8100000)
      ∧ ((s.mantle.read .reset 7).tenant = some shmapAcc.who.tenant
      ∧ { MEnt.reset with version := 1, tenant := (s.mantle.read .reset 7).tenant } ≠ s.mantle.read .reset 7
      ∧ ((1 : BitVec 32) = (s.mantle.read .reset 7).version + 1 ↔ v = 0)) := by
    rcases List.mem_cons.mp hv with rfl | h
    · unfold s goesOn unpaired copyReads staged validAddress; decide +kernel
    · cases List.mem_singleton.mp h; unfold s goesOn unpaired copyReads staged validAddress; decide +kernel
  exact ⟨h.1.1, h.1.2.1, h.1.2.2.1, h.1.2.2.2.1, h.1.2.2.2.2.1, h.1.2.2.2.2.2.1, h.1.2.2.2.2.2.2, image1, h.2⟩

def shootAcc : Acc := access 7 (.shoot .page 0x100000 0)

theorem witness_ShootDownsClearTheTlbs :
    (let s := withAccs ctx0 [shootAcc]
     goesOn s shootAcc ∧ unpaired s shootAcc ∧ shootAcc.released = true ∧ shootAcc.posted = false ∧ s.fencing shootAcc = false)
    ∧ (let s := { withAccs ctx0 [shootAcc] with mem := memMigrating }
       goesOn s shootAcc ∧ unpaired s shootAcc ∧ s.fencing shootAcc = true)
    ∧ (let x := { loadAcc with id := 6 }
       let s := withAccs { ctx0 with pend := [pending 50 []] } [x, shootAcc]
       goesOn s shootAcc ∧ unpaired s shootAcc ∧ stillUses s shootAcc .page 0x100000 0 x)
    ∧ (let x := { atomAcc with id := 6 }
       let s := withAccs ctx0 [x, shootAcc]
       goesOn s shootAcc ∧ unpaired s shootAcc ∧ stillUses s shootAcc .page 0x100000 0 x)
    ∧ (let a := { shootAcc with posted := true, deps := [6] }
       let s := withAccs ctx0 [a]
       goesOn s a ∧ unpaired s a ∧ a.released = true ∧ a.posted = true) := by
  unfold goesOn unpaired
  refine ⟨by decide +kernel, by decide +kernel, ⟨by decide +kernel, by decide +kernel, by decide +kernel, .inl ⟨by decide +kernel, ?_⟩⟩,
    ⟨by decide +kernel, by decide +kernel, by decide +kernel, .inr ⟨by decide, rfl, rfl, rfl, rfl, ?_⟩⟩, by decide +kernel⟩
  · exact ⟨_, .head _, by decide +kernel, by decide +kernel⟩
  · exact ⟨_, .head _, by decide +kernel⟩

theorem witness_QueuedOperationsGoOutInOrder : let a := { atomAcc with queued := some true }
    let b := { a with id := 8 }
    let s := withAccs ctx0 [a, b]
    s.acc? a.id = some a ∧ s.acc? b.id = some b
      ∧ (s.accs.filter fun x => x.queued = some true && tileDie x.who.tile = tileDie a.who.tile).head? = some a
      ∧ (s.accs.filter fun x => x.queued = some true && tileDie x.who.tile = tileDie b.who.tile).head? ≠ some b := by
  decide +kernel

/-! ## Witnesses: the Lining -/

def mdltAcc : Acc := access 7 (.mdlt 2 (.tens wDesc none) (.tens xDesc none) (.tens yDesc none) mdltRegs)

/-- The tables of `soloMemory`, their leaf's frame in the capacity memory: an access there closes no row of HBM4. -/
def sMdlt : State := { withAccs ctxMdlt [mdltAcc] with
  mem := [(4103, 0x30), (32770, 0x01), (32775, 0x80), (65537, 0x80), (65538, 0x01), (65543, 0x80), (98305, 0x27), (98309, 0x10), (98311, 0xD0)]
  tenants := [(1, ⟨0, [(0, 0x6000000000), (0x100000000000, 0x8000000)], some soloRoot⟩)] }
def cMdlt : Ctx := ctxLate ctxMdlt

/-- The conditions of `LiningComputes` on what a command reads and writes. -/
def liningGoes (s : State) (c : Ctx) (fits delta : Bool) (vb xb pb wb yb : List Byte) : Prop :=
  let e := mdltRegs
  let (w, x, y) := (wDesc, xDesc, yDesc)
  let g := mdltArgs e
  let grp := s.liningGroup c.grp
  let d := ((s.group? grp).map (·.die)).getD 0
  let b := s.bindSlot grp 2 g.layer c.tenant
  let r : MdltRun := ⟨w, none, x, none, y, none⟩
  let m := x.extent 1
  let k := w.extent 0
  let n := y.extent 0
  let groups := List.range (k / 32)
  let lv := [wordRun (canonical56 w.veraddr) 0 8]
  let lx := (List.range m).map fun i => x.rowSpots none i 0 k
  let lp := if fits then [wordRun g.prevx 0 (m * k)] else []
  let q := splitRows k m ((chunks (x.fmt.bits / 8) (m * k) xb).map (gridValue x.fmt g.ge))
  let diff := q.zipWith (fun u v => u.zipWith (· - ·) v) (splitRows k m (pb.map fun v => v.toInt))
  let nonzero (j : Nat) : Nat := (diff.filter fun row => ((row.drop (32 * j)).take 32).any (· ≠ 0)).length
  let need := if delta then groups.filter fun j => 0 < nonzero j else groups
  let lw := (List.range n).flatMap fun col => need.map fun j => r.block col j
  let ly := if delta then [wordRun g.prevy 0 (4 * m * n)] else []
  let s2 := b.1.touchSpots mdltAcc lv.flatten
  let s3 := s2.touchSpots mdltAcc lx.flatten
  let s4 := s3.touchSpots mdltAcc lp.flatten
  let s5 := s4.touchSpots mdltAcc lw.flatten
  let s6 := s5.touchSpots mdltAcc ly.flatten
  let size := 4 * w.fmt.bits + if w.fmt.isTxb then 2 else 0
  let cols := splitRows need.length n ((List.range (n * need.length)).map fun i => decodeBlock g.float w.fmt ((wb.drop (i * size)).take size))
  let out := (mdltRows g (if delta then diff else q) need cols (splitRows n m (chunks 4 (m * n) yb))).flatMap fun row => row.flatMap (bytesOf 4)
  b.2 = some 0
    ∧ (fits = true ↔ numOf vb % 2 = 0 ∧ liningFits (s3.lent d 0) g r (numOf vb))
    ∧ (delta = true ↔ fits = true ∧ (groups.map nonzero).sum * 65536 ≤ ((b.2.map (s3.lent d)).getD .empty).thr * (m * k / 32))
    ∧ b.1.readAll mdltAcc c lv = .ok vb false none ∧ s2.readAll mdltAcc c lx = .ok xb false none ∧ s3.readAll mdltAcc c lp = .ok pb false none
    ∧ s4.readAll mdltAcc c lw = .ok wb false none ∧ s5.readAll mdltAcc c ly = .ok yb false none
    ∧ ∃ s7, s6.mdltWrites mdltAcc c d b.2 ((r.outputs g).zipWith spotData [out, out, q.flatMap fun row => row.map fun v => BitVec.ofInt 8 v]) = .go s7

def sMdltFits : State := { sMdlt with
  groups := [(0, ⟨soloRecord, 0, none, true, some ⟨0, 0, 0, 0⟩, 0, [], none, 0, 0, 0, [(2, 0)]⟩)]
  dies := [(0, { Die.reset with lining := [(0, { LEnt.empty with
    st := .valid, tenant := 1, layer := 9, m := 1, k := 32, ncol := 2, veraddr := 0x300000, prevx := 0x130000, prevy := 0x140000, n := 4
    hold := [(0, 2)] })] })] }

def zs (n : Nat) : List Byte := List.replicate n 0

theorem goes_of {r : Stage State} (h : (match r with | .go _ => true | _ => false) = true) : ∃ s, r = .go s := by
  cases r with
  | go s => exact ⟨s, rfl⟩
  | wait => cases h
  | stop s => cases h

/-- The slot's entry is another command's, that is not complete. -/
def sMdltBusy : State := { sMdltFits with accs := [{ mdltAcc with id := 6, posted := true, entry := some (0, 0) }, mdltAcc] }

theorem witness_LiningComputes :
    (∀ s ∈ [sMdlt, sMdltFits, sMdltBusy], goesOn s mdltAcc ∧ unpaired s mdltAcc ∧ mdltAcc.released = true ∧ mdltAcc.posted = false
      ∧ s.accCtx mdltAcc = some cMdlt ∧ mdltChk mdltRegs (some wDesc) (some xDesc) (some yDesc) = .ok
      ∧ ∀ p ∈ [(wDesc, (none : Option MEnt)), (xDesc, none), (yDesc, none)], p.2.all (mantleFits cMdlt.tenant p.1) = true ∧ p.1.backedOk cMdlt = true)
    ∧ (∀ s ∈ [sMdlt, sMdltFits], ¬ ∃ i, (s.bindSlot (s.liningGroup cMdlt.grp) 2 9 cMdlt.tenant).2 = some i
        ∧ ∃ z ∈ s.accs, z.id ≠ mdltAcc.id ∧ z.entry = some (0, i))
    ∧ (∃ i, (sMdltBusy.bindSlot (sMdltBusy.liningGroup cMdlt.grp) 2 9 cMdlt.tenant).2 = some i
        ∧ ∃ z ∈ sMdltBusy.accs, z.id ≠ mdltAcc.id ∧ z.entry = some (0, i))
    ∧ liningGoes sMdlt cMdlt false false (zs 8) (zs 32) [] (zs 64) []
    ∧ liningGoes sMdltFits cMdlt true true (zs 8) (zs 32) (zs 32) [] (zs 8) := by
  refine ⟨?_, ?_, ⟨0, by decide +kernel, _, .head _, by decide, rfl⟩, ?_, ?_⟩
  · unfold goesOn unpaired; decide +kernel
  · intro s hs
    rcases List.mem_cons.mp hs with rfl | h
    · rintro ⟨_, -, z, hz, hne, -⟩; cases List.mem_singleton.mp hz; exact hne rfl
    · cases List.mem_singleton.mp h
      rintro ⟨_, -, z, hz, hne, -⟩; cases List.mem_singleton.mp hz; exact hne rfl
  all_goals
    unfold liningGoes liningFits
    exact ⟨by decide +kernel, by decide +kernel, by decide +kernel, by decide +kernel, by decide +kernel, by decide +kernel, by decide +kernel,
      by decide +kernel, goes_of (by decide +kernel)⟩

/-- A command whose Y went to a window, with and without a store that is under way. -/
def mdltPosted : Acc := { mdltAcc with posted := true, entry := some (0, 0) }

theorem witness_LiningCommandsEnd : ∀ l ∈ [[mdltPosted], [mdltPosted, { storeAcc with id := 6, parent := some 7 }]], let s := { sMdltFits with accs := l }
    goesOn s mdltPosted ∧ unpaired s mdltPosted ∧ mdltPosted.posted = true ∧ s.accCtx mdltPosted = some cMdlt
      ∧ (s.sending 7 = true ↔ l.length = 2) ∧ mdltPosted.order < cMdlt.progNo ∧ (s.lent 0 0).claimed = true
      ∧ (s.lent 0 0).tenant = mdltPosted.who.tenant ∧ (s.lent 0 0).layer = (mdltArgs mdltRegs).layer := by
  unfold goesOn unpaired; decide +kernel

/-- LNCTL, and the group's slot 2 bound to entry 0. -/
def lnctlAcc (fn : Nat) : Acc := access 7 (.lnctl fn 2 0x0000000400000000)
def withEntry0 (fn : Nat) : State := { withAccs ctx0 [lnctlAcc fn] with
  groups := [(0, ⟨soloRecord, 0, none, true, some ⟨0, 0, 0, 0⟩, 0, [], none, 0, 0, 0, [(2, 0)]⟩)]
  dies := [(0, { Die.reset with lining := [(0, { LEnt.empty with st := .valid, tenant := 1, layer := 9, hold := [(0, 2)] })] })] }

theorem witness_LnctlChangesEntries : ∀ fn < 3, let s := withEntry0 fn
    goesOn s (lnctlAcc fn) ∧ unpaired s (lnctlAcc fn) ∧ (lnctlAcc fn).released = true ∧ s.accCtx (lnctlAcc fn) = some (ctxLate ctx0)
      ∧ s.liningGroup (ctxLate ctx0).grp = 0 ∧ ((s.group? 0).map (·.die) = some 0 ∧ ((s.group? 0).map fun v => v.slots.find 2) = some (some 0))
      ∧ (s.lent 0 0).claimed = true ∧ (s.lent 0 0).tenant = (ctxLate ctx0).tenant
      ∧ ∀ p ∈ (s.die 0).lining, p.1 = 5 → (p.2.claimed && p.2.tenant = (ctxLate ctx0).tenant) = false := by
  unfold goesOn unpaired; decide +kernel

theorem witness_IntegerDelta : ([List.replicate 32 (1 : Int)]).length = ([List.replicate 32 (0 : Int)]).length
    ∧ (∀ r ∈ [List.replicate 32 (1 : Int)], r.length = 32 * 1) ∧ (∀ r ∈ [List.replicate 32 (0 : Int)], r.length = 32 * 1)
    ∧ ∀ w ∈ [[List.replicate 32 (2 : Int)]], w.length = 1 ∧ ∀ b ∈ w, b.length = 32 := by decide

/-! ## Witnesses: landing and messages -/

def ctxResult (f : Inflight) : Ctx := { ctx0 with inflight := [f], handles := [(3, tileHandle 0)] }

/-- A reply that is here, for a register, and for a weight buffer. -/
def ctxReply (q : Pend) : Ctx := { ctx0 with pend := [{ q with due := 0, reply := some ⟨7, 0, some .empty, false⟩ }] }

theorem witness_LandingWritesRegisters :
    (∀ f ∈ [resultOf .s (.scalar 63) (some 0) 0, resultOf .va (.row 2047 32) (some 4) 0b10001, resultOf .mx (.macz 2046 2) none 0,
        resultOf .s (.ctl 0x17) none 0, resultOf .st (.hbytes 3 7680) none 0, resultOf .vb (.port 7) none 0], let c := ctxResult f
      landing (at0 c) 0 c ∧ onlyDue c f ∧ (at0 c).bumpBlocked c f.land = false ∧ f.torn c = false)
    ∧ ((resultOf .va (.row 2047 32) (some 4) 0b10001).allFlags ctx0 ≠ 0 ∧ flagPlace .va = some (15, 1)
      ∧ (resultOf .st (.hbytes 3 7680) none 0).flags = 0 ∧ (ctx0.sendChan 7).isSome)
    ∧ (∀ q ∈ [pending 50 [], bufferPending (at0 ctx0) ctx0 true], let c := ctxReply q
      let p := { q with due := 0, reply := some ⟨7, 0, some .empty, false⟩ }
      landing (at0 c) 0 c ∧ c.pend = [p] ∧ (c.inflight.filter fun x => x.prog != c.tm && lcLe x.land c.time) = [] ∧ p.prog ≠ c.tm
        ∧ lcLe p.due c.time = true ∧ p.gran = none ∧ (p.result ⟨7, 0, some .empty, false⟩).torn c = false)
    ∧ (pending 50 []).wb = none ∧ (bufferPending (at0 ctx0) ctx0 true).wb = some 1 ∧ (bufferPending (at0 ctx0) ctx0 true).cause = none := by
  unfold landing onlyDue; decide +kernel

/-- Three results due at lc 0: SYSW's write of a control register, issued last, and two results for s63. -/
def dueThree : List Inflight :=
  [{ resultOf .s (.scalar 63) none 0 with uid := 6, issue := -1, land := 0 }, { resultOf .s (.scalar 63) none 0 with uid := 7, issue := -3, land := 0 },
    { resultOf .s (.ctl 0x17) none 0 with uid := 8, issue := 0, land := 0 }]
def inOrder : List Inflight :=
  [{ resultOf .s (.ctl 0x17) none 0 with uid := 8, issue := 0, land := 0 }, { resultOf .s (.scalar 63) none 0 with uid := 7, issue := -3, land := 0 },
    { resultOf .s (.scalar 63) none 0 with uid := 6, issue := -1, land := 0 }]

theorem witness_LandingKeepsItsOrder : let c := { ctx0 with inflight := dueThree }
    landing (at0 c) 0 c ∧ inOrder ≠ [] ∧ inOrder.Perm (c.inflight.filter fun x => x.prog != c.tm && lcLe x.land c.time)
      ∧ (∀ f ∈ inOrder, f.land = 0) ∧ inOrder.Pairwise landsBefore ∧ c.pend = [] ∧ c.bad = [] ∧ c.flaws = [] ∧ (at0 c).bumpBlocked c 0 = false
      ∧ ∀ f ∈ inOrder, f.flags = 0 ∧ ∀ n p, f.act ≠ .mx n p := by
  refine ⟨by unfold landing; decide +kernel, by decide, ?_, by decide, ?_, rfl, rfl, rfl, by decide +kernel, ?_⟩
  · rw [← List.isPerm_iff]; decide +kernel
  · unfold landsBefore inOrder; decide
  · unfold inOrder
    simp only [List.forall_mem_cons, List.not_mem_nil, false_imp_iff, implies_true, and_true]
    exact ⟨⟨rfl, fun _ _ h => (by cases h)⟩, ⟨rfl, fun _ _ h => (by cases h)⟩, rfl, fun _ _ h => (by cases h)⟩

/-- Two messages of one channel, the first departed or not. -/
def message (id : Nat) (departed : Bool) : Flight := ⟨id, 0, 0, 0, 0, 1, departed, 0, ⟨5, 1, 0, 0⟩⟩
def withMessages (l : List Flight) : State := { at0 ctx0 with flights := l }

theorem witness_MessagesKeepChannelOrder :
    (let s := withMessages [message 3 true, message 4 false]
     s.flights.find? (fun x => x.id = 4) = some (message 4 false) ∧ (message 4 false).departed = false
      ∧ ∀ g ∈ s.flights, g.id < 4 → g.departed = true)
    ∧ (let s := withMessages [message 3 false, message 4 false]
       s.flights.find? (fun x => x.id = 4) = some (message 4 false) ∧ (message 3 false) ∈ s.flights ∧ oneChannel (message 3 false) (message 4 false)
        ∧ (message 3 false).departed = false)
    ∧ (let s := withMessages [message 4 true]
       s.flights.find? (fun x => x.id = 4) = some (message 4 true) ∧ (s.group? 0).isSome ∧ ((s.group? 0).bind (·.place)) = some ⟨0, 0, 0, 0⟩
        ∧ (∀ g ∈ s.flights, ¬ g.id < 4) ∧ s.ctx? 0 = some ctx0 ∧ s.undo = []) := by
  unfold oneChannel; decide +kernel

/-! ## Witnesses: work queues, the dispatcher, priorities -/

/-- Memory that holds 64-bit words at rising addresses. -/
def wordCells (l : List (Nat × Nat)) : List Host.Cell :=
  l.flatMap fun p => (List.range 8).filterMap fun i =>
    if p.2 / 256 ^ i % 256 = 0 then none else some (p.1 + i, BitVec.ofNat 8 (p.2 / 256 ^ i))

/-- A ring slot at 0x10000 whose words are w0 and w2; a tenant block at 0x20000 with BQD k; a node block at 0x30000 with one predecessor; a packet of
one tile at 0x50000; the record at 0x40000 in STATE st. -/
def ringWords (w0 w2 k st : Nat) : List (Nat × Nat) :=
  [(0x10000, w0), (0x10008, 7), (0x10010, w2), (0x20000, 0x4000000107FF0000), (0x20010, 1), (0x20018, 64 * 2 ^ 55 + k),
    (0x30000, 0xC000000000000000), (0x30008, 0x20000), (0x30040, 2 ^ 32), (0x30050, 0x50000), (0x40000, st * 2 ^ 60),
    (0x50000, 0x10000), (0x50008, 1), (0x50020, 0x0008000800080008), (0x50028, 0x0008000800080008)]

def nodeEntry : Nat := 2 ^ 60 + 0x30000
def fenceEntry : Nat := 2 ^ 61

/-- Tenant 1 with function 1 and the queue q of die 0. -/
def withQ (v : Queue) (l : List (Nat × Nat)) : State := { State.reset with
  ready := true, mem := wordCells l, tenants := [(1, ⟨1, [(0, 0x6000000000)], none⟩)], queues := [(0, v)], fns := [(1, { Fn.reset with bind := .tenant 1 })] }

/-- A queue in a state, with so many entries at HEAD. -/
def queueOf (st : QState) (n : Nat) : Queue := ⟨0x10000, 6, 1, 0x400, BitVec.ofNat 32 (5 + n), st, false, 5, 0⟩
def queueAt0 (st : QState) (n : Nat) : Queue := { queueOf st n with head := 0, tail := BitVec.ofNat 32 n }

def tenantBlock : RawBlock := ⟨0x20000, 1, 1, 0x7FF, 0, [0, 0, 0, 1, 64, 0, 4, 0, 0, 0, 0], 0, 0, 0, 0, 0⟩

theorem witness_QueueRegistersFollowTheirTable :
    (∀ st n, (withQ (queueOf st n) []).reaches 64 0 = true ∧ (withQ (queueOf st n) []).reaches 1 0 = true ∧ (withQ (queueOf st n) []).reaches 2 0 = false
      ∧ (withQ (queueOf st n) []).queue 0 = queueOf st n)
    ∧ (tailAccepted (queueOf .active 1) (5 + 64) ∧ ¬ tailAccepted (queueOf .active 1) (5 + 65) ∧ tailAccepted (queueOf .frozen 1) (5 + 1)
      ∧ ¬ tailAccepted (queueOf .frozen 1) 5)
    ∧ (let s := withQ (queueOf .disabled 0) (ringWords nodeEntry 0x40000 4 0)
       let m := s.meetAll (s.chainRuns ((s.queue 0).region * 128))
       enables m (s.queue 0) ∧ ¬ enables m { s.queue 0 with log2n := 21 } ∧ ¬ enables s { s.queue 0 with log2n := 21 })
    ∧ ((queueOf .active 0).head = (queueOf .active 0).tail ∧ ¬ fetchedFrom (withQ (queueOf .active 0) []) 0)
    ∧ ((queueOf .active 1).head ≠ (queueOf .active 1).tail) ∧ (queueOf .frozen 0).head = (queueOf .frozen 0).tail
    ∧ (5 : BitVec 3) ≤ 7 := by
  refine ⟨fun st n => ⟨rfl, rfl, rfl, rfl⟩, by unfold tailAccepted; decide, ⟨?_, fun h => absurd h.2.1 (by decide), fun h => absurd h.2.1 (by decide)⟩,
    ⟨rfl, fun h => ?_⟩, by decide, rfl, by decide⟩
  · exact ⟨by decide, by decide, tenantBlock, [tenantBlock], by decide +kernel, by decide, by decide +kernel, by decide +kernel⟩
  · obtain ⟨p, hp, _⟩ := h; cases hp

/-- What the fetch makes of the node block. -/
def fetchedNode : Node :=
  { soloNode with
    pk := ⟨0x10000, 1, 1, false, 0, 1, 0, 0, 0, 0, 0, 0, 0, 0, 0, 0x00080008000800080008000800080008, List.replicate 8 0, []⟩
    pdl := 1, trapv := 0, chain := [⟨0x30000, none, none, none, none, none⟩, ⟨0x20000, some 64, some 0, some 4, some 0, some 0⟩], predn := 1, nextGrid := 0 }

/-- A queue with one entry, and a node of it pending. -/
def pendingOf (s : State) : State := { s with nodes := [(0x60000, { fetchedNode with queue := 0 })] }

theorem witness_EntriesAreFetchedInOrder :
    (¬ fetchable (queueAt0 .active 0) ∧ ¬ fetchable (queueAt0 .frozen 1) ∧ fetchable (queueAt0 .active 1))
    ∧ (let s := withQ (queueAt0 .active 1) (ringWords fenceEntry 0 4 0)
       slotReadable s (s.queue 0) ∧ ((entryAt s (s.queue 0)) 0).extractLsb' 60 4 = 2 ∧ ¬ fetchedFrom s 0 ∧ fetchedFrom (pendingOf s) 0
        ∧ entryWhole (entryAt s (s.queue 0)))
    ∧ (let s := withQ (queueAt0 .active 1) (ringWords fenceEntry 0x40000 4 0)
       slotReadable s (s.queue 0) ∧ ¬ entryWhole (entryAt s (s.queue 0)))
    ∧ (let s := withQ (queueAt0 .active 1) (ringWords (nodeEntry + 1) 0x40000 4 0)
       ((entryAt s (s.queue 0)) 0).extractLsb' 60 4 = 1 ∧ s.bqdFull 0 (s.queue 0) = false ∧ ¬ entryWhole (entryAt s (s.queue 0)))
    ∧ (let s := withQ (queueAt0 .active 1) (ringWords nodeEntry 0 4 0)
       s.bqdFull 0 (s.queue 0) = false ∧ entryWhole (entryAt s (s.queue 0)) ∧ ((entryAt s (s.queue 0)) 2).extractLsb' 0 52 = 0)
    ∧ (let s := withQ (queueAt0 .active 1) (ringWords nodeEntry 0x7000000000 4 0)
       s.bqdFull 0 (s.queue 0) = false ∧ entryWhole (entryAt s (s.queue 0))
        ∧ runInMap ((entryAt s (s.queue 0)) 2).toNat 64 = false)
    ∧ (let s := withQ (queueAt0 .active 1) (ringWords nodeEntry 0x40000 4 1)
       s.bqdFull 0 (s.queue 0) = false ∧ entryWhole (entryAt s (s.queue 0)) ∧ s.recState 0x40000 ≠ 0 ∧ s.poisoned 0x40000 64 = false)
    ∧ (let s := withQ (queueAt0 .active 1) (ringWords nodeEntry 0x40000 4 0)
       let e : Entry := ⟨false, 0x30000, 7, 0x40000, false⟩
       s.bqdFull 0 (s.queue 0) = false ∧ entryWhole (entryAt s (s.queue 0)) ∧ runInMap 0x40000 64 = true ∧ s.recState 0x40000 = 0
        ∧ (let u := (fetched s 0).meetAll ((0x40000, 64) :: s.nodeRuns e.node)
           u.fetchNode 0 e = .ok (fetchedNode, false) ∧ u.nodeOwners e = [])
        ∧ s.recArrived 0x40000 < fetchedNode.predn)
    ∧ (let s := { withQ (queueAt0 .active 1) [] with poison := [0x400] }
       ¬ slotReadable s (s.queue 0))
    ∧ (let s := withQ (queueAt0 .active 1) (ringWords nodeEntry 0x40000 0 0)
       slotReadable s (s.queue 0) ∧ ((entryAt s (s.queue 0)) 0).extractLsb' 60 4 = 1 ∧ s.bqdFull 0 (s.queue 0) = true) := by
  unfold fetchable slotReadable entryWhole fetchedFrom
  refine ⟨by decide, ?_, ?_, ?_, ?_, ?_, ?_, ?_, ?_, ?_⟩ <;> decide +kernel

/-- A node that is READY since time 0, at the package time of clock 300000, with a chain whose block at 0x20000 has BTIME 10. -/
def agedState (count : Nat) : State := { State.reset with
  ready := true, clock := 300000, mem := wordCells [(0x40000, 2 * 2 ^ 60)], btime := [(0x20000, count)]
  nodes := [(0x40000, { soloNode with pcap := 1, chain := [⟨0x20000, none, none, none, none, some 10⟩] })] }

theorem witness_PrioritiesFollowTheirPeriods :
    (agedState 0).now = 200000 ∧ (agedState 0).aging < (agedState 0).now / 100000 ∧ { agedState 0 with aging := 2 }.now / 100000 ≤ 2
    ∧ (agedState 0).recState 0x40000 = 2 ∧ (agedState 0).now / 1000000 ≤ (agedState 0).period
    ∧ { agedState 0 with clock := 1500000 }.period < { agedState 0 with clock := 1500000 }.now / 1000000
    ∧ (∀ p ∈ (agedState 15).nodes, usedUp (agedState 15) 0x20000 p.2) ∧ ∀ p ∈ (agedState 14).nodes, ¬ usedUp (agedState 14) 0x20000 p.2 := by
  refine ⟨rfl, by decide, by decide, by decide +kernel, by decide, by decide, ?_, ?_⟩
  · intro p hp; simp only [agedState, List.mem_singleton] at hp; subst hp
    exact ⟨_, List.mem_singleton.2 rfl, rfl, 10, rfl, by decide⟩
  · intro p hp; simp only [agedState, List.mem_singleton] at hp; subst hp
    rintro ⟨b, hb, _, k, hk, h⟩
    simp only [List.mem_singleton] at hb; subst hb; cases hk; exact absurd h (by decide)

/-! ## Witnesses: groups, the selector, traps that the device takes -/

/-- Only die 0 is up. -/
def oneDie : Tab Die := [(1, { Die.reset with failed := true }), (2, { Die.reset with failed := true }), (3, { Die.reset with failed := true })]

/-- A node that is READY, its one group not yet placed. -/
def readyNode : Node := { soloNode with nextGrid := 0 }
def readyState : State := { State.reset with ready := true, dies := oneDie, mem := wordCells [(soloRecord, 2 * 2 ^ 60)], nodes := [(soloRecord, readyNode)], nextId := 1 }

theorem witness_GroupsStartInTheInitialState :
    nothingToClear readyState 0 ∧ readyState.waiting 0 = [⟨soloRecord, readyNode, 0, []⟩]
    ∧ readyState.admits ⟨soloRecord, readyNode, 0, []⟩ [] = true
    ∧ readyState.findBoth ⟨soloRecord, readyNode, 0, []⟩ = some (⟨0, 0, 0, 0⟩, none) ∧ 0 < readyNode.pk.w ∧ 0 < readyNode.pk.h
    ∧ readyState.node? soloRecord = some readyNode := by
  refine ⟨by unfold nothingToClear ofDie; decide +kernel, by decide +kernel, by decide +kernel, by decide +kernel, by decide, by decide, rfl⟩

/-- The group of `State.solo`, saved while STOPPED. -/
def savedState : State := { at0 ctx0 with
  dies := oneDie, ctxs := [], groups := [(0, ⟨soloRecord, 0, none, true, none, 0, [(0, { ctx0 with status := .stopped })], none, 0, 0, 0, []⟩)] }
def savedGroup : Waiting := ⟨soloRecord, soloNode, 0, [0]⟩

/-- A READY node of higher priority, its group of 8 by 8 tiles with a row each, where ctx0 has all rows of tile 0. -/
def wideNode : Node := { soloNode with prio := 3, pcap := 3, eff := 3, nextGrid := 0, pk := { soloPacket with w := 8, h := 8, rows := 1, lining := 0, chans := [] } }
def crowded : State := { at0 ctx0 with
  dies := oneDie, clock := 200000, mem := mem0 ++ wordCells [(0x40000, 2 * 2 ^ 60)], nodes := [(soloRecord, soloNode), (0x40000, wideNode)] }
def wideGroup : Waiting := ⟨0x40000, wideNode, 0, []⟩

/-- The group of ctx c with a request to stop. -/
def stopping (c : Ctx) (stop : Option (Nat × Bool)) (clock : Nat) (accs : List Acc) : State := { at0 c with
  groups := [(0, ⟨soloRecord, 0, none, true, some ⟨0, 0, 0, 0⟩, 0, [], stop, 0, 0, 0, []⟩)], clock := clock, accs := accs }

theorem witness_GroupsResumeAndMakeRoom :
    (nothingToClear savedState 0 ∧ savedState.waiting 0 = [savedGroup] ∧ savedState.admits savedGroup [] = true
      ∧ savedState.findBoth savedGroup = some (⟨0, 0, 0, 0⟩, none)
      ∧ ∀ x, savedState.group? 0 = some x → Tab.sorted x.saved = true ∧ ∀ a ∈ x.saved, a.1 % 8 < soloNode.pk.w ∧ a.1 / 8 < soloNode.pk.h)
    ∧ (nothingToClear crowded 0 ∧ crowded.waiting 0 = [wideGroup] ∧ wideNode.background = false ∧ crowded.findBoth wideGroup = none
      ∧ bestRoom (crowded.rooms wideGroup) = some ⟨⟨0, 0, 0, 0⟩, none, [0], 1, 1⟩) := by
  refine ⟨⟨by unfold nothingToClear ofDie; decide +kernel, by decide +kernel, by decide +kernel, by decide +kernel, ?_⟩,
    ⟨by unfold nothingToClear ofDie; decide +kernel, by decide +kernel, rfl, by decide +kernel, by decide +kernel⟩⟩
  intro x h; cases h; decide +kernel

theorem witness_GroupsFinishStopAndAreSaved :
    (let s := stopping { ctx0 with status := .exited } none 0 []
     (∀ q ∈ s.nodes, ofDie 0 q → s.poisoned q.1 64 = false)
      ∧ (s.groups.find? (fun q => (s.nodes.filter fun n => n.2.queue / 4096 = 0).any (fun n => n.1 = q.2.node) && s.finished q.1)).isSome = true)
    ∧ (let s := stopping ctx0 (some (0, false)) 0 []
       s.group? 0 = some ⟨soloRecord, 0, none, true, some ⟨0, 0, 0, 0⟩, 0, [], some (0, false), 0, 0, 0, []⟩
        ∧ s.node? soloRecord = some soloNode ∧ s.now ≤ 0 + soloNode.pdl ∧ stoppable ctx0)
    ∧ 0 + soloNode.pdl < (stopping ctx0 (some (0, false)) 3 []).now
    ∧ (let c := { ctx0 with status := .stopped }
       let s := stopping c (some (0, false)) 96 []
       s.group? 0 = some ⟨soloRecord, 0, none, true, some ⟨0, 0, 0, 0⟩, 0, [], some (0, false), 0, 0, 0, []⟩ ∧ s.ctxs = [(0, c)] ∧ c.pend = []
        ∧ (∀ a ∈ s.accs, a.grp ≠ 0) ∧ 0 + 96 ≤ s.clock)
    ∧ ∃ a ∈ (stopping { ctx0 with status := .stopped } (some (0, false)) 96 [accessOf (at0 ctx0) 0 ctx0 none [] [] none (.signal 1)]).accs, a.grp = 0 := by
  refine ⟨by unfold ofDie; decide +kernel, ⟨by decide, by decide, by decide, by unfold stoppable; decide⟩, by decide, by decide +kernel, ?_⟩
  exact ⟨_, List.mem_singleton.2 rfl, rfl⟩

/-- Two READY contexts of tile 0, number 1 the last that held issue. -/
def twoReady : State := { at0 ctx0 with
  ctxs := [(0, { ctx0 with status := .ready }), (2, { ctx0 with status := .ready })], tiles := [(0, { Tile.reset with holder := none, last := 1 })] }

theorem witness_TheSelectorChoosesByPriority : (at0 ctx0).rings = [] ∧ ((at0 ctx0).tile 0).holder ≠ none ∧ (twoReady.tile 0).holder = none
    ∧ (∀ p ∈ twoReady.tileCtxs 0, twoReady.satisfied (0 * 4 + p.1) p.2 = false)
    ∧ twoReady.ctx? (0 * 4 + 2) = some { ctx0 with status := .ready } ∧ twoReady.rings = []
    ∧ ∀ p ∈ twoReady.tileCtxs 0, p.2.status = .ready → twoReady.prio p.2 ≤ twoReady.prio { ctx0 with status := .ready }
        ∧ (twoReady.prio p.2 = twoReady.prio { ctx0 with status := .ready } → p.1 ≠ 2
          → (2 + 7 - (twoReady.tile 0).last % 4) % 4 < (p.1 + 7 - (twoReady.tile 0).last % 4) % 4) := by decide +kernel

/-- An empty bundle stands at ctx0's PC, and its context has a handler. -/
def withBundle (c : Ctx) : State := { at0 c with mem := mem0 ++ [(soloFrame + soloPc + 63, 0x10)] }
def ctxCause (host sample : Bool) (issued : Nat) (l : List Window) : Ctx := { ctxHandler with hostsig := host, sample := sample, issued := issued, windows := l }

/-- A fault in the window of the load that bundle 4 issued. -/
def windowTrap : Window := ⟨4, true, 0x10000, ⟨0x06, 1, .ld, 0x130000⟩, some (.row 5 32), none, 0, none⟩

theorem witness_WindowFaultsAndInterruptsEnterTheHandler :
    (∀ c ∈ [ctxCause false false 7 [windowTrap], ctxCause false false 6 [windowTrap], ctxCause true true 7 [], ctxCause false true 7 [], ctxCause false false 7 []],
      atTrapPoint (withBundle c) 0 c)
    ∧ (∀ c ∈ [ctxCause false false 7 [windowTrap], ctxCause true true 7 []], hasHandler (withBundle c) 0 c)
    ∧ (windowTrap.num + 3 ≤ 7 ∧ 6 < windowTrap.num + 3)
    ∧ (∀ c ∈ [ctxCause true true 7 [], ctxCause false true 7 [], ctxCause false false 7 []], c.dueTrap = none ∧ (withBundle c).interruptible 0 c = true)
    ∧ ((at0 ctxT).ctx? 0 = some ctxT ∧ ctxT.tm = true) := by
  unfold atTrapPoint hasHandler; decide +kernel

/-! ## Witnesses: the end of a node -/

/-- A node whose record at 0x1000 has word 0 as given, with words elsewhere; its groups and accesses have gone. -/
def nodeState (word0 : Nat) (n : Node) (l : List (Nat × Nat)) : State := { State.reset with
  ready := true, mem := wordCells ((soloRecord, word0) :: l), nodes := [(soloRecord, n)], queues := [(0, queueOf .active 1)] }

/-- One successor, the record at 0x40000, listed at 0x2000. -/
def oneSucc : Node := { soloNode with succn := 1, succ := 0x2000 }
def succState (waits : Bool) : State :=
  let s := nodeState (3 * 2 ^ 60) oneSucc [(0x2000, 0x40000), (0x40000, if waits then 2 ^ 60 else 0)]
  { s with nodes := s.nodes ++ if waits then [(0x40000, { soloNode with predn := 1 })] else [] }

/-- The node's group, its last bundle at clock 0. -/
def idleGroup (stop : Option (Nat × Bool)) : Group := ⟨soloRecord, 0, none, true, some ⟨0, 0, 0, 0⟩, 0, [], stop, 0, 0, 0, []⟩
def idleState (stop : Option (Nat × Bool)) (clock : Nat) : State := { nodeState (3 * 2 ^ 60) soloNode [] with groups := [(0, idleGroup stop)], clock := clock }

theorem witness_NodesEnd :
    (let s := nodeState (3 * 2 ^ 60) soloNode []
     s.node? soloRecord = some soloNode ∧ s.poisoned soloRecord 64 = false ∧ s.recState soloRecord = 3 ∧ soloNode.pk.grid ≤ soloNode.nextGrid
      ∧ s.nodeGroups soloRecord = [] ∧ s.accs = [] ∧ soloNode.succn = 0 ∧ s.rings = [] ∧ soloNode.staged = []
      ∧ s.recIrrev soloRecord = false ∧ s.recRetry soloRecord < 3)
    ∧ (∀ w, let s := succState w
      s.node? soloRecord = some oneSucc ∧ s.recState soloRecord = 3 ∧ s.nodeGroups soloRecord = [] ∧ s.accs = [] ∧ oneSucc.succn = 1
      ∧ runInMap oneSucc.succ 8 = true ∧ (s.read64 oneSucc.succ).extractLsb' 52 12 = 0 ∧ (s.read64 oneSucc.succ).extractLsb' 0 6 = 0
      ∧ ((s.read64 oneSucc.succ).extractLsb' 6 46).toNat * 64 = 0x40000 ∧ runInMap 0x40000 64 = true ∧ s.poisoned 0x40000 64 = false
      ∧ s.recArrived 0x40000 < 65535)
    ∧ (succState false).node? 0x40000 = none
    ∧ ((succState true).node? 0x40000 = some { soloNode with predn := 1 } ∧ (succState true).recState 0x40000 = 1
      ∧ (succState true).recArrived 0x40000 + 1 = 1 ∧ ((succState true).read64 (0x40000 + 0x10)).extractLsb' 56 8 = 0)
    ∧ (nodeState (2 * 2 ^ 60) soloNode []).recState soloRecord ≠ 3
    ∧ (let s := nodeState (3 * 2 ^ 60 + 2 ^ 59) soloNode []
       s.recIrrev soloRecord = true ∧ s.recState soloRecord = 3)
    ∧ (let s := nodeState (3 * 2 ^ 60 + 3 * 2 ^ 24) soloNode []
       3 ≤ s.recRetry soloRecord ∧ s.recState soloRecord = 3) := by
  refine ⟨?_, ?_, ?_, ?_, ?_, ?_, ?_⟩ <;> decide +kernel

/-- The node with a staged page at 0, and another context's load that has translated there and whose turn has come. -/
def stagedNode (l : Option (List Nat)) : Node := { soloNode with staged := [⟨0, 1, 0x200000⟩], commit := l }
def stagedLoad : Acc := { loadAcc with who := { loadAcc.who with node := none } }
def stagedState (l : Option (List Nat)) (accs : List Acc) : State := { nodeState (3 * 2 ^ 60) (stagedNode l) [] with
  ctxs := [(0, { ctx0 with pend := [pending 50 []] })], accs := accs }

theorem witness_NodesEnd_staged :
    (∀ q ∈ [(none, [stagedLoad]), (none, []), (some [7], [stagedLoad]), (some [7], [])], let s := stagedState q.1 q.2
      s.node? soloRecord = some (stagedNode q.1) ∧ s.poisoned soloRecord 64 = false ∧ s.recState soloRecord = 3
        ∧ (stagedNode q.1).pk.grid ≤ (stagedNode q.1).nextGrid ∧ s.nodeGroups soloRecord = [] ∧ (∀ a ∈ s.accs, a.who.node ≠ some soloRecord)
        ∧ (stagedNode q.1).pages ≠ [] ∧ (stagedNode q.1).succn = 0)
    ∧ (∃ k, ∃ x ∈ (stagedState none [stagedLoad]).accs, x.id = k ∧ usedStaged (stagedState none [stagedLoad]) (stagedNode none) x)
    ∧ (∀ k, ¬ ∃ x ∈ (stagedState none []).accs, x.id = k ∧ usedStaged (stagedState none []) (stagedNode none) x)
    ∧ (∃ k ∈ [7], ∃ x ∈ (stagedState (some [7]) [stagedLoad]).accs, x.id = k ∨ x.parent = some k)
    ∧ ∀ k ∈ [7], ∀ x ∈ (stagedState (some [7]) []).accs, x.id ≠ k ∧ x.parent ≠ some k := by
  refine ⟨by decide +kernel, ⟨7, _, .head _, rfl, by decide +kernel, by decide +kernel, _, .head _, by decide +kernel, by decide +kernel⟩,
    (fun _ ⟨_, hx, _⟩ => by cases hx), by decide +kernel, by decide +kernel⟩

theorem witness_NodesHang :
    (∀ stop clock, (idleState stop clock).group? 0 = some (idleGroup stop) ∧ (idleState stop clock).node? soloRecord = some soloNode)
    ∧ hung (idleState none (3 * 2 ^ 29)) (idleGroup none) soloNode ∧ ¬ hung (idleState none (3 * 2 ^ 29 - 1)) (idleGroup none) soloNode
    ∧ hung (idleState (some (0, true)) 3) (idleGroup (some (0, true))) soloNode
    ∧ ((idleState none 0).queue soloNode.queue).st = .active ∧ soloNode.succn = 0 := by
  refine ⟨fun _ _ => ⟨rfl, rfl⟩, ⟨by decide, .inl (by decide)⟩, ?_, ⟨by decide, .inr ⟨0, rfl, by decide⟩⟩, rfl, rfl⟩
  rintro ⟨_, h | ⟨t, h, _⟩⟩
  · exact absurd h (by decide)
  · cases h

/-! ## Witnesses: the host -/

/-- Tenant 1 with function 1; the group of `State.solo`, placed or saved, or no group yet. -/
def hostState (groups : Tab Group) : State := { at0 ctx0 with
  groups := groups, tenants := [(1, ⟨1, [(0, 0x6000000000)], some soloRoot⟩)]
  fns := [(1, { Fn.reset with bind := .tenant 1, cpend := 1, spend := 1 })], queues := [(0, { Queue.reset with owner := 1 })] }

/-- HSIG's value for that node. -/
def namesNode : Word := 0x1000

theorem witness_HostSignalsFollowTheirRules :
    tenantFunction (hostState []) 1 1 ∧ signalledRecord namesNode = soloRecord ∧ (hostState []).node? soloRecord = some soloNode ∧ soloNode.tenant = 1
    ∧ (∀ q ∈ (hostState []).groups, ¬ (q.2.node = signalledRecord namesNode ∧ q.2.leader = true))
    ∧ firstGroup (hostState [(0, idleGroup none)]) soloRecord 0 (idleGroup none) ∧ (idleGroup none).place = some ⟨0, 0, 0, 0⟩
    ∧ (hostState []).ctx? (keyAt ⟨0, 0, 0, 0⟩ 0 0) = some ctx0 ∧ (hostState []).undo = []
    ∧ firstGroup (hostState [(0, { idleGroup none with place := none })]) soloRecord 0 { idleGroup none with place := none }
    ∧ (∀ n, (hostState []).node? (signalledRecord 0x2000) = some n → n.tenant ≠ 1)
    ∧ noTenantFunction (hostState []) 2 ∧ (hostState []).ready = true ∧ { hostState [] with ready := false }.ready = false
    ∧ ((hostState []).fn 1).cpend ≠ 0 ∧ ((hostState []).fn 1).imask.getLsbD 0 = true ∧ ((hostState []).fn 1).spend ≠ 0 := by
  refine ⟨⟨rfl, by decide, rfl⟩, by decide, rfl, rfl, fun q hq => (by cases hq), ⟨List.mem_singleton.2 rfl, rfl, rfl, rfl, ?_⟩, rfl, rfl, rfl,
    ⟨List.mem_singleton.2 rfl, rfl, rfl, rfl, ?_⟩, ?_, .inr (.inr fun t h => (by cases h)), rfl, rfl, ?_, by decide, by decide⟩
  · intro q hq _ _ h; exact absurd (List.mem_singleton.1 hq) h
  · intro q hq _ _ h; exact absurd (List.mem_singleton.1 hq) h
  · intro n h
    have : (hostState []).node? (signalledRecord 0x2000) = none := by decide
    rw [this] at h; cases h
  · exact (by decide +kernel)

theorem witness_HostMemoryWindowReadsAndWrites :
    (hostState []).ready = true ∧ tenantFunction (hostState []) 1 1 ∧ windowGranted (hostState []) 1 0x100100000 8
    ∧ ((hostState []).meet (0x100100000 - 0x100000000) 8).poisonMet [(0x100100000 - 0x100000000, 8)] = [] ∧ (hostState []).ecc.lines = [] ∧ (hostState []).ecc.tsvBad = []
    ∧ (∃ l ∈ ({ hostState [] with poison := [0x4000] }.meet (0x100100000 - 0x100000000) 8).poisonMet [(0x100100000 - 0x100000000, 8)], 64 * l < 0x100100000 - 0x100000000 ∨ 0x100100000 - 0x100000000 + 8 < 64 * l + 64)
    ∧ inMemoryWindow 0x100100000 = true ∧ noTenantFunction (hostState []) 2
    ∧ (((hostState []).fn 1).bind = .tenant 1 ∧ (hostState []).tenants.find 1 = some ⟨1, [(0, 0x6000000000)], some soloRoot⟩
      ∧ ¬ windowGranted (hostState []) 1 (0x100000000 + 0x6000000000 - 4) 8)
    ∧ ([0, 0, 0, 0, 0, 0, 0, 0] : List Byte).length = 8 ∧ (0x110080 : Nat) < 0x100000000 := by
  refine ⟨rfl, ⟨rfl, by decide, rfl⟩, ⟨by decide, by decide, by decide, _, rfl, by decide⟩, by decide +kernel, rfl, rfl,
    ⟨0x4000, by decide +kernel, by decide⟩, by decide, .inr (.inr fun t h => (by cases h)), ⟨rfl, rfl, ?_⟩, rfl, by decide⟩
  rintro ⟨_, _, h, _⟩; exact absurd h (by decide)

/-! ## Witnesses: the mailbox -/

/-- Function 0 has written a command and its arguments and rung the doorbell. -/
def mailState (b : Binding) (req : List Nat) : State := { withQ (queueOf .disabled 0) (ringWords 0 0 4 0) with
  fns := [(0, { Fn.reset with bind := b, door := true, req := (((List.range 8).zip req).map fun p => (p.1, BitVec.ofNat 64 p.2)) })]
  mantle := [(7, { MEnt.reset with tenant := some 1 })] }
def mailTenant : Tenant := ⟨1, [(0, 0x6000000000)], none⟩

theorem sent0 (b : Binding) (req : List Nat) (code : Nat) (h : ((((mailState b req).fn 0).req.read 0 0).extractLsb' 0 8 = BitVec.ofNat 8 code)) :
    submitted (mailState b req) 0 code := ⟨rfl, by decide, rfl, h⟩

theorem witness_TenantRemoval : submitted (mailState .owner [2, 1]) 0 0x02 ∧ ((mailState .owner [2, 1]).fn 0).bind = .owner
    ∧ arg (mailState .owner [2, 1]) 0 1 = 1 ∧ (mailState .owner [2, 1]).tenants.find 1 = some mailTenant :=
  ⟨sent0 _ _ _ (by decide), rfl, by decide, rfl⟩

theorem witness_MailboxOwnersCommands :
    ((mailState .owner []).fn 0).bind = .owner
    ∧ (submitted (mailState .owner [1, 65535, 63]) 0 1 ∧ arg (mailState .owner [1, 65535, 63]) 0 1 = 65535 ∧ arg (mailState .owner [1, 65535, 63]) 0 2 = 63
      ∧ (mailState .owner [1, 65535, 63]).tenants.find 65535 = none ∧ ((mailState .owner [1, 65535, 63]).fn 63).bind = .none)
    ∧ (let s := mailState .owner [3, 1, 0x8000, 2]
       submitted s 0 3 ∧ arg s 0 2 % 0x8000 = 0 ∧ arg s 0 3 ≠ 0 ∧ runInMap (arg s 0 2) (arg s 0 3 * 0x8000) = true ∧ s.tenants.find (arg s 0 1) = some mailTenant)
    ∧ (let s := mailState .owner [5, 1, 4095]
       submitted s 0 5 ∧ arg s 0 2 = 4095 ∧ s.tenants.find (arg s 0 1) = some mailTenant)
    ∧ (let s := mailState .owner [11, 1, 7]
       submitted s 0 0x0B ∧ arg s 0 2 = 7 ∧ (s.mantle.read .reset (arg s 0 2)).tenant = some (arg s 0 1))
    ∧ (let s := mailState .owner [6, 3, 65535]
       submitted s 0 6 ∧ arg s 0 1 = 3 ∧ arg s 0 2 = 65535)
    ∧ (let s := mailState .owner [9, 2 ^ 28, 1]
       submitted s 0 9 ∧ arg s 0 1 = (0x10000000 : BitVec 32).toNat ∧ unitOk 0x10000000 = true ∧ arg s 0 2 = 1 ∧ s.groups = [])
    ∧ (let s := mailState .owner [9, 2 ^ 28, 0]
       submitted s 0 9 ∧ arg s 0 2 = 0)
    ∧ (let s := { mailState .owner [10] with ras := [.dieFailed 0] }
       submitted s 0 0x0A ∧ s.ras = [.dieFailed 0])
    ∧ (submitted (mailState .owner [10]) 0 0x0A ∧ (mailState .owner [10]).ras = []) := by
  unfold submitted arg; refine ⟨rfl, ?_, ?_, ?_, ?_, ?_, ?_, ?_, ?_, ?_⟩ <;> decide +kernel

theorem witness_MailboxTenantsCommands :
    (((mailState (.tenant 1) []).fn 0).bind = .tenant 1 ∧ (mailState (.tenant 1) []).tenants.find 1 = some mailTenant)
    ∧ (submitted (mailState (.tenant 1) [4, 0x8000]) 0 4 ∧ arg (mailState (.tenant 1) [4, 0x8000]) 0 1 % 0x8000 = 0)
    ∧ (let s := mailState (.tenant 1) [7, 0x20000, 0x100000, 16]
       submitted s 0 7 ∧ arg s 0 3 = 16 ∧ arg s 0 2 % 2 ^ arg s 0 3 = 0 ∧ runInMap (arg s 0 2) (2 ^ arg s 0 3) = true
        ∧ s.block? (arg s 0 1) = .ok tenantBlock ∧ s.chain (arg s 0 1) = .ok [tenantBlock] ∧ tenantBlock.kind ≠ 3 ∧ chainTenant [tenantBlock] = 1
        ∧ inRanges mailTenant.ranges (arg s 0 2) (2 ^ arg s 0 3) = true)
    ∧ (let s := mailState (.tenant 1) [8, 1, 2, 3, 4]
       submitted s 0 8 ∧ mailTenant.ranges = [(0, 0x6000000000)] ∧ s.poison = [] ∧ s.ecc.lines = [] ∧ s.ecc.tsvBad = []) := by
  unfold submitted arg; refine ⟨?_, ?_, ?_, ?_⟩ <;> decide +kernel

theorem witness_MailboxRefusals :
    (submitted (mailState (.tenant 1) [2]) 0 2 ∧ ownersCommand 2 ∧ ((mailState (.tenant 1) [2]).fn 0).bind ≠ .owner)
    ∧ (submitted (mailState .owner [4]) 0 4 ∧ ¬ ownersCommand 4 ∧ ∀ t, ((mailState .owner [4]).fn 0).bind ≠ .tenant t)
    ∧ (submitted (mailState .owner [0]) 0 0 ∧ submitted (mailState .owner [12]) 0 12 ∧ submitted (mailState .owner [255]) 0 255)
    ∧ ¬ submitted (mailState .owner [4]) 0 2 := by
  refine ⟨⟨sent0 _ _ _ (by decide), by unfold ownersCommand; decide, by decide⟩, ⟨sent0 _ _ _ (by decide), by unfold ownersCommand; decide, ?_⟩,
    ⟨sent0 _ _ _ (by decide), sent0 _ _ _ (by decide), sent0 _ _ _ (by decide)⟩, ?_⟩
  · intro t h; cases h
  · rintro ⟨_, _, _, h⟩; exact absurd h (by decide)

/-! ## Witnesses: reliability, links, power, trace -/

/-- The package of ctx0 with tile 0 of die 0 quarantined, and die 0 as given. -/
def tile00 : BitVec 32 := 0x10000000
def repairState (d : Die) : State := { at0 ctx0 with quarantine := [tile00], dies := [(0, d)], refresh := [3] }

theorem witness_RepairFollowsItsRules :
    ((repairState Die.reset).ready = true ∧ unitTile tile00 = some (0, 0, 0) ∧ tile00 ∈ (repairState Die.reset).quarantine)
    ∧ (Die.reset.retiring = none ∧ Die.reset.failed = false ∧ Die.reset.retired = none ∧ ((0 : Nat), ctx0) ∈ (repairState Die.reset).ctxs)
    ∧ (∀ p ∈ (repairState Die.reset).groups, p.2.twin = none)
    ∧ ((repairState { Die.reset with retired := some 3 }).die 0).retired = some 3
    ∧ ((repairState { Die.reset with retiring := some 3 }).die 0).retiring = some 3
    ∧ (let s := { repairState { Die.reset with retiring := some 0 } with ctxs := [] }
       (s.die 0).retiring = some 0 ∧ s.ctxs = [])
    ∧ tile00 ∉ (at0 ctx0).quarantine ∧ 3 ∈ (repairState Die.reset).refresh ∧ 4 ∉ (repairState Die.reset).refresh
    ∧ (∀ b, ((at0 ctx0).refresh.filter fun r => Config.dramBankOf r = b).length ≤ 4) := by
  refine ⟨⟨rfl, by decide, List.mem_singleton.2 rfl⟩, ⟨rfl, rfl, rfl, List.mem_singleton.2 rfl⟩, ?_, rfl, rfl, ⟨rfl, rfl⟩, by decide, by decide, by decide,
    fun b => Nat.zero_le _⟩
  intro p hp; rw [List.mem_singleton.1 (show p ∈ [(0, idleGroup none)] from hp)]; rfl

/-- ctx0 at combined time 200, whose old copy of 50 clocks ago was at 150. -/
def struck : State := { at0 { ctx0 with comb := 200 } with clock := 200, undo := [⟨150, 0, { ctx0 with comb := 150 }, 0⟩] }

theorem witness_StrikesRewindTheirGroups :
    struck.ready = true ∧ Tab.sorted struck.ctxs = true ∧ (∀ p ∈ struck.groups, p.2.twin = none) ∧ struck.rings = []
    ∧ (∀ p ∈ struck.ctxs, p.2.flaws = []) ∧ (∀ x ∈ struck.undo, x.ctx.flaws = []) ∧ nearStrike struck 0 0 0 (0 / 4) ∧ nearStrike struck 0 1 0 (0 / 4)
    ∧ (¬ nearStrike struck 3 8 7 (0 / 4)) ∧ struck.ctx? 0 = some { ctx0 with comb := 200 } ∧ struck.twinOf { ctx0 with comb := 200 } = none
    ∧ struck.undo.filter (fun x => x.key = 0) = [⟨150, 0, { ctx0 with comb := 150 }, 0⟩] ∧ struck.clock ≤ 150 + 96
    ∧ ¬ beingSaved struck 0 ∧ beingSaved { struck with ctxs := [(0, { ctx0 with status := .stopped })] } 0
    ∧ (∀ x ∈ (at0 ctx0).undo, x.key = 0 → x.clock + 96 < (at0 ctx0).clock)
    ∧ unitOk 0 = false ∧ unitOk 0x60000000 = true ∧ unitKind 0x60000000 ∉ [1, 2, 7, 8] := by
  unfold nearStrike beingSaved; decide +kernel

/-- The same with another context of the group, on the die's far tile. -/
def struckFar : State := { struck with
  ctxs := struck.ctxs ++ [(252, { ctx0 with comb := 200, dx := 7, dy := 7 })]
  undo := struck.undo ++ [⟨150, 252, { ctx0 with comb := 150, dx := 7, dy := 7 }, 0⟩] }

theorem witness_StrikesRewindTheirGroups_far :
    Tab.sorted struckFar.ctxs = true ∧ (∀ p ∈ struckFar.ctxs, p.2.flaws = []) ∧ (∀ x ∈ struckFar.undo, x.ctx.flaws = [])
    ∧ struckFar.ctx? 252 = some { ctx0 with comb := 200, dx := 7, dy := 7 } ∧ (¬ nearStrike struckFar 0 0 0 (252 / 4))
    ∧ (∃ p ∈ struckFar.ctxs, p.2.grp = ctx0.grp ∧ nearStrike struckFar 0 0 0 (p.1 / 4))
    ∧ struckFar.undo.filter (fun x => x.key = 252) = [⟨150, 252, { ctx0 with comb := 150, dx := 7, dy := 7 }, 0⟩] := by
  unfold nearStrike; decide +kernel

theorem witness_StorageErrorsFollowTheirCodes :
    (inHbm (64 * 0x200000) = true ∧ lineChecks 0x200000 = 16 ∧ inCap (64 * 0x4000000000) = true ∧ lineChecks 0x4000000000 = 8)
    ∧ 0x200000 ∉ (at0 ctx0).poison
    ∧ (let m (e : Tab Byte) := { at0 ctx0 with ecc := { (at0 ctx0).ecc with lines := (at0 ctx0).ecc.lines.write [] 0x200000 (mergeSymbols [] e) } }
       (2 * ((m ((List.range 8).map fun i => (i, 1))).lineErrors 0x200000).length ≤ lineChecks 0x200000
        ∧ (m [(3, 1)]).lineErrors 0x200000 ≠ [])
        ∧ lineChecks 0x200000 < 2 * ((m ((List.range 9).map fun i => (i, 1))).lineErrors 0x200000).length)
    ∧ (at0 ctx0).lineErrors 0x200000 = [] ∧ (at0 ctx0).ecc.lines.read [] 0x200000 = []
    ∧ ({ (at0 ctx0).ecc with tsvBad := [tsvOf 0x200000 79] } : Ecc).tsvBad = [tsvOf 0x200000 79] := by
  refine ⟨?_, ?_, ?_, ?_, ?_, rfl⟩ <;> decide +kernel

/-- Die 0 has used spares of its link to die 1; station 8 has narrowed n times. -/
def linkState (used : List Nat) (n : Nat) : State := { hostState [] with
  dies := [(0, { Die.reset with lanes := [(1, used)], stations := [(8, n)] }), (1, { Die.reset with lanes := [(0, used)] })] }

theorem witness_LinksAndPeersAnswer :
    (7 ∉ ((linkState [1, 2, 3] 0).die 0).lanes.read [] 1 ∧ (((linkState [1, 2, 3] 0).die 0).lanes.read [] 1).length < 4)
    ∧ (7 ∈ ((linkState [7] 0).die 0).lanes.read [] 1 ∧ 4 ≤ (((linkState [1, 2, 3, 4] 0).die 0).lanes.read [] 1).length)
    ∧ (((linkState [] 1).die 0).stations.read 0 8 < 2 ∧ 2 ≤ ((linkState [] 2).die 0).stations.read 0 8)
    ∧ ((hostState []).ready = true ∧ 256 < peerBytes (.read 257) ∧ peerBytes (.atom .cas .i64 0 0) = 8)
    ∧ (runInMap 0x100000 256 = true ∧ tenantHolds (hostState []) 1 0x100000 256 ∧ (hostState []).poisonMet [(0x100000, 256)] = []
      ∧ (hostState []).locPoisoned (.phys 0x100000) 8 = false ∧ (hostState []).ecc.lines = [] ∧ (hostState []).ecc.tsvBad = [])
    ∧ (8 = wordSize .i64 ∧ 4 = wordSize .i32 ∧ runInMap 0x100000 8 = true ∧ tenantHolds (hostState []) 1 0x100000 8)
    ∧ ((hostState []).tenants.find 1 = some ⟨1, [(0, 0x6000000000)], some soloRoot⟩ ∧ runInMap 0x6000000000 8 = false
      ∧ inRanges [(0, 0x6000000000)] 0x100000000000 8 = false ∧ peerBytes (.read 8) ≤ 256) := by
  refine ⟨by decide +kernel, by decide +kernel, by decide +kernel, by decide, ⟨by decide, ⟨_, rfl, by decide⟩, by decide +kernel, by decide +kernel, rfl, rfl⟩,
    ⟨by decide, by decide, by decide, ⟨_, rfl, by decide⟩⟩, by decide⟩

/-- Step 0 fails of itself; where the images are accepted the sequence completes, or stops at a later step that fails. -/
theorem witness_PowerComesAndGoes : State.reset.ready = false ∧ State.reset.failStep = none ∧ (∀ p ∈ State.reset.groups, p.2.twin = none)
    ∧ stopsAt (some 0) = some 0 ∧ (imageOk 1 = true → imageOk 2 = true → stopsAt none = none ∧ stopsAt (some 1) = some 1 ∧ stopsAt (some 5) = some 5)
    ∧ (at0 ctx0).ready = true ∧ { State.reset with failStep := some 2 }.failStep ≠ none ∧ Memory.wf State.reset.mem = true := by
  refine ⟨rfl, rfl, ?_, rfl, ?_, rfl, ?_, rfl⟩
  · intro p hp; cases hp
  · intro h1 h2; simp [stopsAt, h1, h2]
  · intro h; cases h

/-- ctx0's node under a region with a trace ring. -/
def ring0 : TraceRing := ⟨0x20000, 0x100000, 16, 8⟩
def traced (c : Ctx) (n : Nat) : State := { at0 c with
  nodes := [(soloRecord, { soloNode with chain := [⟨0x20000, none, none, none, none, none⟩] })], rings := [ring0]
  tiles := [(0, { Tile.reset with holder := some 0, bundles := [(soloRecord, n)] })] }

theorem witness_TraceUnitKeepsItsPeriods :
    (∀ k n, (traced { ctx0 with sinceSync := k } n).ctx? 0 = some { ctx0 with sinceSync := k }
      ∧ (traced { ctx0 with sinceSync := k } n).traceRing ctx0.node = some ring0
      ∧ ((traced { ctx0 with sinceSync := k } n).tile 0).bundles.read 0 ctx0.node = n)
    ∧ (4096 ≤ ({ ctx0 with sinceSync := 4096 } : Ctx).sinceSync ∧ ctx0.needSync = false ∧ ctx0.sinceSync < 4096)
    ∧ (ring0.period ≠ 0 ∧ ring0.period ≤ 8 ∧ 7 < ring0.period ∧ ((traced ctx0 8).tile (0 / 4)).holder = some (0 % 4) ∧ (traced ctx0 8).undo = [])
    ∧ (at0 ctx0).traceRing ctx0.node = none := by
  refine ⟨fun k n => ⟨rfl, rfl, rfl⟩, by decide, by decide, rfl⟩

/-! ## Witnesses: decoding, the step -/

theorem witness_DecodingUndoesEncoding : ∀ i ∈ [Instr.addImm .off (.s 63) 0xFFFFFFFF, .fence .sys 0xFFFF, .hold 15, .pop 255, .lnctlInval 511], i.wf = true ∧ encodable i = true := by
  decide

/-- The package in ctx0's turn, with a bundle of one slot at its PC. -/
def turnState (c : Ctx) (lo w : Nat) : State := { at0 c with mem := writeMem mem0 (soloFrame + soloPc) (bytesOf 64 (bundleOf lo w)), cur := none, round := [0] }

/-- ctx0 as it issues. -/
def issuing0 (lo w : Nat) : State := issuing (turnState ctx0 lo w) 0 [] ctx0
def ctxIssuing (lo w : Nat) : Ctx := ((issuing0 lo w).ctx? 0).getD ctx0

/-- Slot words that complete, trap, and wait for a head. -/
def turnWords : List (Nat × Nat × Instr) :=
  [(400, 0x2100306000000040, .addImm (.s 3) (.s 3) 0x40), (400, 0x5800000000000021, .trap 0x21),
    (328, 0x1939002C815038000, .vadd ⟨false, .f32, ⟨3, true⟩, .nearest, .row 5⟩ (.head 2) (.scalar 7))]

/-- Decoding comes to a bundle. -/
def decodesTo {ε : Type} (e : Except ε Bundle) (b : Bundle) : Bool :=
  match e with
  | .ok x => x = b
  | .error _ => false

theorem of_decodesTo {ε : Type} {e : Except ε Bundle} {b : Bundle} (h : decodesTo e b = true) : e = .ok b := by
  cases e with
  | ok x => exact congrArg _ (of_decide_eq_true h)
  | error _ => cases h

theorem witness_StepRunsTheDecodedInstruction :
    (∀ p ∈ turnWords, let s := turnState ctx0 p.1 p.2.1
     atTurn s 0 [] ctx0 ∧ (issuing0 p.1 p.2.1).ctx? 0 = some (ctxIssuing p.1 p.2.1) ∧ privileged (ctxIssuing p.1 p.2.1) p.2.2 = false)
    ∧ (∀ p ∈ turnWords, aloneAtPc (turnState ctx0 p.1 p.2.1) 0 [] ctx0 (ctxIssuing p.1 p.2.1) p.2.2)
    ∧ (let s0 := issuing0 400 0x2100306000000040
       let c0 := ctxIssuing 400 0x2100306000000040
       (slotOp (.addImm (.s 3) (.s 3) 0x40)).own s0 0 c0 = .ok ∧ needChk s0 0 c0 [] ((slotOp (.addImm (.s 3) (.s 3) 0x40)).need s0 0 c0) = .ok
        ∧ ({ turnState ctx0 400 0x2100306000000040 with round := [] } : State).meetsBad c0 [.addImm (.s 3) (.s 3) 0x40] = false ∧ s0.logHeld (keyTile 0) = 0)
    ∧ (slotOp (.trap 0x21)).own (issuing0 400 0x5800000000000021) 0 (ctxIssuing 400 0x5800000000000021) = .trap ⟨0x10, 0, .s, 0⟩ 0x21
    ∧ ctx0.entryWait = none
    ∧ (let s0 := issuing0 400 0x2100306000000040
       let c0 := ctxIssuing 400 0x2100306000000040
       let i : Instr := .addImm (.s 3) (.s 3) 0x40
       let s2 := s0.correctRead 0 c0 [i]
       accept c0.acct i = none ∧ s2.ctx? 0 = some c0 ∧ (slotOp i).own s2 0 c0 = .ok ∧ needChk s2 0 c0 [] ((slotOp i).need s2 0 c0) = .ok)
    ∧ (slotOp (.vadd ⟨false, .f32, ⟨3, true⟩, .nearest, .row 5⟩ (.head 2) (.scalar 7))).own (issuing0 328 0x1939002C815038000) 0
        (ctxIssuing 328 0x1939002C815038000) = .wait 2
    ∧ deviceStep (.linkReplay 0) = true ∧ State.reset.agenda = [] ∧ State.reset.ready = false ∧ State.reset.failStep = none
    ∧ (∃ i, readyState.autoEvent = some i) ∧ (let s := { State.reset with ready := true }
      s.agenda = [] ∧ s.autoEvent = none ∧ s.round = [] ∧ s.upsets = []) := by
  refine ⟨by unfold atTurn; decide +kernel, ?_, by decide +kernel, by decide +kernel, rfl, by decide +kernel, by decide +kernel, rfl, rfl, rfl, rfl,
    Option.isSome_iff_exists.1 (by decide +kernel), by decide +kernel⟩
  have h : ∀ p ∈ turnWords, ({ turnState ctx0 p.1 p.2.1 with round := [] } : State).fetch 0 ctx0 = .ok (bundleOf p.1 p.2.1)
      ∧ decodesTo (decode (ctxIssuing p.1 p.2.1).acct (bundleOf p.1 p.2.1)) ⟨⟨0, 0, false, false⟩, [(p.2.2.slot, p.2.2)]⟩ = true := by decide +kernel
  exact fun p hp => ⟨_, (h p hp).1, of_decodesTo (h p hp).2⟩

/-- A load of ctx0 whose translation is not known; and a log with no room for another write. -/
def ctxUnknown : Ctx := { ctx0 with pend := [{ atomPending (at0 ctx0) ctx0 0 0 with known := false, due := 1000 }] }
def fullLog : State := { turnState ctx0 400 0x2100306000000040 with undo := [⟨0, 0, ctx0, 163840⟩] }

theorem witness_StepStalls :
    (let s := turnState ctxUnknown 400 0x5800000000000021
     atTurn s 0 [] ctxUnknown ∧ ctxUnknown.entryWait = some 12 ∧ privileged ctxUnknown (.trap 0x21) = false)
    ∧ (let s0 := issuing fullLog 0 [] ctx0
       let c0 := (s0.ctx? 0).getD ctx0
       atTurn fullLog 0 [] ctx0 ∧ s0.logHeld (keyTile 0) ≠ 0 ∧ (match exec (.addImm (.s 3) (.s 3) 0x40) s0 with
        | .next t => decide (163840 < s0.logHeld (keyTile 0) + ((t.ctx? 0).map (bundleBytesLogged c0)).getD 0)
        | _ => false) = true) := by
  unfold atTurn; decide +kernel

theorem witness_MemoryStaysCanonical : Memory.wf State.reset.mem = true
    ∧ ∃ t, step { State.reset with agenda := [.linkReplay 3] } = .next t := ⟨rfl, _, rfl⟩

/-! ## Single steps, with the values worked out by hand from the rules -/

/-- The value that the last result of context 0 will land with. -/
def lands (o : Host.Outcome State Fault Refusal) : Option Nat :=
  match o with
  | .next t => ((t.ctx? 0).bind (·.inflight.getLast?)).map (·.value.toNat)
  | _ => none

/-- R312, R313: the immediate is sign-extended, and addition is modulo 2^64. -/
theorem test_add_wraps : lands (exec (.addImm (.s 1) (.s 5) 0xFFFFFFFF) (at0 (ctxValue 0))) = some (2 ^ 64 - 1) := by decide +kernel
theorem test_mulh_signs : lands (exec (.mulh false (.s 1) (.s 5) (.s 5)) (at0 (ctxValue (-1)))) = some 0
    ∧ lands (exec (.mulh true (.s 1) (.s 5) (.s 5)) (at0 (ctxValue (-1)))) = some (2 ^ 64 - 2) := by decide +kernel
theorem test_sar_keeps_the_sign : lands (exec (.sarImm (.s 1) (.s 5) 63) (at0 (ctxValue (2 ^ 63)))) = some (2 ^ 64 - 1) := by decide +kernel
theorem test_bswap : lands (exec (.bswap (.s 1) (.s 5)) (at0 (ctxValue 0x0102030405060708))) = some 0x0807060504030201 := by decide +kernel
theorem test_lih_keeps_the_low_half : lands (exec (.lih (.s 5) 0x12345678) (at0 (ctxValue 0x9ABCDEF0))) = some 0x123456789ABCDEF0 := by decide +kernel

/-- R53: s10 holds dx, dy, W and H of a context at (0, 0) of one tile. -/
theorem test_initial_scalars : ctx0.readS 10 = 0x01010000 ∧ ctx0.readS 9 = 0 ∧ ctx0.readM 0 = BitVec.allOnes 512 := by decide +kernel

/-- The PC, TM and cause of context 0 after a step. -/
def trapOf (o : Host.Outcome State Fault Refusal) : Option (Bool × Nat × Nat) :=
  match o with
  | .next t => (t.ctx? 0).map fun c => (c.tm, c.pc.toNat, (c.readS 49).toNat / 2 ^ 56)
  | _ => none

/-- R266, R269: a software trap (cause 0x10) enters the handler at CTL.TVEC. -/
theorem test_trap_enters : trapOf (exec (.trap 0x21) (at0 ctxHandler)) = some (true, 0x20000, 0x10) := by decide +kernel

/-- R281: α^8 is x^4 + x^3 + x^2 + 1, and a codeword is a multiple of g(x): its syndromes are 0, and one symbol in error shows in them. -/
theorem test_codeword : gfAlpha 8 = 0x1D ∧ (∀ j < 16, syndrome (codeword 16 (List.range 64)) j = 0)
    ∧ syndrome (received (codeword 16 (List.range 64)) [(79, 0x5A)]) 7 = 0x5A := by decide +kernel

end Sys2Proof.Tests
end

section
/-! SUPPORT. Placing a new group (03 R53; 04 R79, R80): what each operation of `State.placeOne` changes, and what it leaves as it was. -/

namespace Sys2Proof.Machine

/-! ## Tables and sorted lists -/

section
variable {α β : Type}

theorem mem_insertSorted (lt : α → α → Bool) (x y : α) (l : List α) : y ∈ insertSorted lt x l ↔ y = x ∨ y ∈ l := by
  induction l with
  | nil => simp [insertSorted]
  | cons z rest ih =>
    simp only [insertSorted]
    split
    · rw [List.mem_cons, ih, List.mem_cons]
      exact or_left_comm
    · simp only [List.mem_cons]

theorem mem_sortBy (lt : α → α → Bool) (y : α) (l : List α) : y ∈ sortBy lt l ↔ y ∈ l := by
  induction l with
  | nil => simp [sortBy]
  | cons x rest ih =>
    have h : sortBy lt (x :: rest) = insertSorted lt x (sortBy lt rest) := rfl
    rw [h, mem_insertSorted, ih, List.mem_cons]

theorem Tab.find_foldl_insert_ne (k : α → Nat) (v : α → β) (j : Nat) : ∀ (l : List α) (t : Tab β), (∀ a ∈ l, j ≠ k a) →
    Tab.find (l.foldl (fun t a => Tab.insert t (k a) (v a)) t) j = Tab.find t j
  | [], _, _ => rfl
  | a :: l, t, h => by
    obtain ⟨ha, hl⟩ := List.forall_mem_cons.1 h
    exact (Tab.find_foldl_insert_ne k v j l _ hl).trans (Tab.find_insert_ne t (v a) ha)

/-- Of values listed one after another each is found, as long as items of one key have one value. -/
theorem Tab.find_foldl_insert (k : α → Nat) (v : α → β) (a : α) : ∀ (l : List α) (t : Tab β),
    (∀ b ∈ l, k b = k a → v b = v a) → a ∈ l → Tab.find (l.foldl (fun t a => Tab.insert t (k a) (v a)) t) (k a) = some (v a)
  | b :: l, t, h, ha => by
    obtain ⟨hb, hl⟩ := List.forall_mem_cons.1 h
    by_cases hlater : ∃ c ∈ l, k c = k a
    · obtain ⟨c, hc, hk⟩ := hlater
      have hv : v c = v a := hl c hc hk
      rw [List.foldl_cons, ← hk, ← hv]
      exact Tab.find_foldl_insert k v c l _ (fun d hd e => (hl d hd (e.trans hk)).trans hv.symm) hc
    · have hne : ∀ c ∈ l, k a ≠ k c := fun c hc e => hlater ⟨c, hc, e.symm⟩
      have hab : a = b := (List.mem_cons.1 ha).resolve_right fun hm => hne a hm rfl
      subst hab
      rw [List.foldl_cons, Tab.find_foldl_insert_ne k v _ l _ hne, Tab.find_insert_self]

end

/-! ## Contexts and nodes by number -/

theorem State.ctx?_mapCtx (s : State) (key k : Nat) (f : Ctx → Ctx) :
    (s.mapCtx key f).ctx? k = if k = key then (s.ctx? k).map f else s.ctx? k := by
  cases h : s.ctx? key with
  | none => simp only [State.mapCtx, h]; split <;> simp_all
  | some c => rw [State.mapCtx_of s f h, State.ctx?_setCtx]; split <;> simp_all

theorem State.node?_mapNode_self (s : State) (n : Nat) (f : Node → Node) : (s.mapNode n f).node? n = (s.node? n).map f := by
  unfold State.mapNode
  split
  · next v h => rw [h]; exact Tab.find_insert_self s.nodes n (f v)
  · next h => rw [h]; rfl

theorem State.foldl_setCtx {α : Type} (k : α → Nat) (v : α → Ctx) : ∀ (l : List α) (s : State),
    l.foldl (fun s a => s.setCtx (k a) (v a)) s = { s with ctxs := l.foldl (fun t a => Tab.insert t (k a) (v a)) s.ctxs }
  | [], _ => rfl
  | a :: l, s => State.foldl_setCtx k v l (s.setCtx (k a) (v a))

/-! ## The state of a record (R74) -/

theorem Met.mem {s t : State} (h : Met s t) : t.mem = s.mem := by obtain ⟨_, _, _, _, _, _, _, rfl⟩ := h; rfl
theorem Met.ctxs {s t : State} (h : Met s t) : t.ctxs = s.ctxs := by obtain ⟨_, _, _, _, _, _, _, rfl⟩ := h; rfl
theorem Met.groups {s t : State} (h : Met s t) : t.groups = s.groups := by obtain ⟨_, _, _, _, _, _, _, rfl⟩ := h; rfl
theorem Met.nodes {s t : State} (h : Met s t) : t.nodes = s.nodes := by obtain ⟨_, _, _, _, _, _, _, rfl⟩ := h; rfl
theorem Met.queues {s t : State} (h : Met s t) : t.queues = s.queues := by obtain ⟨_, _, _, _, _, _, _, rfl⟩ := h; rfl
theorem Met.accs {s t : State} (h : Met s t) : t.accs = s.accs := by obtain ⟨_, _, _, _, _, _, _, rfl⟩ := h; rfl

@[simp] theorem State.setRecState_ctxs (s : State) (rec st : Nat) : (s.setRecState rec st).ctxs = s.ctxs := (Met.meet _ rec 8).ctxs
@[simp] theorem State.setRecState_groups (s : State) (rec st : Nat) : (s.setRecState rec st).groups = s.groups := (Met.meet _ rec 8).groups
@[simp] theorem State.setRecState_nodes (s : State) (rec st : Nat) : (s.setRecState rec st).nodes = s.nodes := (Met.meet _ rec 8).nodes
@[simp] theorem State.setRecState_queues (s : State) (rec st : Nat) : (s.setRecState rec st).queues = s.queues := (Met.meet _ rec 8).queues
@[simp] theorem State.setRecState_accs (s : State) (rec st : Nat) : (s.setRecState rec st).accs = s.accs := (Met.meet _ rec 8).accs

theorem State.recState_of_mem {s t : State} (h : t.mem = s.mem) (rec : Nat) : t.recState rec = s.recState rec := by
  simp only [State.recState, State.read64, h]

/-- STATE is the top field of a record's first word. -/
theorem field_recWord0 {st arrived retry : Nat} (irrev : Bool) (hst : st < 16) (ha : arrived < 65536) (hr : retry < 256) :
    field (recWord0 st irrev arrived retry) 63 60 = st := by
  have hf : (if irrev then 2 ^ 59 else 0) ≤ 2 ^ 59 := by split <;> omega
  simp only [field, bf, recWord0, BitVec.toNat_ofNat]
  omega

theorem State.recState_setRecState (s : State) (rec : Nat) {st : Nat} (h : st < 16) : (s.setRecState rec st).recState rec = st := by
  have hmem := (Met.meet (s.write64 rec (recWord0 st (s.recIrrev rec) (s.recArrived rec % 65536) (s.recRetry rec % 256))) rec 8).mem
  have hset := State.recState_of_mem hmem rec
  rw [State.recState, State.recState, State.read64_write64, field_recWord0 _ h (Nat.mod_lt _ (by omega)) (Nat.mod_lt _ (by omega))] at hset
  exact hset

/-- Only a record's first word is written. -/
theorem State.readByte_setRecState (s : State) (rec st : Nat) {b : Nat} (h : b < rec ∨ rec + 8 ≤ b) :
    readByte (s.setRecState rec st).mem b = readByte s.mem b := by
  rw [State.setRecState, State.setRec0, (Met.meet _ rec 8).mem]
  exact readByte_writeMem_ne s.mem rec b _ (by rwa [bytesOf_length])

/-! ## A group's contexts -/

theorem Packet.mem_offsets (pk : Packet) (dx dy : Nat) : (dx, dy) ∈ pk.offsets ↔ dx < pk.w ∧ dy < pk.h := by
  simp only [Packet.offsets, List.mem_flatMap, List.mem_map, List.mem_range, Prod.mk.injEq]
  constructor
  · rintro ⟨_, hy, _, hx, rfl, rfl⟩; exact ⟨hx, hy⟩
  · rintro ⟨hx, hy⟩; exact ⟨dy, hy, dx, hx, rfl, rfl⟩

/-- A group within the 8 columns of a die has one context on each of its tiles. -/
theorem Place.key_inj {p : Place} {w dx dy ex ey : Nat} (hp : p.x + w ≤ 8) (hd : dx < w) (he : ex < w) (h : p.key dx dy = p.key ex ey) :
    dx = ex ∧ dy = ey := by
  simp only [Place.key] at h
  omega

/-- A new group, its contexts at their keys. -/
theorem State.startGroup_eq (s : State) (g : Nat) (w : Waiting) (p : Place) (twin : Option Nat) (leader : Bool) :
    s.startGroup g w p twin leader = { s with
      groups := s.groups.insert g ⟨w.id, w.grid, twin, leader, some p, p.die, [], none, s.now, s.clock, 0, []⟩
      ctxs := w.node.pk.offsets.foldl (fun t o => Tab.insert t (p.key o.1 o.2) (Ctx.initial g w.id w.node w.grid o.1 o.2)) s.ctxs } :=
  State.foldl_setCtx _ _ _ _

theorem State.ctx?_startGroup (s : State) (g : Nat) (w : Waiting) {p : Place} (twin : Option Nat) (leader : Bool) {dx dy : Nat}
    (hp : p.x + w.node.pk.w ≤ 8) (hx : dx < w.node.pk.w) (hy : dy < w.node.pk.h) :
    (s.startGroup g w p twin leader).ctx? (p.key dx dy) = some (Ctx.initial g w.id w.node w.grid dx dy) := by
  rw [State.startGroup_eq]
  refine Tab.find_foldl_insert (fun o : Nat × Nat => p.key o.1 o.2) (fun o => Ctx.initial g w.id w.node w.grid o.1 o.2) (dx, dy) _ _ ?_
    ((Packet.mem_offsets _ _ _).2 ⟨hx, hy⟩)
  rintro ⟨ex, ey⟩ he hk
  obtain ⟨rfl, rfl⟩ := Place.key_inj hp ((Packet.mem_offsets _ _ _).1 he).1 hx hk
  rfl

theorem State.ctx?_startGroup_ne (s : State) (g : Nat) (w : Waiting) (p : Place) (twin : Option Nat) (leader : Bool) {key : Nat}
    (h : ∀ dx < w.node.pk.w, ∀ dy < w.node.pk.h, key ≠ p.key dx dy) : (s.startGroup g w p twin leader).ctx? key = s.ctx? key := by
  rw [State.startGroup_eq]
  refine Tab.find_foldl_insert_ne _ _ key _ _ fun o ho => ?_
  obtain ⟨hx, hy⟩ := (Packet.mem_offsets _ o.1 o.2).1 ho
  exact h _ hx _ hy

/-! ## The signal that waits for a first group (15 R298) -/

@[simp] theorem State.ctx?_mapNode (s : State) (n k : Nat) (f : Node → Node) : (s.mapNode n f).ctx? k = s.ctx? k := by
  rw [State.ctx?, State.mapNode_ctxs, State.ctx?]

@[simp] theorem State.node?_mapCtx (s : State) (key n : Nat) (f : Ctx → Ctx) : (s.mapCtx key f).node? n = s.node? n := by
  rw [State.node?, State.mapCtx_nodes, State.node?]

section
variable (s : State) (rec key : Nat)

/-- Either no signal waits, or it passes from the node to the context. -/
theorem State.giveSignal_cases : s.giveSignal rec key = s ∨
    s.giveSignal rec key = (s.mapCtx key fun c => { c with hostsig := true }).mapNode rec fun n => { n with hostsig := false } := by
  unfold State.giveSignal
  split
  · split
    · exact .inr rfl
    · exact .inl rfl
  · exact .inl rfl

@[simp] theorem State.giveSignal_mem : (s.giveSignal rec key).mem = s.mem := by rcases s.giveSignal_cases rec key with h | h <;> simp [h]
@[simp] theorem State.giveSignal_groups : (s.giveSignal rec key).groups = s.groups := by rcases s.giveSignal_cases rec key with h | h <;> simp [h]
@[simp] theorem State.giveSignal_queues : (s.giveSignal rec key).queues = s.queues := by rcases s.giveSignal_cases rec key with h | h <;> simp [h]
@[simp] theorem State.giveSignal_accs : (s.giveSignal rec key).accs = s.accs := by rcases s.giveSignal_cases rec key with h | h <;> simp [h]

theorem State.ctx?_giveSignal_ne {k : Nat} (hk : k ≠ key) : (s.giveSignal rec key).ctx? k = s.ctx? k := by
  rcases s.giveSignal_cases rec key with h | h
  · rw [h]
  · rw [h, State.ctx?_mapNode, State.ctx?_mapCtx, if_neg hk]

theorem State.ctx?_giveSignal_of {k : Nat} {c : Ctx} (hc : s.ctx? k = some c) :
    ∃ b, (s.giveSignal rec key).ctx? k = some { c with hostsig := b } := by
  by_cases hk : k = key
  · rcases s.giveSignal_cases rec key with h | h
    · exact ⟨c.hostsig, by rw [h, hc]⟩
    · exact ⟨true, by rw [h, State.ctx?_mapNode, State.ctx?_mapCtx, if_pos hk, hc]; rfl⟩
  · exact ⟨c.hostsig, by rw [s.ctx?_giveSignal_ne rec key hk, hc]⟩

theorem State.node?_giveSignal_of {n : Node} (hn : s.node? rec = some n) :
    ∃ b, (s.giveSignal rec key).node? rec = some { n with hostsig := b } := by
  rcases s.giveSignal_cases rec key with h | h
  · exact ⟨n.hostsig, by rw [h, hn]⟩
  · exact ⟨false, by rw [h, State.node?_mapNode_self, State.node?_mapCtx, hn]; rfl⟩

end

/-! ## What waits, and where it fits (R79, R80) -/

theorem Waiting.of_mem_nodeWaiting {s : State} {rec : Nat} {n : Node} {w : Waiting} (h : w ∈ s.nodeWaiting rec n) :
    w.id = rec ∧ w.node = n ∧ (s.recState rec = stReady ∨ s.recState rec = stRunning) := by
  unfold State.nodeWaiting at h
  dsimp only at h
  split at h
  · next hst =>
    have hstate : s.recState rec = stReady ∨ s.recState rec = stRunning := by
      simp only [Bool.or_eq_true, Bool.and_eq_true, decide_eq_true_eq] at hst
      exact hst.imp_left And.left
    rcases List.mem_append.1 h with hsaved | hfirst
    · obtain ⟨_, _, rfl⟩ := List.mem_map.1 hsaved
      exact ⟨rfl, rfl, hstate⟩
    · split at hfirst
      · cases List.mem_singleton.1 hfirst
        exact ⟨rfl, rfl, hstate⟩
      · cases hfirst
  · cases h

theorem Waiting.of_mem_waiting {s : State} {d : Nat} {w : Waiting} (h : w ∈ s.waiting d) :
    w.node.queue / 4096 = d ∧ (s.recState w.id = stReady ∨ s.recState w.id = stRunning) := by
  obtain ⟨q, hq, hw⟩ := List.mem_flatMap.1 h
  obtain ⟨hid, hnode, hst⟩ := Waiting.of_mem_nodeWaiting hw
  have hdie := (List.mem_filter.1 ((mem_sortBy _ _ _).1 hq)).2
  rw [hid, hnode]
  exact ⟨of_decide_eq_true hdie, hst⟩

theorem Place.fits_of_mem_positions {d w h : Nat} {p : Place} (hp : p ∈ positions d w h) : p.x + w ≤ 8 := by
  simp only [positions, List.mem_flatMap, List.mem_map, List.mem_range] at hp
  obtain ⟨_, _, _, _, x, hx, rfl⟩ := hp
  show x + w ≤ 8
  omega

theorem State.findPlace_fits {s : State} {w : Waiting} {d i : Nat} {p : Place} (h : s.findPlace w d i = some p) :
    p.x + w.node.pk.w ≤ 8 := by
  unfold State.findPlace at h
  dsimp only at h
  split at h
  · cases h
  · exact Place.fits_of_mem_positions (List.mem_of_find?_eq_some h)

theorem State.findBoth_fits {s : State} {w : Waiting} {p : Place} {t : Option Place} (h : s.findBoth w = some (p, t)) : p.x + w.node.pk.w ≤ 8 := by
  obtain ⟨d, _, hd⟩ := List.exists_of_findSome?_eq_some h
  split at hd
  · cases hd
  · next q hq =>
    have hplace : s.findPlace w d 0 = some p := by
      split at hd
      · cases hd; exact hq
      · obtain ⟨_, _, e⟩ := Option.map_eq_some_iff.1 hd
        cases e; exact hq
    exact State.findPlace_fits hplace

/-! ## Placing a new group -/

/-- The node of a record that is READY is RUNNING from now on. -/
def State.asRunning (s : State) (rec : Nat) : State := if s.recState rec = stReady then s.setRecState rec stRunning else s

@[simp] theorem State.asRunning_ctxs (s : State) (rec : Nat) : (s.asRunning rec).ctxs = s.ctxs := by unfold State.asRunning; split <;> simp
@[simp] theorem State.asRunning_groups (s : State) (rec : Nat) : (s.asRunning rec).groups = s.groups := by unfold State.asRunning; split <;> simp
@[simp] theorem State.asRunning_nodes (s : State) (rec : Nat) : (s.asRunning rec).nodes = s.nodes := by unfold State.asRunning; split <;> simp
@[simp] theorem State.asRunning_queues (s : State) (rec : Nat) : (s.asRunning rec).queues = s.queues := by unfold State.asRunning; split <;> simp
@[simp] theorem State.asRunning_accs (s : State) (rec : Nat) : (s.asRunning rec).accs = s.accs := by unfold State.asRunning; split <;> simp

theorem State.recState_asRunning {s : State} {rec : Nat} (h : s.recState rec = stReady ∨ s.recState rec = stRunning) :
    (s.asRunning rec).recState rec = stRunning := by
  unfold State.asRunning
  split
  · exact s.recState_setRecState rec (by decide)
  · next hn => exact h.resolve_left hn

theorem State.readByte_asRunning (s : State) (rec : Nat) {b : Nat} (h : b < rec ∨ rec + 8 ≤ b) :
    readByte (s.asRunning rec).mem b = readByte s.mem b := by
  unfold State.asRunning
  split
  · exact s.readByte_setRecState rec stRunning h
  · rfl

/-- A group of its own, not one of a pair, with the next number. -/
def State.addGroup (s : State) (w : Waiting) (p : Place) : State :=
  ({ s with nextId := s.nextId + 2 } : State).startGroup s.nextId w p none true

theorem State.addGroup_mem (s : State) (w : Waiting) (p : Place) : (s.addGroup w p).mem = s.mem := by rw [State.addGroup, State.startGroup_eq]
theorem State.addGroup_nodes (s : State) (w : Waiting) (p : Place) : (s.addGroup w p).nodes = s.nodes := by rw [State.addGroup, State.startGroup_eq]
theorem State.addGroup_queues (s : State) (w : Waiting) (p : Place) : (s.addGroup w p).queues = s.queues := by rw [State.addGroup, State.startGroup_eq]
theorem State.addGroup_accs (s : State) (w : Waiting) (p : Place) : (s.addGroup w p).accs = s.accs := by rw [State.addGroup, State.startGroup_eq]

/-- The state once that group has taken its place: `State.placeOne_new` ties it to the model. -/
def State.placeNew (s : State) (w : Waiting) (p : Place) : State :=
  (((s.addGroup w p).asRunning w.id).mapNode w.id fun n => { n with nextGrid := n.nextGrid + 1 }).giveSignal w.id (p.key 0 0)

theorem State.clearClaim_of_none {s : State} {w : Waiting} (h : (s.die (w.node.queue / 4096)).claim = none) : s.clearClaim w = s := by
  simp only [State.clearClaim, h]

theorem State.placeOne_new {s : State} {w : Waiting} {p : Place} (hclaim : (s.die (w.node.queue / 4096)).claim = none) (hnew : w.saved = [])
    (hadm : s.admits w [] = true) (hfind : s.findBoth w = some (p, none)) : s.placeOne w = some (s.placeNew w p) := by
  simp only [State.placeOne, hadm, hfind, hnew, State.clearClaim_of_none hclaim]
  rfl

/-- With nothing to clear, room is asked for only where the first group does not fit. -/
theorem State.requestRoom_of_fits {s : State} {d : Nat} {w : Waiting} {rest : List Waiting} (hadm : s.admits w [] = true)
    (hfind : (s.findBoth w).isSome = true) : s.requestRoom d (w :: rest) = none := by
  unfold State.requestRoom
  split
  · next v hv _ =>
    cases hv
    simp only [hadm, hfind, Bool.and_self, Bool.or_true, if_true]
  · rfl

theorem State.placeStep_of_fits {s : State} {d : Nat} {w : Waiting} {rest : List Waiting} {t : State} (hclear : Claims.nothingToClear s d)
    (hwait : s.waiting d = w :: rest) (hadm : s.admits w [] = true) (hfind : (s.findBoth w).isSome = true) (hplace : s.placeOne w = some t) :
    s.placeStep d = some t := by
  obtain ⟨hpoison, hfinished, hclaim⟩ := hclear
  have hreadable : (s.nodes.filter fun p => p.2.queue / 4096 = d).find? (fun p => s.poisoned p.1 64) = none := by
    rw [List.find?_eq_none]
    intro p hp
    obtain ⟨hmem, hdie⟩ := List.mem_filter.1 hp
    have hqueue : p.2.queue / 4096 = d := of_decide_eq_true hdie
    rw [hpoison p hmem hqueue]
    exact Bool.false_ne_true
  have hunfinished : s.groups.find? (fun p => (s.nodes.filter fun p => p.2.queue / 4096 = d).any (fun n => n.1 = p.2.node) && s.finished p.1) = none := by
    rw [List.find?_eq_none]
    intro p hp hfin
    obtain ⟨hany, hfin⟩ := Bool.and_eq_true_iff.1 hfin
    obtain ⟨n, hn, he⟩ := List.any_eq_true.1 hany
    obtain ⟨hmem, hdie⟩ := List.mem_filter.1 hn
    have hqueue : n.2.queue / 4096 = d := of_decide_eq_true hdie
    rw [hfinished p hp ⟨n, hmem, hqueue, of_decide_eq_true he⟩] at hfin
    cases hfin
  have hunclaimed : s.claimStale d (w :: rest) = false := by simp only [State.claimStale, hclaim]
  simp only [State.placeStep, hreadable, hunfinished, hwait, hunclaimed, Bool.false_eq_true, if_false, State.requestRoom_of_fits hadm hfind, Option.none_or,
    List.findSome?_cons, hplace]

end Sys2Proof.Machine
end

section
/-! PROOF. A placed group's contexts are in the initial state of R53. -/

namespace Sys2Proof.Proofs

open Sys2Proof.Machine Sys2Proof.Claims

/-! ## The initial state -/

/-- Values written to the registers from 1 on, one after another. -/
theorem read_foldl_write_range (f : Nat → Word) (n i : Nat) :
    Tab.read 0 (((List.range n).map fun k => (k + 1, f k)).foldl (fun (t : Tab Word) (p : Nat × Word) => Tab.write 0 t p.1 p.2) []) i
      = if 1 ≤ i ∧ i ≤ n then f (i - 1) else 0 := by
  induction n with
  | zero => rw [if_neg (by omega)]; rfl
  | succ n ih =>
    simp only [List.range_succ, List.map_append, List.map_cons, List.map_nil, List.foldl_append, List.foldl_cons, List.foldl_nil, Tab.read_write, ih]
    by_cases h : i = n + 1
    · subst h; simp
    · have hiff : (1 ≤ i ∧ i ≤ n + 1) ↔ (1 ≤ i ∧ i ≤ n) := by omega
      simp only [h, if_false, hiff]

theorem initialScalars_eq (pk : Packet) (grid dx dy : Nat) : initialScalars pk grid dx dy = Tab.write 0 (Tab.write 0
    (((List.range 8).map fun k => (k + 1, pk.args.getD k 0)).foldl (fun (t : Tab Word) (p : Nat × Word) => Tab.write 0 t p.1 p.2) [])
    9 (BitVec.ofNat 64 grid)) 10 (BitVec.ofNat 64 (dx + dy * 2 ^ 8 + pk.w * 2 ^ 16 + pk.h * 2 ^ 24)) := by
  rw [initialScalars, List.foldl_append, List.foldl_cons, List.foldl_cons, List.foldl_nil]

/-- What the scalars of a new context read as: its arguments, grid index, and place in the group. -/
theorem read_initialScalars (pk : Packet) (grid dx dy i : Nat) : Tab.read 0 (initialScalars pk grid dx dy) i =
    if i = 10 then BitVec.ofNat 64 (dx + dy * 2 ^ 8 + pk.w * 2 ^ 16 + pk.h * 2 ^ 24)
    else if i = 9 then BitVec.ofNat 64 grid
    else if 1 ≤ i ∧ i ≤ 8 then pk.args.getD (i - 1) 0 else 0 := by
  rw [initialScalars_eq, Tab.read_write, Tab.read_write, read_foldl_write_range fun k => pk.args.getD k 0]

theorem readS_initial (g rec : Nat) (n : Node) (grid dx dy : Nat) {i : Nat} (h : i ≠ 0) :
    (Ctx.initial g rec n grid dx dy).readS i = Tab.read 0 (initialScalars n.pk grid dx dy) i := by
  simp only [Ctx.readS, if_neg h, Ctx.initial]
  rfl

theorem startsAs_initial (g rec : Nat) (n : Node) (grid dx dy : Nat) : startsAs (Ctx.initial g rec n grid dx dy) n grid dx dy := by
  have hargs : ∀ i < 8, (Ctx.initial g rec n grid dx dy).readS (i + 1) = n.pk.args.getD i 0 := fun i hi => by
    rw [readS_initial _ _ _ _ _ _ (by omega), read_initialScalars, if_neg (by omega), if_neg (by omega), if_pos (by omega), Nat.add_sub_cancel]
  have hgrid : (Ctx.initial g rec n grid dx dy).readS 9 = BitVec.ofNat 64 grid := by
    rw [readS_initial _ _ _ _ _ _ (by decide), read_initialScalars]; rfl
  have hplace : (Ctx.initial g rec n grid dx dy).readS 10 = BitVec.ofNat 64 (dx + dy * 2 ^ 8 + n.pk.w * 2 ^ 16 + n.pk.h * 2 ^ 24) := by
    rw [readS_initial _ _ _ _ _ _ (by decide), read_initialScalars]; rfl
  have hrest : ∀ i, 11 ≤ i → (Ctx.initial g rec n grid dx dy).readS i = 0 := fun i hi => by
    rw [readS_initial _ _ _ _ _ _ (by omega), read_initialScalars, if_neg (by omega), if_neg (by omega), if_neg (by omega)]
  have hmasks : ∀ i, i ≠ 0 → (Ctx.initial g rec n grid dx dy).readM i = 0 := fun i hi => if_neg hi
  exact ⟨rfl, rfl, rfl, rfl, hargs, hgrid, hplace, rfl, hrest, fun _ => rfl, rfl, hmasks, fun _ => rfl, fun _ => rfl, fun _ => rfl, fun _ => rfl,
    fun _ => rfl, fun _ => rfl, fun _ => rfl, fun _ => ⟨rfl, rfl⟩, fun _ => ⟨rfl, rfl⟩, rfl, rfl, rfl, rfl, rfl, rfl, rfl, rfl,
    fun _ => ⟨rfl, rfl⟩, rfl, rfl⟩

/-- A host signal that waits changes nothing of what R53's table gives. -/
theorem startsAs_hostsig {c : Ctx} {n : Node} {grid dx dy : Nat} (b : Bool) (h : startsAs c n grid dx dy) :
    startsAs { c with hostsig := b } n grid dx dy := h

/-! ## The state with the group placed -/

section
variable (s : State) (w : Waiting) (p : Place)

theorem group?_placeNew : ∃ g, (s.placeNew w p).group? s.nextId = some g ∧ g.node = w.id ∧ g.grid = w.grid ∧ g.place = some p ∧ g.die = p.die := by
  refine ⟨⟨w.id, w.grid, none, true, some p, p.die, [], none, s.now, s.clock, 0, []⟩, ?_, rfl, rfl, rfl, rfl⟩
  simp only [State.group?, State.placeNew, State.giveSignal_groups, State.mapNode_groups, State.asRunning_groups, State.addGroup, State.startGroup_eq]
  exact Tab.find_insert_self _ _ _

theorem ctx?_beforeSignal (t : State) (key : Nat) (f : Node → Node) : ((t.asRunning w.id).mapNode w.id f).ctx? key = t.ctx? key := by
  rw [State.ctx?_mapNode, State.ctx?, State.asRunning_ctxs, State.ctx?]

theorem ctx?_placeNew {dx dy : Nat} (hp : p.x + w.node.pk.w ≤ 8) (hx : dx < w.node.pk.w) (hy : dy < w.node.pk.h) :
    ∃ b, (s.placeNew w p).ctx? (p.key dx dy) = some { Ctx.initial s.nextId w.id w.node w.grid dx dy with hostsig := b } :=
  State.ctx?_giveSignal_of _ _ _ ((ctx?_beforeSignal w _ _ _).trans (State.ctx?_startGroup _ _ _ _ _ hp hx hy))

theorem ctx?_placeNew_ne {key : Nat} (hw : 0 < w.node.pk.w) (hh : 0 < w.node.pk.h)
    (hkey : ∀ dx < w.node.pk.w, ∀ dy < w.node.pk.h, key ≠ p.key dx dy) : (s.placeNew w p).ctx? key = s.ctx? key :=
  calc (s.placeNew w p).ctx? key
    _ = _ := State.ctx?_giveSignal_ne _ _ _ (hkey 0 hw 0 hh)
    _ = _ := ctx?_beforeSignal w _ _ _
    _ = s.ctx? key := State.ctx?_startGroup_ne _ _ _ _ _ _ hkey

theorem placeNew_mem : (s.placeNew w p).mem = ((s.addGroup w p).asRunning w.id).mem := by
  simp only [State.placeNew, State.giveSignal_mem, State.mapNode_mem]

theorem recState_placeNew (h : s.recState w.id = stReady ∨ s.recState w.id = stRunning) : (s.placeNew w p).recState w.id = 3 := by
  rw [State.recState_of_mem (placeNew_mem s w p)]
  exact State.recState_asRunning (by rwa [State.recState_of_mem (s.addGroup_mem w p)])

theorem memoryOutside_placeNew : memoryOutside s (s.placeNew w p) w.id 8 := fun b hb => by
  rw [placeNew_mem, State.readByte_asRunning _ _ hb, State.addGroup_mem]

theorem node?_placeNew {n : Node} (h : s.node? w.id = some n) : ∃ n', (s.placeNew w p).node? w.id = some n' ∧ n'.nextGrid = n.nextGrid + 1 := by
  have hrunning : ((s.addGroup w p).asRunning w.id).node? w.id = some n := by
    rw [State.node?, State.asRunning_nodes, State.addGroup_nodes]; exact h
  obtain ⟨b, hb⟩ := State.node?_giveSignal_of (((s.addGroup w p).asRunning w.id).mapNode w.id fun n => { n with nextGrid := n.nextGrid + 1 })
    w.id (p.key 0 0) (n := { n with nextGrid := n.nextGrid + 1 }) (by rw [State.node?_mapNode_self, hrunning]; rfl)
  exact ⟨_, hb, rfl⟩

theorem placeNew_queues : (s.placeNew w p).queues = s.queues := by simp [State.placeNew, State.addGroup_queues]
theorem placeNew_accs : (s.placeNew w p).accs = s.accs := by simp [State.placeNew, State.addGroup_accs]

end

/-- Settles O29: the first waiting group's `placeOne` is `State.placeNew`, whose contexts are `Ctx.initial` at the place's keys. -/
theorem groupsStartInTheInitialState : Obligations.GroupsStartInTheInitialState := by
  intro s d w rest p hclear hwait hnew hadm hfind hw hh
  have ⟨_, _, hclaim⟩ := hclear
  obtain ⟨hdie, hstate⟩ := Waiting.of_mem_waiting (s := s) (d := d) (w := w) (by rw [hwait]; exact List.mem_cons_self)
  have hone : s.placeOne w = some (s.placeNew w p) := State.placeOne_new (by rw [hdie]; exact hclaim) hnew hadm hfind
  have hstep : s.placeStep d = some (s.placeNew w p) := State.placeStep_of_fits hclear hwait hadm (by rw [hfind]; rfl) hone
  have hexec : exec (.groupPlace d) s = .next (s.placeNew w p) := congrArg (fun o => Host.Outcome.next (Option.getD o s)) hstep
  have hfits : p.x + w.node.pk.w ≤ 8 := State.findBoth_fits hfind
  obtain ⟨g, hg, hnode, hgrid, hplace, hgdie⟩ := group?_placeNew s w p
  refine ⟨s.placeNew w p, g, hexec, hg, hnode, hgrid, hplace, hgdie, ?_, fun key => ctx?_placeNew_ne s w p hw hh, recState_placeNew s w p hstate,
    memoryOutside_placeNew s w p, fun n hn => node?_placeNew s w p hn, placeNew_queues s w p, placeNew_accs s w p⟩
  intro dx hx dy hy
  obtain ⟨b, hb⟩ := ctx?_placeNew s w p hfits hx hy
  exact ⟨_, hb, rfl, rfl, rfl, rfl, rfl, rfl, startsAs_hostsig b (startsAs_initial _ _ _ _ _ _)⟩

end Sys2Proof.Proofs
end

section
/-! PROOF. LOOPX leaves the innermost loop, and traps on an empty stack (16 R344). -/

namespace Sys2Proof.Proofs

open Sys2Proof.Machine Sys2Proof.Claims

/-- LOOPX decodes at every type, needs no privilege and takes nothing: only its test of the stack counts. -/
theorem slotChecks_loopx (s : State) (key : Nat) (c : Ctx) :
    slotChecks .loopx loopxOp s key c = Chk.need (!c.loops.isEmpty) (trapOf 0x12 2 .s) := by
  rw [slotChecks_of_accept rfl rfl, show loopxOp.need s key c = Need.none from rfl, needChk_none]
  show (Chk.need (!c.loops.isEmpty) (trapOf 0x12 2 .s)).and .ok = _
  cases Chk.need (!c.loops.isEmpty) (trapOf 0x12 2 .s) <;> rfl

section
variable {s : State} {key : Nat} {c : Ctx}

/-- With an entry open, LOOPX has its effect on the context and tells of it in a BRANCH packet. -/
theorem exec_loopx_open (h : Issues s key c) (hopen : c.loops.isEmpty = false) : exec .loopx s =
    .next ((withCtx s key (loopLeave c)).trace key (pktBranch (key % 4) true ((loopLeave c).next.getD 0))) := by
  obtain ⟨hcur, hctx⟩ := h
  have hchecks : slotChecks .loopx loopxOp s key c = .ok := by rw [slotChecks_loopx, hopen]; rfl
  calc exec .loopx s
    _ = .next (loopxOp.effect s key c) := issueSlot_ok hcur hctx hchecks
    _ = .next ((s.mapCtx key loopLeave).trace key (pktBranch (key % 4) true ((loopLeave c).next.getD 0))) := rfl
    _ = _ := by rw [State.mapCtx_of s loopLeave hctx]; rfl

theorem exec_loopx_empty (h : Issues s key c) (hempty : c.loops = []) : exec .loopx s = .next (s.raiseOwn key ⟨0x12, 2, .s, 0⟩ 0 0) := by
  obtain ⟨hcur, hctx⟩ := h
  have hchecks : slotChecks .loopx loopxOp s key c = .trap ⟨0x12, 2, .s, 0⟩ 0 := by rw [slotChecks_loopx, hempty]; rfl
  exact issueSlot_trap hcur hctx hchecks

/-- What LOOPX leaves: the stack and the target that loop_end gives, else the bundle after the loop's last one. -/
theorem loopLeave_cons {e : LoopEnt} {rest : List LoopEnt} (h : c.loops = e :: rest) :
    loopLeave c = { c with
      loops := (loopEnd e.last rest).1
      next := some ((loopEnd e.last rest).2.getD (BitVec.ofInt 64 (e.last.toInt + 64))) } := by
  simp only [loopLeave, h]
  rfl

end

/-- Settles O6: `loopLeave` of a stack with an entry is loop_end of R345 on what lies under it; an empty stack fails LOOPX's one check. -/
theorem loopxLeavesTheInnermostLoop : Obligations.LoopxLeavesTheInnermostLoop := by
  intro s key c hissues
  constructor
  · intro e rest hloops
    rw [exec_loopx_open hissues (by rw [hloops]; rfl), loopLeave_cons hloops]
    rfl
  · exact exec_loopx_empty hissues

end Sys2Proof.Proofs
end
